-- ==== Sys2Proof/Word.lean ====
section
/-! DEFINITION. The words, byte strings and index types of the GZ25, and nothing else.
Widths follow R9 (registers of 32 or 64 bits) and the field tables of the chapters; indices follow R16 to R19 and R27. -/

namespace Sys2Proof

abbrev Byte := BitVec 8
abbrev U8 := BitVec 8
abbrev U16 := BitVec 16
abbrev U32 := BitVec 32
abbrev U64 := BitVec 64
abbrev U128 := BitVec 128
/-- A SHA-256 digest, a 256-bit key or seed. -/
abbrev U256 := BitVec 256
/-- A P-256 public key (x then y) or an ECDSA signature (r then s), R28 and R169. -/
abbrev U512 := BitVec 512
/-- A byte string, first byte first. -/
abbrev Bytes := List Byte

/-- Sparse data by a numeric key: a list of pairs with strictly rising keys (`Tbl.get`, `Tbl.set` in Machine/Ops). -/
abbrev Tbl (α : Type) := List (Nat × α)

/-- Partition number p, 0 to 7 (R274). -/
abbrev Part := Fin 8
/-- Compute die C0 to C7 (R12). -/
abbrev Die := Fin 8
/-- Region r of a die (R16). -/
abbrev Region := Fin 4
/-- Logical cluster 0 to 31 of a die (R18). -/
abbrev Cluster := Fin 32
/-- Physical cluster 0 to 35 of a die (R18). -/
abbrev PhysCluster := Fin 36
/-- Unit 0 to 7 of a cluster (R16). -/
abbrev UnitIx := Fin 8
/-- Round context 0 to 3 of a partition (R27). -/
abbrev Ctx := Fin 4
/-- PCIe port: 0 is A, 1 is B (R346). -/
abbrev PciePort := Fin 2
/-- Recel port 0 to 7 (R216). -/
abbrev RPort := Fin 8
/-- Sub-port 0 or 1 of a Recel port (R216). -/
abbrev SubPort := Fin 2
/-- LPDDR5X site 0 to 7 (R197). -/
abbrev Site := Fin 8
/-- A die with temperature sensors: 0 to 7 C0 to C7, 8 to 11 M0 to M3, 12 to 15 L0 to L3, 16 H (R340, R345). -/
abbrev AnyDie := Fin 17
/-- A UCIe module, numbered join by join in the order of R13: C-M (8 joins of 4), M-M (6 of 2), L-M (4 of 2), H-M (4 of 1). -/
abbrev UcieModule := Fin 56

end Sys2Proof
end

