-- ==== Sys2Proof/Syntax.lean ====
section
/-! DEFINITION. The commands of the block: one constructor of `Instr` per row of spec/opcode_table.json, with the operands
the row's rule gives it. Host commands carry the operands of the 64-byte entry (R356, R360) at their entry widths; beat
instructions carry the fields of the 128-bit word (R183); frames carry the fields of their wire formats; an event of the
outside world carries what the device measures in it (a temperature, an arrival time, a window of samples). (DESIGN CHOICE,
log entry 15) -/

namespace Sys2Proof

/-! ### Operands of the host commands (R356, R360) -/

/-- A PCIe function: function 0 of a port, or the function of a partition on the partition's port (R281, R346). -/
inductive Fn where
  | f0 (port : PciePort)
  | part (p : Part)
  deriving DecidableEq, Repr

/-- The head of a fetched command entry: the function that fetched it and its TAG (R356). -/
structure Cmd where
  fn : Fn
  tag : U32
  deriving DecidableEq, Repr

/-- CONTEXT and ROUND_ID, which every command naming a round context carries (R359). -/
structure RoundRef where
  context : U8
  roundId : U64
  deriving DecidableEq, Repr

/-- Operands of CONN_CREATE (R360 code 0x22). -/
structure ConnSpec where
  conn : U32
  cls : U8
  ports : U8
  paths : U8
  payloadLog : U8
  remoteConn : U32
  ipVersion : U8
  udpSrcBase : U16
  remoteIp : U128
  landingVA : U64
  landingLen : U64
  deriving DecidableEq, Repr

/-- Operands of TWIN_BIND (R257, R360 code 0x31). -/
structure BindSpec where
  role : U8
  d : U8
  peerMember : U16
  peerPartition : U8
  twinConn : U32
  ckptInterval : U32
  bindBeat : U64
  ckptVA : U64
  ckptBytes : U64
  logVA : U64
  logBytes : U64
  deriving DecidableEq, Repr

/-- Operands of REPLAY_START (R269, R360 code 0x33). -/
structure ReplaySpec where
  ckptVA : U64
  logVA : U64
  logBytes : U64
  firstSeq : U64
  lastBeat : U64
  deriving DecidableEq, Repr

/-- What the peer answers to TWIN_BIND (R257 check 6). -/
structure BindAnswer where
  role : U8
  measurement : U256
  dieCount : Nat
  d : Nat
  interval : Nat
  deriving DecidableEq, Repr

/-- Bytes the host wrote to its memory before ringing a doorbell (R355, R368). -/
structure HostWrite where
  addr : U64
  data : Bytes
  deriving DecidableEq, Repr

/-- The bits of a function's configuration space that the device acts on (R348, R368). -/
structure ConfigBits where
  busMaster : Bool
  memSpace : Bool
  d3hot : Bool
  relaxed : Bool
  deriving DecidableEq, Repr

/-- What a finished quiescent test found (R389). -/
structure TestOutcome where
  verdict : U8
  failing : U16
  firstOffset : U32
  deriving DecidableEq, Repr

/-! ### Operands of the beat instructions (R183) -/

/-- The unit that issues an instruction: partition, die, logical cluster, unit. -/
structure UnitId where
  part : Part
  die : Die
  cluster : Cluster
  unit : UnitIx
  deriving DecidableEq, Repr

/-- Format X, control. -/
structure XFmt where
  sync : Bool
  xd : BitVec 3
  xa : BitVec 3
  xb : BitVec 3
  body : BitVec 24
  imm : U64
  deriving DecidableEq, Repr

/-- Format V, vector. `step` holds bits [63:60]: VD, VA, VB, TILE. -/
structure VFmt where
  sync : Bool
  mod : BitVec 5
  acc : Bool
  tile : BitVec 6
  vd : U8
  va : U8
  vb : U8
  rep : BitVec 12
  step : BitVec 4
  imm : U64
  deriving DecidableEq, Repr

/-- Format M, memory. -/
structure MFmt where
  sync : Bool
  mod : BitVec 5
  acc : Bool
  tile : BitVec 6
  vd : U8
  xa : BitVec 3
  rep : BitVec 12
  step : BitVec 4
  off : U64
  deriving DecidableEq, Repr

/-- Format O, cluster operation. -/
structure OFmt where
  sync : Bool
  xd : BitVec 3
  xa : BitVec 3
  xb : BitVec 3
  mod : BitVec 5
  p24 : BitVec 24
  p8 : U8
  imm : U64
  deriving DecidableEq, Repr

/-- Format S, stream. -/
structure SFmt where
  sync : Bool
  xd : BitVec 3
  xs : BitVec 3
  xc : BitVec 3
  sub : BitVec 2
  ctx : BitVec 2
  len : BitVec 40
  soff : U32
  doff : U32
  deriving DecidableEq, Repr

/-- Format T, tally. -/
structure TFmt where
  sync : Bool
  xd : BitVec 3
  xs : BitVec 3
  xc : BitVec 3
  sq : Bool
  ctx : BitVec 2
  elems : BitVec 40
  first : U64
  deriving DecidableEq, Repr

/-- The shared engines that run asynchronous operations (R184, R191). -/
inductive Engine where
  | fingerprint | crossbar | aes | sampler | tally | port
  deriving DecidableEq, Repr

/-! ### Operands of the fabric and the ports -/

/-- Head of a verifier-exchange message and the connection it arrived on (R76). -/
structure XchgHead where
  conn : Nat
  sender : U8
  contrib : U32
  roundLow : U32
  stretchId : U32
  deriving DecidableEq, Repr

/-- A verifier share: U(t), V(t), P(t), y (R74). -/
structure VerifierShare where
  u : U64
  v : U64
  pt : U64
  y : U64
  deriving DecidableEq, Repr

/-- A group member's hand-off: its counts k_i, accumulator words and admitted count (R62). -/
structure MemberTransfer where
  rank : Fin 16
  counts : List (Nat × Nat)
  acc : List U32
  admitted : Nat
  deriving DecidableEq, Repr

/-- An entry of ORDER (R259). -/
structure OrderEntry where
  source : U8
  number : BitVec 24
  item : U32
  length : U32
  deriving DecidableEq, Repr

/-- What the SecTAG of a received frame says (R218): whether its ICV verifies, whether its association number is that of the
association installed last (else of the one before it, during a rekey), and its packet number. -/
structure SecTag where
  icvOk : Bool
  fresh : Bool
  pn : U64
  deriving DecidableEq, Repr

/-- A received RXT frame: where it arrived, its SecTAG, the IP and UDP fields the device checks, the 40-byte header
of R222 (its OPCODE is the row's) and the payload with its seal tag; whether a switch has marked it, and how many bytes of its
partition's share of the port's receive buffer wait ahead of it (R244). -/
structure RxtFrame where
  port : RPort
  sub : SubPort
  sec : SecTag
  dstIp : U128
  dstPort : U16
  srcIp : U128
  version : U8
  partition : U8
  flags : U8
  instar : U32
  destConn : BitVec 24
  echo : U8
  psn : U32
  msgId : U32
  payloadLen : U16
  grantId : U16
  offset : BitVec 48
  reserved : U16
  keyOrTag : U64
  payload : Bytes
  sealTag : U128
  marked : Bool
  backlog : Nat
  deriving DecidableEq, Repr

/-- The 480-byte CONNECT body (R296). -/
structure ConnectBody where
  typ : U8
  reason : U8
  member : U16
  partition : U8
  conn : BitVec 24
  keyGen : U32
  lifeCycle : U8
  reserved0 : BitVec 24
  eph : U512
  deviceId : U512
  alias_ : U512
  fwMeasure : U256
  chitin : U256
  endorse : U512
  wrap : BitVec 384
  reserved1 : U256
  sig : U512
  deriving DecidableEq, Repr

/-- A chirp (R255) as it arrives: the RXT packet, whose payload is given as the fields of the 32-byte body (`marks` is its
FLAGS, `spare` its reserved bytes). `arrival` is its arrival time less the start of the receiver's current beat, in units of
0.8 ns. -/
structure ChirpFrame extends RxtFrame where
  beat : U64
  echoBeat : U64
  turn : U32
  period : U32
  master : U16
  hops : U8
  marks : U8
  spare : U32
  arrival : Int
  deriving DecidableEq, Repr

/-- A link-handshake HELLO (R219). -/
structure HelloFrame where
  eph : U512
  static : U512
  sig : U512
  deriving DecidableEq, Repr

/-- An ARP request (R217). -/
structure ArpFrame where
  sec : SecTag
  senderMac : BitVec 48
  senderIp : U32
  targetIp : U32
  deriving DecidableEq, Repr

/-- An IPv6 Neighbor Solicitation (R217). -/
structure NdFrame where
  sec : SecTag
  senderMac : BitVec 48
  senderIp : U128
  target : U128
  deriving DecidableEq, Repr

/-! ### What the device measures -/

/-- A physical upset of stored bits (R196, R197, R132, R117): a line of a slice or of a site, a tile of an accumulator file, the
molt table store of a region; or a key slot, the root record or an entry of the release ledger, whose tag or pattern then fails
(R288, R292). `double` is whether the code can no longer correct it. -/
inductive Upset where
  | sram (d : Die) (c : PhysCluster) (line : Fin 524288) (double : Bool)
  | dram (s : Site) (row : Nat) (line : Nat) (double : Bool)
  | tile (d : Die) (c : Cluster) (u : UnitIx) (t : Fin 64)
  | store (d : Die) (r : Region)
  | slot (i : Fin 64)
  | root
  | ledger (i : Fin 1024)
  deriving DecidableEq, Repr

/-- What a beat boundary finds: the energy of the ending beat in units of 0.25 W per compute die with its SRAM die, per
site, per partition's lanes, and of the rest of the package (R335); the functions whose command read ended in a PCIe
error (R355); and the upsets of the ending beat. -/
structure BoundaryInputs where
  dieDraw : List Nat
  siteDraw : List Nat
  laneDraw : List Nat
  restDraw : Nat
  fetchErrors : List Fn
  upsets : List Upset
  deriving DecidableEq, Repr

/-- A firefly window: 1,024 samples and the final trim code of each of the 32 cells (R311, R313). -/
structure WindowSample where
  bits : List (BitVec 1024)
  trims : List (BitVec 6)
  deriving DecidableEq, Repr

/-- What the clock monitor finds in a window of 1 ms (R330). -/
structure ClockSample where
  xoOffRecovered : Bool
  recoveredInRange : Bool
  refA : Bool
  refB : Bool
  xoOffA : Bool
  xoOffB : Bool
  freqOffset : U32
  lane : BitVec 3
  deriving DecidableEq, Repr

/-- Current read-back over AVSBus per compute die, in units of 0.25 W of draw (R335). -/
structure CalibrationSample where
  dieDraw : List Nat
  deriving DecidableEq, Repr

/-- A PLL under check (R332). -/
inductive PllTarget where
  | die (d : Die)
  | mem (k : Fin 4)
  | link (k : Fin 4)
  deriving DecidableEq, Repr

/-- The SUPPLY conditions of R343 other than a droop. -/
inductive RailAlert where
  | alertPin
  | rail (n : Fin 11)
  deriving DecidableEq, Repr

/-- The emergencies of R343. -/
inductive Emergency where
  | thermal | supply | clock
  deriving DecidableEq, Repr

/-- The wake events of R339. -/
inductive WakeCause where
  | doorbell (fn : Fn)
  | pwrWrite
  | rxtData (p : Part)
  | tamper
  | emergency
  | requestZero
  deriving DecidableEq, Repr

/-- The tamper causes of KEY_TAMPER (R309). -/
inductive TamperCause where
  | mesh | light | rail | temperature | vbatLoss
  deriving DecidableEq, Repr

/-- What hub reset samples: the MGR_SEL strap, TEST_MODE and the clock inputs (R392, R405, R410); and whether the boot scan finds
the record that a loss of main power interrupted there without its TYPE (R381). -/
structure ResetInputs where
  mgrSel : PciePort
  testMode : Bool
  xoPresent : Bool
  refA : Bool
  refB : Bool
  torn : Bool
  deriving DecidableEq, Repr

/-- What the entries of one CLOSING beat have expanded for a context: keystream blocks of 16 bytes (R58, R419). -/
structure ExpandWork where
  ctx : Ctx
  blocks : Nat
  deriving DecidableEq, Repr

/-- The head of a twin message: the partition, and every byte its format marks reserved or zero, as it arrived: seven of the head,
those of the body and the last four of each entry (R258, R259). -/
structure TwinHead where
  part : Part
  reserved : Bytes
  deriving DecidableEq, Repr

/-- What a secondary has when it has caught up (R258): the partner's F, and the log key and bytes the primary sent. -/
structure CatchUp where
  partnerFp : U128
  logKey : U256
  transfer : Bytes
  deriving DecidableEq, Repr

/-- The cluster of a region whose self-test ends, and its verdict (R387). -/
structure SpareResult where
  off : Fin 9
  pass : Bool
  deriving DecidableEq, Repr

/-- A flit that failed its CRC: its direction, its number, and the number of the newest flit sent there (R14). -/
structure FlitFailure where
  dir : Fin 2
  sent : Nat
  flit : Nat
  deriving DecidableEq, Repr

/-- The port whose BAR a read of RNG_RAW takes, and whether it is 64 bits wide (R7, R324). -/
structure RawRead where
  port : PciePort
  wide : Bool
  deriving DecidableEq, Repr

/-- A mailbox command that burns a fuse or writes the flash: its length, and whether the burn or write verifies (R301, R302). -/
structure BurnCmd where
  len : Nat
  verified : Bool
  deriving DecidableEq, Repr

/-- The line a patrol read names (R210). -/
inductive PatrolTarget where
  | sram (d : Die) (c : PhysCluster) (line : Fin 524288)
  | dram (s : Site) (row : Nat) (line : Nat)
  deriving DecidableEq, Repr

/-- What a patrol read finds (R196, R197). -/
inductive EccOutcome where
  | clean | corrected | uncorrectable
  deriving DecidableEq, Repr

/-- Whether a cluster to retire can still be read, and whether it still works (R211). -/
structure RetireCause where
  readable : Bool
  works : Bool
  deriving DecidableEq, Repr

/-! ### Operands of attestation and the TAP -/

/-- The algorithms an SPDM requester offers (R305). -/
structure SpdmAlgorithms where
  ecdsaP256 : Bool
  sha256 : Bool
  secp256r1 : Bool
  aes256gcm : Bool
  deriving DecidableEq, Repr

/-- A PCIe IDE key-management message (R305). -/
inductive IdeKeyMessage where
  | query
  | keyProg (key : U256)
  | setGo
  | setStop
  deriving DecidableEq, Repr

/-- IEEE 1149.1 instructions (R413). -/
inductive TapInstr where
  | bypass
  | idcode
  | samplePreload (cells : List Bool)
  | extest (cells : List Bool)
  | other
  deriving DecidableEq, Repr

/-- The commands. -/
inductive Instr where
  /-- R25. At each beat boundary the device runs the ordered boundary steps for every partition and starts the next beat. -/
  | beatBoundary (m : BoundaryInputs)
  /-- R155. The commit window opens 1.6 µs before the beat's end, and clusters still issuing are judged. -/
  | commitWindowOpen (p : Part)
  /-- R172. At a fallow beat the swap of one logical cluster per region to the tested spare begins. -/
  | testSwapStart (p : Part)
  /-- R172. After the fallow-beat copy the cluster map takes the new mapping and the released cluster goes to test. -/
  | swapMapUpdate (p : Part)
  /-- R174. The running job's quantum of beats runs out, and a switch is armed for its next pre-emption point. -/
  | quantumExpiry (p : Part)
  /-- R175. At a pre-emption point a switch beat saves the outgoing job's context and loads the incoming job's context. -/
  | jobSwitch (p : Part)
  /-- R184. Instruction that does nothing for one cycle. -/
  | nop (u : UnitId) (f : XFmt)
  /-- R184. Adds two index registers and an immediate into an index register. -/
  | xadd (u : UnitId) (f : XFmt)
  /-- R185. Loads a 64-bit word from the own slice, or the commit list through the reserved-area form, into an index register. -/
  | xld (u : UnitId) (f : XFmt)
  /-- R187. Repeats the following body an immediate number of times. -/
  | loop (u : UnitId) (f : XFmt)
  /-- R187. Repeats the following body an index-register number of times, aborting with BEAT_OVERRUN above its declared maximum. -/
  | loopx (u : UnitId) (f : XFmt)
  /-- R184. Selects the current modulus-table entry. -/
  | msel (u : UnitId) (f : XFmt)
  /-- R184. Waits until every earlier asynchronous operation of the unit has completed. -/
  | waits (u : UnitId) (f : XFmt)
  /-- R184. Waits until all eight units of the cluster reach their k-th barrier of the step. -/
  | barrier (u : UnitId) (f : XFmt)
  /-- R184. Waits until the named logical clusters of the region reach their k-th region barrier. -/
  | rbarrier (u : UnitId) (f : XFmt)
  /-- R184. Adds a memory range to the beat fingerprint input on the fingerprint engine. -/
  | fpadd (u : UnitId) (f : XFmt)
  /-- R184. Modular vector addition. -/
  | vadd (u : UnitId) (f : VFmt)
  /-- R184. Modular vector subtraction. -/
  | vsub (u : UnitId) (f : VFmt)
  /-- R184. Modular vector negation. -/
  | vneg (u : UnitId) (f : VFmt)
  /-- R184. Vector register copy. -/
  | vmov (u : UnitId) (f : VFmt)
  /-- R184. Fills every element of a register with an immediate reduced modulo m. -/
  | vsplat (u : UnitId) (f : VFmt)
  /-- R184. Modular vector multiplication. -/
  | vmul (u : UnitId) (f : VFmt)
  /-- R184. Modular vector multiplication by an immediate scalar. -/
  | vmuls (u : UnitId) (f : VFmt)
  /-- R184. Reduces vector words modulo m. -/
  | vred (u : UnitId) (f : VFmt)
  /-- R129. Writes or accumulates a register into a tile under the ACC flag. -/
  | tacc (u : UnitId) (f : VFmt)
  /-- R129. Writes or accumulates the modular product of two registers into a tile. -/
  | tmac (u : UnitId) (f : VFmt)
  /-- R129. Writes or accumulates the modular product of a register and an immediate into a tile. -/
  | tmacs (u : UnitId) (f : VFmt)
  /-- R130. Reads a tile into a register, reducing it in place. -/
  | tread (u : UnitId) (f : VFmt)
  /-- R184. Sets the POISON bit of a tile. -/
  | tpois (u : UnitId) (f : VFmt)
  /-- R184. Runs one Cooley–Tukey stage on a limb. -/
  | nstage (u : UnitId) (f : OFmt)
  /-- R184. Runs one Gentleman–Sande stage on a limb. -/
  | istage (u : UnitId) (f : OFmt)
  /-- R90. Whole-limb forward NTT on the cluster network. -/
  | nttl (u : UnitId) (f : OFmt)
  /-- R90. Whole-limb inverse NTT with N^-1 folded in. -/
  | inttl (u : UnitId) (f : OFmt)
  /-- R90. Applies the automorphism permutation X to X^g on a limb. -/
  | autol (u : UnitId) (f : OFmt)
  /-- R101. Adds two ciphertexts after the operand checks. -/
  | ctAdd (u : UnitId) (f : OFmt)
  /-- R101. Subtracts two ciphertexts after the operand checks. -/
  | ctSub (u : UnitId) (f : OFmt)
  /-- R101. Adds a plaintext to a ciphertext. -/
  | ctAddp (u : UnitId) (f : OFmt)
  /-- R101. Multiplies a ciphertext by a plaintext. -/
  | ctMulp (u : UnitId) (f : OFmt)
  /-- R101. Multiplies two ciphertexts and relinearizes with the RELIN key. -/
  | ctMul (u : UnitId) (f : OFmt)
  /-- R101. Rotates a ciphertext by a key switch with the ROTATE key. -/
  | ctRot (u : UnitId) (f : OFmt)
  /-- R101. Conjugates a ciphertext with the CONJ key. -/
  | ctConj (u : UnitId) (f : OFmt)
  /-- R101. Rescales a CKKS ciphertext down one level. -/
  | ctRescale (u : UnitId) (f : OFmt)
  /-- R101. Drops a ciphertext to a lower level. -/
  | ctDrop (u : UnitId) (f : OFmt)
  /-- R101. Converts an object into NTT form. -/
  | ctNtt (u : UnitId) (f : OFmt)
  /-- R101. Converts an object out of NTT form. -/
  | ctIntt (u : UnitId) (f : OFmt)
  /-- R101. Sums all slots of a ciphertext by repeated rotations and additions. -/
  | ctSlotsum (u : UnitId) (f : OFmt)
  /-- R121. Runs a table-driven refresh: down-switch, extraction, blind rotation, up-switch, shift and pack. -/
  | molt (u : UnitId) (f : OFmt)
  /-- R122. Runs the molt's down-switch and extraction, and writes LWE batches. -/
  | moltEx (u : UnitId) (f : OFmt)
  /-- R106. Encrypts release noise and flooding and adds it to one accumulated ciphertext. -/
  | ctFlood (u : UnitId) (f : OFmt)
  /-- R108. Combines decryption shares with a source ciphertext and decodes the slots. -/
  | ctCombine (u : UnitId) (f : OFmt)
  /-- R74. Computes a party's verifier share for one contribution. -/
  | vshare (u : UnitId) (f : OFmt)
  /-- R75. Sums the verifier shares and writes an ACCEPT or PROOF verdict. -/
  | vcheck (u : UnitId) (f : OFmt)
  /-- R185. Loads 128 bytes from the unit's own slice into a register. -/
  | ld (u : UnitId) (f : MFmt)
  /-- R185. Stores a register into the unit's own slice. -/
  | st (u : UnitId) (f : MFmt)
  /-- R184. Writes or accumulates 128 bytes of memory into a tile. -/
  | tld (u : UnitId) (f : MFmt)
  /-- R184. Stores a reduced tile to memory. -/
  | tst (u : UnitId) (f : MFmt)
  /-- R184. Asynchronously copies a range through the region crossbar. -/
  | scopy (u : UnitId) (f : SFmt)
  /-- R184. Asynchronously zeroes a range. -/
  | szero (u : UnitId) (f : SFmt)
  /-- R184. Expands AES-256-CTR keystream, writing blocks or field elements, or subtracting or adding words. -/
  | prg (u : UnitId) (f : SFmt)
  /-- R184. Computes SHA-256 of a range on the fingerprint engine. -/
  | hash (u : UnitId) (f : SFmt)
  /-- R184. Draws samples of a given kind from the context's release instance. -/
  | sample (u : UnitId) (f : SFmt)
  /-- R73. Expands the joint seed into verifier randomness and the query point. -/
  | vjoint (u : UnitId) (f : SFmt)
  /-- R243. Sends a range as one sealed XFER message on a fabric connection. -/
  | xmit (u : UnitId) (f : SFmt)
  /-- R142. Decodes tile words to FP64 values. -/
  | tdec (u : UnitId) (f : TFmt)
  /-- R137. Reduces values or squares in the fixed order into partial totals. -/
  | tred (u : UnitId) (f : TFmt)
  /-- R137. Merges partial totals in the fixed order. -/
  | tmerge (u : UnitId) (f : TFmt)
  /-- R143. Forms the clip norm and factor and applies clip-scale. -/
  | tclip (u : UnitId) (f : TFmt)
  /-- R144. Adds discrete Gaussian noise to values. -/
  | tnoise (u : UnitId) (f : TFmt)
  /-- R145. Forms statistics records for groups. -/
  | tstat (u : UnitId) (f : TFmt)
  /-- R146. Applies the optimizer step using the optimizer state. -/
  | topt (u : UnitId) (f : TFmt)
  /-- R147. Encodes values into the output format in staging. -/
  | tenc (u : UnitId) (f : TFmt)
  /-- R191. An asynchronous operation on a shared engine completes and releases any interlocked unit. -/
  | asyncOpComplete (u : UnitId) (e : Engine)
  /-- R184. The last party arrives at a barrier and the waiting units resume. -/
  | barrierRelease (p : Part) (d : Die) (c : Cluster) (region : Bool)
  /-- R275. Checks a creation block and creates a partition with its root key and function. -/
  | partCreate (c : Cmd) (createPA : U64)
  /-- R283. Starts removal: aborts rounds, orphans keys, revokes grants and drains connections. -/
  | partRemove (c : Cmd) (partition : U8)
  /-- R285. All engine classes report drained, and resources are freed and zeroing begins. -/
  | removeDrained (p : Part)
  /-- R285. Removal zeroing ends, reservations are released, the function is disabled and the partition becomes ABSENT. -/
  | removeComplete (p : Part)
  /-- R170. Checks a chitin image in order while the old image keeps running. -/
  | partLoad (c : Cmd) (imageVA imageBytes : U64)
  /-- R171. The image checks pass, contexts are re-judged, the old image stops, keys are re-derived and zeroing starts. -/
  | partLoadChecksEnd (p : Part)
  /-- R171. Zeroing ends and dies reach MIN_OP, the new image is installed and the completion is posted. -/
  | partLoadComplete (p : Part)
  /-- R336. Sets the partition's OP_MAX ceiling. -/
  | opSet (c : Cmd) (opMax : U8)
  /-- R252. Checks and pends a new instar with its effective beat. -/
  | instarSet (c : Cmd) (newInstar : U32) (effectiveBeat : U64)
  /-- R252. At the effective beat the pending instar becomes SYS_INSTAR and the command completes. -/
  | instarEffective
  /-- R29. Checks a policy block and slot in order and claims a context and ledger entry. -/
  | roundOpen (c : Cmd) (policyVA slotVA slotBytes openBeat : U64)
  /-- R30. At the boundary before the open beat the round opens: bitmap and range cleared, slot header written, state OPEN. -/
  | roundOpenEffect (p : Part) (k : Ctx)
  /-- R31. Fixes the last admitting beat of an OPEN round. -/
  | roundClose (c : Cmd) (r : RoundRef)
  /-- R31. The last admitting beat ends and the round enters CLOSING. -/
  | admissionDeadline (p : Part) (k : Ctx)
  /-- R31. The admitted count reaches MAX_COHORT, ending admission at that beat. -/
  | cohortLimitReached (p : Part) (k : Ctx)
  /-- R57. Reads and checks a seed list, then queues its expansion. -/
  | roundUnmask (c : Cmd) (r : RoundRef) (listVA : U64) (recordCount : U32)
  /-- R58, R419. An expansion beat commits: the 16-byte keystream blocks that its entries issued have been applied, record by record;
  with its last record a command completes. -/
  | unmaskExpansionComplete (p : Part) (w : ExpandWork)
  /-- R59. The mode's close work is complete and the round enters CLOSED. -/
  | closeWorkComplete (p : Part) (k : Ctx)
  /-- R59. RECOVERY_BEATS pass without complete close work; expansion stops, tiles are poisoned and the round is HELD. -/
  | recoveryTimeout (p : Part) (k : Ctx)
  /-- R62. A group member sends its count array and accumulator to the leader in its first CLOSING beat. -/
  | memberHandoffSend (p : Part) (k : Ctx)
  /-- R62. The leader merges a member's accumulator, counts and admitted count. -/
  | memberTransferArrive (p : Part) (k : Ctx) (m : MemberTransfer)
  /-- R62. A member receives the leader's acknowledgement, completes close work and counts its contributors excluded. -/
  | memberTransferAck (p : Part) (k : Ctx)
  /-- R37. Runs the release checks and starts FINALIZING with the FILLING header. -/
  | roundFinalize (c : Cmd) (r : RoundRef)
  /-- R419. Step 2 ends with the payload encoded into staging. -/
  | releasePipelineDone (p : Part) (k : Ctx)
  /-- R40. The payload write ends, the READY header is written and ROUND_FINALIZE completes OK. -/
  | slotWriteComplete (p : Part) (k : Ctx)
  /-- R41. An entropy stall outlasts the finalize deadline, staging is discarded and the round is HELD (ENTROPY). -/
  | finalizeDeadline (p : Part) (k : Ctx)
  /-- R41. The twin's release fingerprint is absent for 64 beats and the round is HELD (TWIN_ABSENT). -/
  | twinReleaseTimeout (p : Part) (k : Ctx)
  /-- R150. An uncorrectable error in staging or the tally unit restarts step 2, poisons on a second error, or ends the release after the ledger mark. -/
  | stagingError (p : Part) (k : Ctx)
  /-- R44. Stops admission, clears the bitmap, writes an EMPTY header and starts zeroing the round's memory. -/
  | roundAbort (c : Cmd) (r : RoundRef)
  /-- R44. The abort's zeroing and header write end, and the context becomes FREE. -/
  | abortZeroingComplete (p : Part) (k : Ctx)
  /-- R43. Starts zeroing a RELEASED slot's payload. -/
  | resultAck (c : Cmd) (r : RoundRef)
  /-- R43. The RETIRED header is written, the context is freed and the completion is posted. -/
  | resultAckComplete (p : Part) (k : Ctx)
  /-- R107. A COMBINE round reads and checks its source ciphertexts in its first CLOSING beats. -/
  | combineSourceRead (p : Part) (k : Ctx)
  /-- R81. With no share staged, a helper sends DONE and its aggregate share to the leader. -/
  | helperCloseSend (p : Part) (k : Ctx)
  /-- R81. The leader's acknowledgement reaches the helper, which counts its contributors excluded. -/
  | helperTransferAck (p : Part) (k : Ctx)
  /-- R82. The leader adds a helper's aggregate share into its accumulator modulo p. -/
  | xchgAggregateShare (p : Part) (k : Ctx) (party : Fin 4) (share : List U64)
  /-- R76. The leader receives a helper's J_k and PARAM_TAG for a contributor. -/
  | xchgPart (p : Part) (h : XchgHead) (jk : U256) (paramTag : U128)
  /-- R76. A helper receives the joint seed for a contributor. -/
  | xchgSeed (p : Part) (h : XchgHead) (seed : U256)
  /-- R76. The leader receives a helper's verifier share. -/
  | xchgShare (p : Part) (h : XchgHead) (v : VerifierShare)
  /-- R79. A helper acts on a verdict by committing or discarding the staged share. -/
  | xchgDecide (p : Part) (h : XchgHead) (verdict : U8)
  /-- R82. The leader receives a helper's accepted count and ACCEPT_DIGEST. -/
  | xchgDone (p : Part) (h : XchgHead) (accepted : U32) (digest : U256)
  /-- R78. An admitted index undecided after VERIFY_BEATS is decided TIMEOUT. -/
  | verifyTimeout (p : Part) (k : Ctx) (index : Nat)
  /-- R78. A PART kept for an unadmitted index expires and the leader decides ABSENT. -/
  | partHoldExpiry (p : Part) (k : Ctx) (index : Nat)
  /-- R99. Registers or unregisters a key-set in a slot after checking its block headers and computing its digest. -/
  | keysetLoad (c : Cmd) (slot : U8) (ksVA : U64) (blockTotal : U32)
  /-- R236. Creates an ACTIVE grant with the lowest free id. -/
  | grantCreate (c : Cmd) (perms : U8) (conn : U32) (va length : U64)
  /-- R238. Makes a grant REVOKING on every link die from the next beat. -/
  | grantRevoke (c : Cmd) (grant : U16)
  /-- R238. IN_FLIGHT reaches zero, the grant becomes FREE and the completion is posted. -/
  | grantRevokeComplete (p : Part) (g : Fin 4096)
  /-- R237. An admitted placement write completes or is refused, and IN_FLIGHT is decremented. -/
  | placementComplete (p : Part) (g : Fin 4096)
  /-- R231. Checks and creates a connection context; a fabric connection starts key agreement. -/
  | connCreate (c : Cmd) (spec : ConnSpec)
  /-- R231. The fabric key agreement completes and the connection becomes READY at the following boundary. -/
  | connConnected (conn : Nat)
  /-- R231. No matching CONNECT arrives within 1 s and CONN_CREATE completes with NOT_READY. -/
  | connectTimeout (conn : Nat)
  /-- R231. Moves a connection to DRAINING and flushes its incomplete messages and unsent XMIT data. -/
  | connDestroy (c : Cmd) (conn : U32)
  /-- R231. No placement is in flight, the context becomes FREE and the completion is posted. -/
  | connDestroyComplete (conn : Nat)
  /-- R257. Checks a bind or unbind request with the peer. -/
  | twinBind (c : Cmd) (b : BindSpec)
  /-- R258. At the end of BIND_BEAT the primary checkpoints and sends the log key, checkpoint and log. -/
  | twinBindBeat (p : Part)
  /-- R258. The secondary has caught up, fingerprints are compared and the pair is BOUND or UNBOUND. -/
  | bindCatchUpDone (p : Part) (c : CatchUp)
  /-- R361. Requests a checkpoint at the next pre-emption point. -/
  | checkpoint (c : Cmd) (ckptVA ckptBytes : U64)
  /-- R264. At a due pre-emption point each cluster saves its context and the dirty-page copy to a store slot starts. -/
  | checkpointTake (p : Part)
  /-- R264. A checkpoint copy completes and CKPT is sent toward agreement. -/
  | checkpointCopyComplete (p : Part)
  /-- R269. Starts field replay of a checkpoint and log with fingerprint comparison. -/
  | replayStart (c : Cmd) (r : ReplaySpec)
  /-- R267. One recorded beat is re-enacted from the log and committed, and PROGRESS is sent. -/
  | replayBeat (p : Part)
  /-- R207. Releases the agents waiting on the named fault entries. -/
  | faultResume (c : Cmd) (faultId : U32)
  /-- R206. A held fault entry is posted when fault-queue space frees or the queue is enabled. -/
  | faultEntryDeferredPost (p : Part)
  /-- R388. Checks and starts a quiescent self-test. -/
  | testRun (c : Cmd) (test die : U8) (target : U16) (arg : U64)
  /-- R389. A quiescent test ends, its verdict is reported and recorded and failures act. -/
  | testRunComplete (o : TestOutcome)
  /-- R387. A spare or released cluster's self-test ends; it becomes or stays spare, or is retired. -/
  | spareTestComplete (d : Die) (r : Region) (t : SpareResult)
  /-- R262. The partner's beat fingerprint arrives for comparison. -/
  | twinFp (h : TwinHead) (beat : U64) (fp : U128)
  /-- R259. The secondary receives the primary's stamping order for a beat. -/
  | twinOrder (h : TwinHead) (beat : U64) (entries : List OrderEntry)
  /-- R259. The primary receives a list of ORDER entries the secondary lacks. -/
  | twinNeed (h : TwinHead) (beat : U64) (entries : List OrderEntry)
  /-- R259. The secondary receives a forwarded message named in ORDER. -/
  | twinFwd (h : TwinHead) (beat : U64) (entry : OrderEntry) (tag : U64) (payload : Bytes)
  /-- R263. The partner's noise contribution arrives and the noise seed is formed. -/
  | twinNoise (h : TwinHead) (roundId : U64) (contribution : U256)
  /-- R41. The partner's release fingerprint arrives and is compared, continuing or holding the finalize. -/
  | twinRelease (h : TwinHead) (roundId : U64) (fp : U128)
  /-- R264. The partner reports its checkpoint copy complete. -/
  | twinCkpt (h : TwinHead) (beat : U64) (complete : Bool)
  /-- R267. The partner reports its last re-enacted beat, and live operation resumes once both reach one beat. -/
  | twinProgress (h : TwinHead) (beat : U64) (fp : U128)
  /-- R259. A named message still lacking at the end of b+D counts as a divergence. -/
  | orderMissing (p : Part) (beat : U64)
  /-- R259. The secondary discards messages never named in ORDER once their round's deadline plus D has passed. -/
  | unnamedMessageDiscard (p : Part)
  /-- R262. No partner FP for 64 beats: the twin enters ALONE and a secondary becomes acting primary. -/
  | twinFpTimeout (p : Part)
  /-- R263. The partner's NOISE is absent 64 beats and the round is HELD (TWIN_ABSENT). -/
  | twinNoiseTimeout (p : Part) (k : Ctx)
  /-- R237. A WRITE packet is checked and placed into its grant. -/
  | rxtWrite (f : RxtFrame)
  /-- R239. A tagged send is matched to a receive entry or pool slot, or refused, and placed. -/
  | rxtSendTagged (f : RxtFrame)
  /-- R243. An XFER packet is placed into the connection's landing range. -/
  | rxtXfer (f : RxtFrame)
  /-- R233. An ACK advances the sender's window, triggers SACK retransmission and adjusts the rate. -/
  | rxtAck (f : RxtFrame)
  /-- R224. A NAK makes the sender resend, move to ERROR or fence by status. -/
  | rxtNak (f : RxtFrame)
  /-- R243. The receiver discards an incomplete message and advances its window. -/
  | rxtCancel (f : RxtFrame)
  /-- R297. The receiver checks an OFFER and answers ACCEPT or REFUSE. -/
  | connectOffer (f : RxtFrame) (b : ConnectBody)
  /-- R297. The offerer checks an ACCEPT, unwraps the peer key and sends CONFIRM. -/
  | connectAccept (f : RxtFrame) (b : ConnectBody)
  /-- R297. The accepter checks a CONFIRM and unwraps the peer transfer key. -/
  | connectConfirm (f : RxtFrame) (b : ConnectBody)
  /-- R297. A REFUSE makes CONN_CREATE complete with REMOTE_NAK. -/
  | connectRefuse (f : RxtFrame) (b : ConnectBody)
  /-- R254. A chirp is accepted or discarded, and drives phase, delay, adoption or fencing. -/
  | chirp (f : ChirpFrame)
  /-- R219. A link handshake HELLO is checked, and the direction keys are derived. -/
  | hello (q : RPort) (s : SubPort) (h : HelloFrame)
  /-- R219. The peer's handshake CONFIRM is verified and the new association installed. -/
  | linkConfirm (q : RPort) (s : SubPort) (mac : U128)
  /-- R217. An ARP request for an own address is answered. -/
  | arpRequest (q : RPort) (s : SubPort) (a : ArpFrame)
  /-- R217. An IPv6 Neighbor Solicitation for an own address is answered. -/
  | neighborSolicitation (q : RPort) (s : SubPort) (a : NdFrame)
  /-- R217. A frame that is neither RXT, a chirp nor the handshake, or that fails MACsec, is discarded and counted. -/
  | nonRxtFrame (q : RPort) (s : SubPort) (sec : SecTag)
  /-- R234. A message on a connection completes in message order and its completion is posted. -/
  | messageComplete (conn : Nat)
  /-- R230. A user context arrives and its waiting packets resume the checks in arrival order. -/
  | contextFetchComplete (q : RPort) (conn : Nat)
  /-- R230. A context fetch fails or times out after 100 µs and its waiting packets are dropped. -/
  | contextFetchTimeout (q : RPort) (conn : Nat)
  /-- R240. When an entry is posted or a pool slot frees, the oldest matching unexpected message is copied to it. -/
  | unexpectedMatchCopy (p : Part)
  /-- R240. Unexpected messages older than RXT_UNEXP_AGE beats are discarded. -/
  | unexpectedAgeExpiry (p : Part)
  /-- R233. An unacknowledged packet's RTO expires and it is retransmitted on the next path. -/
  | retransmitTimeout (conn : Nat) (psn : U64)
  /-- R233. RETRIES reaches RETRY_LIMIT and the connection fails over or enters ERROR. -/
  | retryLimitReached (conn : Nat)
  /-- R233. A path reaches PATH_FAIL_LIMIT timeouts and is marked failed. -/
  | pathFail (conn : Nat) (path : Fin 16)
  /-- R233. A failed path is probed once a second and returns on an ACK. -/
  | pathProbe (conn : Nat) (path : Fin 16)
  /-- R224. ACK_DELAY passes since the oldest unacknowledged packet and an ACK is sent. -/
  | ackDelayExpiry (conn : Nat)
  /-- R224. After RNR_WAIT the packet refused with NOT_READY is resent. -/
  | rnrWaitExpiry (conn : Nat) (psn : U64)
  /-- R245. One SRTT passes with no echo and the connection's rate rises by AI. -/
  | rateIncrease (conn : Nat)
  /-- R243. After an aborted beat's XMIT has sent all its packets, CANCEL is sent for it. -/
  | xmitCancelSend (conn : Nat) (msgId : U32)
  /-- R220. RXT_PORT_REKEY seconds pass and the link handshake is repeated. -/
  | rekeyTimer (q : RPort) (s : SubPort)
  /-- R219. A failed or pending handshake, or rekey, is retried once a second. -/
  | handshakeRetry (q : RPort) (s : SubPort)
  /-- R217. A sub-port's link goes up or down and a port event is posted. -/
  | linkStateChange (q : RPort) (s : SubPort) (up : Bool)
  /-- R161. 64 beats without an accepted chirp set DRIFT and post an event. -/
  | chirpMissedLimit
  /-- R14. A flit fails its CRC and is replayed from the replay buffer. -/
  | ucieFlitCrcFail (m : UcieModule) (f : FlitFailure)
  /-- R14. A repeatedly failing lane is repaired, or its module retired and reservations re-checked. -/
  | ucieLaneFail (m : UcieModule)
  /-- R210. The weevil reads lines, rewrites corrected ones and queues repairs and retirements. -/
  | weevilPatrol (t : PatrolTarget) (o : EccOutcome)
  /-- R211. A failing cluster is replaced by the spare, or its partition enters DEGRADED. -/
  | clusterRetire (d : Die) (c : Cluster) (cause : RetireCause)
  /-- R212. A RETIRING page is copied to a free page, re-encrypted and its leaf rewritten. -/
  | pageMigration (s : Site) (page : Nat)
  /-- R212. A queued row repair runs while its site is idle or during training. -/
  | postPackageRepair (s : Site) (row : Nat)
  /-- R204. A table with a bad entry is rebuilt from MEMORY_MAP at the next boundary. -/
  | pageTableRebuild (p : Part)
  /-- R125. A region's molt table store is rebuilt after an uncorrectable error. -/
  | tableStoreRebuild (d : Die) (r : Region)
  /-- R192. Programs are recopied into the reserved area after an uncorrectable fetch. -/
  | programRecopy (p : Part) (d : Die) (c : Cluster)
  /-- R386. A background ZQ calibration runs, and three failures mark the site FAILED. -/
  | zqCalibration (s : Site) (ok : Bool)
  /-- R313. A firefly window ends, its health tests run, and it is conditioned into the pool or discarded. -/
  | entropyWindowEnd (w : WindowSample)
  /-- R315. 1,024 consecutive passing windows return the source to HEALTHY. -/
  | entropyRecovered
  /-- R316. After cell settling, the start-up window is tested and the hub instance instantiated, setting READY. -/
  | rngStartup
  /-- R316. READY is still clear 40 ms after hub reset and an ENTROPY_NOT_READY event is posted. -/
  | rngReadyTimeout
  /-- R319. A waiting consumer's Generate reseeds from pool outputs in priority order and completes. -/
  | drbgGenerate
  /-- R324. A write of test modes is applied in BLANK or FACTORY, or discarded with LIFECYCLE_DENIED. -/
  | rngTestWrite (q : PciePort) (value : U32)
  /-- R324. Pattern samples replace the array samples at the tests' input. -/
  | rngInjectWrite (q : PciePort) (value : U64)
  /-- R324. A read returns the next 64 raw samples and advances. -/
  | rngRawRead (r : RawRead)
  /-- R328. The recovered clock input becomes invalid, and the loop enters HOLDOVER or FREE_RUN. -/
  | refInputInvalid (meanOffset : U32)
  /-- R327. The loop stays within 0.05 ppm of the input for 2 s and enters LOCKED. -/
  | refLockAchieved
  /-- R328. The input is valid for 10 s and the loop leaves HOLDOVER for ACQUIRING. -/
  | holdoverExit
  /-- R330. Each 1 ms the monitor compares the clock inputs and flags oscillator or PCIe reference faults. -/
  | clockMonitorWindow (c : ClockSample)
  /-- R332. Every 10 µs a running PLL is compared, and a lost lock stops the die's clock. -/
  | pllCheck (t : PllTarget) (ok : Bool)
  /-- R332. At the next boundary the die runs from its other PLL, or is marked DIE_FAILED. -/
  | pllFailover (d : Die) (otherLocks : Bool)
  /-- R334. A voltage read-back at t_V confirms a raise, or counts a failure toward capping. -/
  | avsReadback (d : Die) (ack : Bool) (millivolt : Nat)
  /-- R340. Every 100 µs the die temperature sensors are read and validated. -/
  | tempSensorRead (d : AnyDie) (readings : List Int)
  /-- R341. Every 100 ms the coolant inlet temperature is read over I3C, going stale after three failures. -/
  | coolantRead (reading : Option Int)
  /-- R342. Every 100 ms the two-pole model predicts junction temperature and sets the FLOW_REQ duty. -/
  | thermalModelUpdate
  /-- R335. Every 1,024 beats the energy meters are calibrated against AVSBus current read-back. -/
  | energyCalibration (c : CalibrationSample)
  /-- R343. VR_ALERT_N or a rail read-back outside its window starts a SUPPLY emergency. -/
  | vrAlert (a : RailAlert)
  /-- R343. A die's rail droops 50 mV below its operating point for over 1 µs, and its clock stops. -/
  | droopDetect (d : Die)
  /-- R343. An emergency's clear condition holds for its time and the partitions resume. -/
  | emergencyClear (e : Emergency)
  /-- R414. A die reaches 120 °C and THERMTRIP_N asserts until hub reset. -/
  | thermtrip (d : AnyDie)
  /-- R339. A wake event starts exit from a power state to P0. -/
  | powerWake (w : WakeCause)
  /-- R339. Exit to P0 completes and commands are fetched from the next boundary. -/
  | powerExitComplete
  /-- R289. A tamper monitor fires, zeroing the root record, slots and engine keys and fencing partitions. -/
  | tamperDetect (cause : TamperCause) (mainPower : Bool)
  /-- R289. The VBAT hold-up capacitor falls below retention after VBAT loss and the root record is lost. -/
  | holdupExpiry
  /-- R308. The calendar crystal stops for 2 s and OSC_FAIL is set. -/
  | calOscFail
  /-- R392. RESET_N deasserts and the device starts up by itself. -/
  | hubReset (h : ResetInputs)
  /-- R393. Toxel starts on the management core and pending ring enables are acted on. -/
  | toxelStart
  /-- R394. A site's training and repairs end, and its start-up zeroing starts or the site is FAILED. -/
  | dramTrainingComplete (s : Site) (ok : Bool)
  /-- R393. A site's start-up zeroing ends and TRAINED is set. -/
  | siteZeroingComplete (s : Site)
  /-- R392. RESET_N asserts during operation and every partition ends at once. -/
  | resetAssert
  /-- R392. A port's PERST_N resets only its link and configuration space. -/
  | perstAssert (q : PciePort)
  /-- R348. A port's link leaves L0 and its configuration space resets. -/
  | pcieLinkDown (q : PciePort)
  /-- R348. A link out of L0 for over 1 ms holds the port's partitions with cause LINK. -/
  | linkHoldTimeout (q : PciePort)
  /-- R347. A link retrains to a lower capacity and PCIe reservations are re-checked. -/
  | pcieLinkRetrain (q : PciePort) (width rate : Nat)
  /-- R348. A configuration write changing Bus Master Enable or D3hot starts or ends a BUS_MASTER hold. -/
  | configWrite (q : PciePort) (f : Fin 9) (w : ConfigBits)
  /-- R282. A port's IDE stream leaves or returns to Secure, holding or resuming REQUIRE_IDE partitions. -/
  | ideStreamChange (q : PciePort) (secure : Bool)
  /-- R355. A command doorbell write publishes commands or is discarded. -/
  | hifCmdqDb (fn : Fn) (value : U32) (writes : List HostWrite)
  /-- R355. A completion HEAD write consumes completion entries or is discarded. -/
  | hifCplqHead (fn : Fn) (value : U32)
  /-- R357. An event HEAD write consumes events, after which an OVERFLOW entry and waiting events are written. -/
  | hifEvqHead (fn : Fn) (value : U32)
  /-- R355. A fault HEAD write consumes fault entries and frees room for held ones. -/
  | hifFltqHead (fn : Fn) (value : U32)
  /-- R354. Setting HIF_CTRL.ENABLE requests ring enable at the next boundary. -/
  | hifEnable (fn : Fn)
  /-- R354. Clearing HIF_CTRL.ENABLE stops fetching, and ENABLED clears when fetched commands have completed. -/
  | hifDisable (fn : Fn)
  /-- R365. An ingest doorbell completes the covered ring entries for stamping. -/
  | ingDb (p : Part) (r : Fin 4) (value : U32)
  /-- R364. Setting ING_CFG.ENABLE requests an ingest ring enable at the next boundary. -/
  | ingEnable (p : Part) (r : Fin 4) (cfg : U32)
  /-- R363. A BAR2 read is translated and returns committed contents or zero on a fault. -/
  | bar2Read (p : Part) (offset : U64) (len : Nat)
  /-- R363. A BAR2 write is translated and applied on arrival or discarded. -/
  | bar2Write (p : Part) (offset : U64) (data : Bytes) (ep : Bool)
  /-- R9. A narrow or misaligned register access reads zero or is discarded and counted. -/
  | badRegisterAccess (fn : Fn) (write : Bool)
  /-- R202. A PRT_MAP_CTRL SET latches an install edit for the next boundary. -/
  | mapSet (p : Part) (ctrl : U32)
  /-- R202. A PRT_MAP_CTRL CLEAR latches a clear edit for the next boundary. -/
  | mapClear (p : Part) (ctrl : U32)
  /-- R241. A receive-window POST latches a tag entry to be posted. -/
  | recvPost (p : Part) (ctrl : U32)
  /-- R241. A receive-window REMOVE latches removal of an entry. -/
  | recvRemove (p : Part) (ctrl : U32)
  /-- R240. A write requests discard of every unexpected message at the next boundary. -/
  | unexpFlush (p : Part) (value : U32)
  /-- R235. The partition access key is set, effective at the next boundary. -/
  | accessKeyWrite (p : Part) (key : U64)
  /-- R352. A claim moves management to the other port when the managing link has been down 100 ms. -/
  | hubMgrClaim (q : PciePort) (value : U32)
  /-- R154. A beat-period write takes effect at the next boundary or is discarded with PERIOD_REFUSED. -/
  | sysBeatPeriodWrite (q : PciePort) (value : U32)
  /-- R250. A member-number write is applied, or discarded while a partition exists. -/
  | sysMemberWrite (q : PciePort) (value : U32)
  /-- R270. A role write is applied, or discarded while a partition exists. -/
  | sysRoleWrite (q : PciePort) (value : U32)
  /-- R216. A MODE write takes the port's links down and up in the new mode. -/
  | portModeWrite (q : PciePort) (r : RPort) (value : U32)
  /-- R337. A soft-start write sets T_SOFT and BALLAST, or is refused with SOFT_REFUSED. -/
  | softStartWrite (q : PciePort) (value : U32)
  /-- R334. Writing 1 to PWR_OP.CAPPED removes a die's voltage cap. -/
  | cappedClear (q : PciePort) (d : Die) (value : U32)
  /-- R339. Sets the deepest power state allowed, and is a wake event. -/
  | pwrStateReqWrite (q : PciePort) (value : U32)
  /-- R266. Sets an unbound partition's input log and resumes stopped logging. -/
  | logVaWrite (p : Part) (value : U64)
  /-- R308. Sets the calendar count, clears the phase and sets SET. -/
  | calTimeWrite (q : PciePort) (value : U64)
  /-- R383. A read of EVR_WINDOW0 latches the record at the cursor and advances it. -/
  | evrWindowRead (q : PciePort)
  /-- R383. Moves the port's recorder cursor at once. -/
  | evrCursorWrite (q : PciePort) (value : U64)
  /-- R7. A write to any other register applies its fields by access type. -/
  | registerWrite (fn : Fn) (offset : Nat) (wide : Bool) (value : U64)
  /-- R381. When the flash is free, the next buffered record is programmed, erasing a sector first if needed. -/
  | recorderFlashProgram (ok : Bool)
  /-- R384. Every 1/16 h of operating time an HOURS record is written. -/
  | hoursRecord
  /-- R302. Advances the life cycle from BLANK to FACTORY. -/
  | lcFactory (q : PciePort) (c : BurnCmd)
  /-- R303. Burns an identity generation, draws a new root secret and derives DEVICE_ID. -/
  | enroll (q : PciePort) (c : BurnCmd)
  /-- R302. A signed request advances the life cycle to DEPLOYED or RETURNED. -/
  | lcAdvance (q : PciePort) (c : BurnCmd)
  /-- R304. Unlocks boundary scan at once, or records a one-boot full debug unlock. -/
  | debugUnlock (q : PciePort) (len : Nat)
  /-- R302. Writes the certificate chain ending with DEVICE_ID. -/
  | certWrite (q : PciePort) (len : Nat)
  /-- R302. Returns a key slot's attribute bits. -/
  | slotInfo (q : PciePort) (len : Nat)
  /-- R302. Stages a chunk of a firmware image in enclave memory. -/
  | imageChunk (q : PciePort) (len : Nat)
  /-- R300. Checks the staged image and continues boot from it. -/
  | imageRun (q : PciePort) (len : Nat)
  /-- R302. Writes the checked staged image to the SPI NOR for the next reset. -/
  | fwWrite (q : PciePort) (c : BurnCmd)
  /-- R302. Burns the fuse SVN up to the running image's SVN. -/
  | svnCommit (q : PciePort) (len : Nat)
  /-- R305. SPDM request answered with the supported version. -/
  | getVersion (q : PciePort)
  /-- R305. SPDM request answered with the supported capabilities. -/
  | getCapabilities (q : PciePort)
  /-- R305. SPDM algorithm negotiation. -/
  | negotiateAlgorithms (q : PciePort) (a : SpdmAlgorithms)
  /-- R305. Returns the digest of the slot 0 certificate chain. -/
  | getDigests (q : PciePort)
  /-- R306. Returns the slot 0 chain with the alias certificate. -/
  | getCertificate (q : PciePort) (slot : U8) (offset length : U16)
  /-- R305. Signs a challenge response with the alias key, or errors without ALIAS. -/
  | challenge (q : PciePort) (slot : U8) (nonce : U256)
  /-- R307. Returns the measurement blocks, signed when requested. -/
  | getMeasurements (q : PciePort) (index : U8) (signed : Bool) (nonce : U256)
  /-- R305. Starts an SPDM session with an ephemeral key, or answers Busy without entropy. -/
  | keyExchange (q : PciePort) (slot : U8) (reqSession : U16) (exchange : U512)
  /-- R305. Completes the SPDM session handshake. -/
  | finish (q : PciePort) (verify : U256)
  /-- R305. Updates the SPDM session keys. -/
  | keyUpdate (q : PciePort) (op : U8)
  /-- R305. Ends an SPDM session. -/
  | endSession (q : PciePort)
  /-- R305. Vendor-defined IDE key management messages program the port's IDE engine. -/
  | ideKeyProgramming (q : PciePort) (m : IdeKeyMessage)
  /-- R367. DOE Abort discards the object and response within 1 ms. -/
  | doeAbort (q : PciePort)
  /-- R367. An over-long or unsupported DOE object sets DOE Error and is discarded. -/
  | doeObjectReject (q : PciePort) (bytes : Nat) (protocolKnown : Bool)
  /-- R407. All main rails are lost at once and the device is handled as a power loss, ending every partition with only the VBAT domain kept. -/
  | mainPowerLoss
  /-- R395. A port's PCIe link reaches L0, ending a LINK hold and restoring the port's capacity for admission. -/
  | pcieLinkUp (q : PciePort) (width rate : Nat) (sris : Bool)
  /-- R396. Training of the UCIe modules ends after hub reset, posting PORT events for joins that train no module or too few, and marking dies, ports or sites unusable. -/
  | ucieTrainingComplete (untrained : List UcieModule)
  /-- R257. The peer's answer to TWIN_BIND arrives and is checked for opposite role, chitin measurement, die count, D and interval. -/
  | twinBindAnswer (p : Part) (a : BindAnswer)
  /-- R257. No answer from the peer arrives within 1 s and TWIN_BIND completes with NOT_READY. -/
  | twinBindAnswerTimeout (p : Part)
  /-- R413. An IEEE 1149.1 instruction is shifted in on the TAP, and BYPASS, IDCODE, SAMPLE/PRELOAD or EXTEST acts subject to the debug byte. -/
  | tapInstruction (i : TapInstr)
  /-- R411. Another device on the I3C bus requests the controller role, and the device refuses it. -/
  | controllerRoleRequest
  deriving DecidableEq, Repr

end Sys2Proof
end

