-- ==== Sys2Proof/Decode.lean ====
section
/-! DEFINITION. The rows of spec/opcode_table.json give no bits, so `decodeTableWord` answers none for every word. The manual
does encode two kinds of command, and both decoders are here: the 128-bit beat instruction words (R183, R184), with their
encoder, and the 64-byte command entries (R356, R360). -/

namespace Sys2Proof

/-- The command a word spells by the table's bits: no row gives bits. (DESIGN CHOICE, log entry 1) -/
def decodeTableWord (_nbits _w : Nat) : Option Instr := none

/-! ### Beat instruction words: encoders, highest bits first (R183) -/

def bit1 (b : Bool) : BitVec 1 := if b then 1 else 0

def XFmt.word (f : XFmt) (op : BitVec 8) : U128 :=
  f.imm ++ (0 : BitVec 16) ++ f.body ++ (0 : BitVec 5) ++ f.xb ++ (0 : BitVec 1) ++ bit1 f.sync ++ f.xa ++ f.xd ++ op
def VFmt.word (f : VFmt) (op : BitVec 8) : U128 :=
  f.imm ++ f.step ++ f.rep ++ f.vb ++ f.va ++ f.vd ++ (0 : BitVec 2) ++ f.tile ++ (0 : BitVec 1) ++ bit1 f.sync
    ++ bit1 f.acc ++ f.mod ++ op
def MFmt.word (f : MFmt) (op : BitVec 8) : U128 :=
  f.off ++ f.step ++ f.rep ++ (0 : BitVec 13) ++ f.xa ++ f.vd ++ (0 : BitVec 2) ++ f.tile ++ (0 : BitVec 1) ++ bit1 f.sync
    ++ bit1 f.acc ++ f.mod ++ op
def OFmt.word (f : OFmt) (op : BitVec 8) : U128 :=
  f.imm ++ (0 : BitVec 8) ++ f.p8 ++ f.p24 ++ f.mod ++ f.xb ++ (0 : BitVec 1) ++ bit1 f.sync ++ f.xa ++ f.xd ++ op
def SFmt.word (f : SFmt) (op : BitVec 8) : U128 :=
  f.doff ++ f.soff ++ f.len ++ (0 : BitVec 1) ++ f.ctx ++ f.sub ++ f.xc ++ (0 : BitVec 1) ++ bit1 f.sync ++ f.xs ++ f.xd ++ op
def TFmt.word (f : TFmt) (op : BitVec 8) : U128 :=
  f.first ++ f.elems ++ (0 : BitVec 2) ++ f.ctx ++ bit1 f.sq ++ f.xc ++ (0 : BitVec 1) ++ bit1 f.sync ++ f.xs ++ f.xd ++ op

/-! ### Decoders of the six formats; none where a reserved field is set (R182, R183) -/

def fmtX (w : U128) : Option XFmt :=
  if w.getLsbD 15 ∨ w.extractLsb' 19 5 ≠ 0 ∨ w.extractLsb' 48 16 ≠ 0 then none
  else some ⟨w.getLsbD 14, w.extractLsb' 8 3, w.extractLsb' 11 3, w.extractLsb' 16 3, w.extractLsb' 24 24, w.extractLsb' 64 64⟩

def fmtV (w : U128) : Option VFmt :=
  if w.getLsbD 15 ∨ w.extractLsb' 22 2 ≠ 0 then none
  else some ⟨w.getLsbD 14, w.extractLsb' 8 5, w.getLsbD 13, w.extractLsb' 16 6, w.extractLsb' 24 8, w.extractLsb' 32 8,
    w.extractLsb' 40 8, w.extractLsb' 48 12, w.extractLsb' 60 4, w.extractLsb' 64 64⟩

def fmtM (w : U128) : Option MFmt :=
  if w.getLsbD 15 ∨ w.extractLsb' 22 2 ≠ 0 ∨ w.extractLsb' 35 13 ≠ 0 then none
  else some ⟨w.getLsbD 14, w.extractLsb' 8 5, w.getLsbD 13, w.extractLsb' 16 6, w.extractLsb' 24 8, w.extractLsb' 32 3,
    w.extractLsb' 48 12, w.extractLsb' 60 4, w.extractLsb' 64 64⟩

def fmtO (w : U128) : Option OFmt :=
  if w.getLsbD 15 ∨ w.extractLsb' 56 8 ≠ 0 then none
  else some ⟨w.getLsbD 14, w.extractLsb' 8 3, w.extractLsb' 11 3, w.extractLsb' 16 3, w.extractLsb' 19 5, w.extractLsb' 24 24,
    w.extractLsb' 48 8, w.extractLsb' 64 64⟩

def fmtS (w : U128) : Option SFmt :=
  if w.getLsbD 15 ∨ w.getLsbD 23 then none
  else some ⟨w.getLsbD 14, w.extractLsb' 8 3, w.extractLsb' 11 3, w.extractLsb' 16 3, w.extractLsb' 19 2, w.extractLsb' 21 2,
    w.extractLsb' 24 40, w.extractLsb' 64 32, w.extractLsb' 96 32⟩

def fmtT (w : U128) : Option TFmt :=
  if w.getLsbD 15 ∨ w.extractLsb' 22 2 ≠ 0 then none
  else some ⟨w.getLsbD 14, w.extractLsb' 8 3, w.extractLsb' 11 3, w.extractLsb' 16 3, w.getLsbD 19, w.extractLsb' 20 2,
    w.extractLsb' 24 40, w.extractLsb' 64 64⟩

/-- The beat instruction a word spells for a unit; none for a reserved opcode or a set reserved field. Field values that the
chapter calls invalid are judged by `Instr.wf`. -/
def decodeBeat (u : UnitId) (w : U128) : Option Instr :=
  match (w.extractLsb' 0 8).toNat with
  | 0x00 => .nop u <$> fmtX w
  | 0x01 => .xadd u <$> fmtX w
  | 0x02 => .xld u <$> fmtX w
  | 0x03 => .loop u <$> fmtX w
  | 0x04 => .loopx u <$> fmtX w
  | 0x05 => .msel u <$> fmtX w
  | 0x06 => .waits u <$> fmtX w
  | 0x07 => .barrier u <$> fmtX w
  | 0x08 => .rbarrier u <$> fmtX w
  | 0x09 => .fpadd u <$> fmtX w
  | 0x10 => .vadd u <$> fmtV w
  | 0x11 => .vsub u <$> fmtV w
  | 0x12 => .vneg u <$> fmtV w
  | 0x13 => .vmov u <$> fmtV w
  | 0x14 => .vsplat u <$> fmtV w
  | 0x15 => .vmul u <$> fmtV w
  | 0x16 => .vmuls u <$> fmtV w
  | 0x17 => .vred u <$> fmtV w
  | 0x18 => .tacc u <$> fmtV w
  | 0x19 => .tmac u <$> fmtV w
  | 0x1A => .tmacs u <$> fmtV w
  | 0x1B => .tread u <$> fmtV w
  | 0x1C => .tpois u <$> fmtV w
  | 0x30 => .nstage u <$> fmtO w
  | 0x31 => .istage u <$> fmtO w
  | 0x32 => .nttl u <$> fmtO w
  | 0x33 => .inttl u <$> fmtO w
  | 0x34 => .autol u <$> fmtO w
  | 0x38 => .ctAdd u <$> fmtO w
  | 0x39 => .ctSub u <$> fmtO w
  | 0x3A => .ctAddp u <$> fmtO w
  | 0x3B => .ctMulp u <$> fmtO w
  | 0x3C => .ctMul u <$> fmtO w
  | 0x3D => .ctRot u <$> fmtO w
  | 0x3E => .ctConj u <$> fmtO w
  | 0x3F => .ctRescale u <$> fmtO w
  | 0x40 => .ctDrop u <$> fmtO w
  | 0x41 => .ctNtt u <$> fmtO w
  | 0x42 => .ctIntt u <$> fmtO w
  | 0x43 => .ctSlotsum u <$> fmtO w
  | 0x44 => .molt u <$> fmtO w
  | 0x45 => .moltEx u <$> fmtO w
  | 0x46 => .ctFlood u <$> fmtO w
  | 0x47 => .ctCombine u <$> fmtO w
  | 0x48 => .vshare u <$> fmtO w
  | 0x49 => .vcheck u <$> fmtO w
  | 0x50 => .ld u <$> fmtM w
  | 0x51 => .st u <$> fmtM w
  | 0x52 => .tld u <$> fmtM w
  | 0x53 => .tst u <$> fmtM w
  | 0x60 => .scopy u <$> fmtS w
  | 0x61 => .szero u <$> fmtS w
  | 0x62 => .prg u <$> fmtS w
  | 0x63 => .hash u <$> fmtS w
  | 0x64 => .sample u <$> fmtS w
  | 0x65 => .vjoint u <$> fmtS w
  | 0x66 => .xmit u <$> fmtS w
  | 0x70 => .tdec u <$> fmtT w
  | 0x71 => .tred u <$> fmtT w
  | 0x72 => .tmerge u <$> fmtT w
  | 0x73 => .tclip u <$> fmtT w
  | 0x74 => .tnoise u <$> fmtT w
  | 0x75 => .tstat u <$> fmtT w
  | 0x76 => .topt u <$> fmtT w
  | 0x77 => .tenc u <$> fmtT w
  | _ => none

/-- The word of a beat instruction; none for every other command. -/
def encodeBeat (i : Instr) : Option U128 :=
  match i with
  | .nop _ f => some (f.word 0x00)
  | .xadd _ f => some (f.word 0x01)
  | .xld _ f => some (f.word 0x02)
  | .loop _ f => some (f.word 0x03)
  | .loopx _ f => some (f.word 0x04)
  | .msel _ f => some (f.word 0x05)
  | .waits _ f => some (f.word 0x06)
  | .barrier _ f => some (f.word 0x07)
  | .rbarrier _ f => some (f.word 0x08)
  | .fpadd _ f => some (f.word 0x09)
  | .vadd _ f => some (f.word 0x10)
  | .vsub _ f => some (f.word 0x11)
  | .vneg _ f => some (f.word 0x12)
  | .vmov _ f => some (f.word 0x13)
  | .vsplat _ f => some (f.word 0x14)
  | .vmul _ f => some (f.word 0x15)
  | .vmuls _ f => some (f.word 0x16)
  | .vred _ f => some (f.word 0x17)
  | .tacc _ f => some (f.word 0x18)
  | .tmac _ f => some (f.word 0x19)
  | .tmacs _ f => some (f.word 0x1A)
  | .tread _ f => some (f.word 0x1B)
  | .tpois _ f => some (f.word 0x1C)
  | .nstage _ f => some (f.word 0x30)
  | .istage _ f => some (f.word 0x31)
  | .nttl _ f => some (f.word 0x32)
  | .inttl _ f => some (f.word 0x33)
  | .autol _ f => some (f.word 0x34)
  | .ctAdd _ f => some (f.word 0x38)
  | .ctSub _ f => some (f.word 0x39)
  | .ctAddp _ f => some (f.word 0x3A)
  | .ctMulp _ f => some (f.word 0x3B)
  | .ctMul _ f => some (f.word 0x3C)
  | .ctRot _ f => some (f.word 0x3D)
  | .ctConj _ f => some (f.word 0x3E)
  | .ctRescale _ f => some (f.word 0x3F)
  | .ctDrop _ f => some (f.word 0x40)
  | .ctNtt _ f => some (f.word 0x41)
  | .ctIntt _ f => some (f.word 0x42)
  | .ctSlotsum _ f => some (f.word 0x43)
  | .molt _ f => some (f.word 0x44)
  | .moltEx _ f => some (f.word 0x45)
  | .ctFlood _ f => some (f.word 0x46)
  | .ctCombine _ f => some (f.word 0x47)
  | .vshare _ f => some (f.word 0x48)
  | .vcheck _ f => some (f.word 0x49)
  | .ld _ f => some (f.word 0x50)
  | .st _ f => some (f.word 0x51)
  | .tld _ f => some (f.word 0x52)
  | .tst _ f => some (f.word 0x53)
  | .scopy _ f => some (f.word 0x60)
  | .szero _ f => some (f.word 0x61)
  | .prg _ f => some (f.word 0x62)
  | .hash _ f => some (f.word 0x63)
  | .sample _ f => some (f.word 0x64)
  | .vjoint _ f => some (f.word 0x65)
  | .xmit _ f => some (f.word 0x66)
  | .tdec _ f => some (f.word 0x70)
  | .tred _ f => some (f.word 0x71)
  | .tmerge _ f => some (f.word 0x72)
  | .tclip _ f => some (f.word 0x73)
  | .tnoise _ f => some (f.word 0x74)
  | .tstat _ f => some (f.word 0x75)
  | .topt _ f => some (f.word 0x76)
  | .tenc _ f => some (f.word 0x77)
  | .beatBoundary _ => none
  | .commitWindowOpen _ => none
  | .testSwapStart _ => none
  | .swapMapUpdate _ => none
  | .quantumExpiry _ => none
  | .jobSwitch _ => none
  | .asyncOpComplete _ _ => none
  | .barrierRelease _ _ _ _ => none
  | .partCreate _ _ => none
  | .partRemove _ _ => none
  | .removeDrained _ => none
  | .removeComplete _ => none
  | .partLoad _ _ _ => none
  | .partLoadChecksEnd _ => none
  | .partLoadComplete _ => none
  | .opSet _ _ => none
  | .instarSet _ _ _ => none
  | .instarEffective => none
  | .roundOpen _ _ _ _ _ => none
  | .roundOpenEffect _ _ => none
  | .roundClose _ _ => none
  | .admissionDeadline _ _ => none
  | .cohortLimitReached _ _ => none
  | .roundUnmask _ _ _ _ => none
  | .unmaskExpansionComplete _ _ => none
  | .closeWorkComplete _ _ => none
  | .recoveryTimeout _ _ => none
  | .memberHandoffSend _ _ => none
  | .memberTransferArrive _ _ _ => none
  | .memberTransferAck _ _ => none
  | .roundFinalize _ _ => none
  | .releasePipelineDone _ _ => none
  | .slotWriteComplete _ _ => none
  | .finalizeDeadline _ _ => none
  | .twinReleaseTimeout _ _ => none
  | .stagingError _ _ => none
  | .roundAbort _ _ => none
  | .abortZeroingComplete _ _ => none
  | .resultAck _ _ => none
  | .resultAckComplete _ _ => none
  | .combineSourceRead _ _ => none
  | .helperCloseSend _ _ => none
  | .helperTransferAck _ _ => none
  | .xchgAggregateShare _ _ _ _ => none
  | .xchgPart _ _ _ _ => none
  | .xchgSeed _ _ _ => none
  | .xchgShare _ _ _ => none
  | .xchgDecide _ _ _ => none
  | .xchgDone _ _ _ _ => none
  | .verifyTimeout _ _ _ => none
  | .partHoldExpiry _ _ _ => none
  | .keysetLoad _ _ _ _ => none
  | .grantCreate _ _ _ _ _ => none
  | .grantRevoke _ _ => none
  | .grantRevokeComplete _ _ => none
  | .placementComplete _ _ => none
  | .connCreate _ _ => none
  | .connConnected _ => none
  | .connectTimeout _ => none
  | .connDestroy _ _ => none
  | .connDestroyComplete _ => none
  | .twinBind _ _ => none
  | .twinBindBeat _ => none
  | .bindCatchUpDone _ _ => none
  | .checkpoint _ _ _ => none
  | .checkpointTake _ => none
  | .checkpointCopyComplete _ => none
  | .replayStart _ _ => none
  | .replayBeat _ => none
  | .faultResume _ _ => none
  | .faultEntryDeferredPost _ => none
  | .testRun _ _ _ _ _ => none
  | .testRunComplete _ => none
  | .spareTestComplete _ _ _ => none
  | .twinFp _ _ _ => none
  | .twinOrder _ _ _ => none
  | .twinNeed _ _ _ => none
  | .twinFwd _ _ _ _ _ => none
  | .twinNoise _ _ _ => none
  | .twinRelease _ _ _ => none
  | .twinCkpt _ _ _ => none
  | .twinProgress _ _ _ => none
  | .orderMissing _ _ => none
  | .unnamedMessageDiscard _ => none
  | .twinFpTimeout _ => none
  | .twinNoiseTimeout _ _ => none
  | .rxtWrite _ => none
  | .rxtSendTagged _ => none
  | .rxtXfer _ => none
  | .rxtAck _ => none
  | .rxtNak _ => none
  | .rxtCancel _ => none
  | .connectOffer _ _ => none
  | .connectAccept _ _ => none
  | .connectConfirm _ _ => none
  | .connectRefuse _ _ => none
  | .chirp _ => none
  | .hello _ _ _ => none
  | .linkConfirm _ _ _ => none
  | .arpRequest _ _ _ => none
  | .neighborSolicitation _ _ _ => none
  | .nonRxtFrame _ _ _ => none
  | .messageComplete _ => none
  | .contextFetchComplete _ _ => none
  | .contextFetchTimeout _ _ => none
  | .unexpectedMatchCopy _ => none
  | .unexpectedAgeExpiry _ => none
  | .retransmitTimeout _ _ => none
  | .retryLimitReached _ => none
  | .pathFail _ _ => none
  | .pathProbe _ _ => none
  | .ackDelayExpiry _ => none
  | .rnrWaitExpiry _ _ => none
  | .rateIncrease _ => none
  | .xmitCancelSend _ _ => none
  | .rekeyTimer _ _ => none
  | .handshakeRetry _ _ => none
  | .linkStateChange _ _ _ => none
  | .chirpMissedLimit => none
  | .ucieFlitCrcFail _ _ => none
  | .ucieLaneFail _ => none
  | .weevilPatrol _ _ => none
  | .clusterRetire _ _ _ => none
  | .pageMigration _ _ => none
  | .postPackageRepair _ _ => none
  | .pageTableRebuild _ => none
  | .tableStoreRebuild _ _ => none
  | .programRecopy _ _ _ => none
  | .zqCalibration _ _ => none
  | .entropyWindowEnd _ => none
  | .entropyRecovered => none
  | .rngStartup => none
  | .rngReadyTimeout => none
  | .drbgGenerate => none
  | .rngTestWrite _ _ => none
  | .rngInjectWrite _ _ => none
  | .rngRawRead _ => none
  | .refInputInvalid _ => none
  | .refLockAchieved => none
  | .holdoverExit => none
  | .clockMonitorWindow _ => none
  | .pllCheck _ _ => none
  | .pllFailover _ _ => none
  | .avsReadback _ _ _ => none
  | .tempSensorRead _ _ => none
  | .coolantRead _ => none
  | .thermalModelUpdate => none
  | .energyCalibration _ => none
  | .vrAlert _ => none
  | .droopDetect _ => none
  | .emergencyClear _ => none
  | .thermtrip _ => none
  | .powerWake _ => none
  | .powerExitComplete => none
  | .tamperDetect _ _ => none
  | .holdupExpiry => none
  | .calOscFail => none
  | .hubReset _ => none
  | .toxelStart => none
  | .dramTrainingComplete _ _ => none
  | .siteZeroingComplete _ => none
  | .resetAssert => none
  | .perstAssert _ => none
  | .pcieLinkDown _ => none
  | .linkHoldTimeout _ => none
  | .pcieLinkRetrain _ _ _ => none
  | .configWrite _ _ _ => none
  | .ideStreamChange _ _ => none
  | .hifCmdqDb _ _ _ => none
  | .hifCplqHead _ _ => none
  | .hifEvqHead _ _ => none
  | .hifFltqHead _ _ => none
  | .hifEnable _ => none
  | .hifDisable _ => none
  | .ingDb _ _ _ => none
  | .ingEnable _ _ _ => none
  | .bar2Read _ _ _ => none
  | .bar2Write _ _ _ _ => none
  | .badRegisterAccess _ _ => none
  | .mapSet _ _ => none
  | .mapClear _ _ => none
  | .recvPost _ _ => none
  | .recvRemove _ _ => none
  | .unexpFlush _ _ => none
  | .accessKeyWrite _ _ => none
  | .hubMgrClaim _ _ => none
  | .sysBeatPeriodWrite _ _ => none
  | .sysMemberWrite _ _ => none
  | .sysRoleWrite _ _ => none
  | .portModeWrite _ _ _ => none
  | .softStartWrite _ _ => none
  | .cappedClear _ _ _ => none
  | .pwrStateReqWrite _ _ => none
  | .logVaWrite _ _ => none
  | .calTimeWrite _ _ => none
  | .evrWindowRead _ => none
  | .evrCursorWrite _ _ => none
  | .registerWrite _ _ _ _ => none
  | .recorderFlashProgram _ => none
  | .hoursRecord => none
  | .lcFactory _ _ => none
  | .enroll _ _ => none
  | .lcAdvance _ _ => none
  | .debugUnlock _ _ => none
  | .certWrite _ _ => none
  | .slotInfo _ _ => none
  | .imageChunk _ _ => none
  | .imageRun _ _ => none
  | .fwWrite _ _ => none
  | .svnCommit _ _ => none
  | .getVersion _ => none
  | .getCapabilities _ => none
  | .negotiateAlgorithms _ _ => none
  | .getDigests _ => none
  | .getCertificate _ _ _ _ => none
  | .challenge _ _ _ => none
  | .getMeasurements _ _ _ _ => none
  | .keyExchange _ _ _ _ => none
  | .finish _ _ => none
  | .keyUpdate _ _ => none
  | .endSession _ => none
  | .ideKeyProgramming _ _ => none
  | .doeAbort _ => none
  | .doeObjectReject _ _ _ => none
  | .mainPowerLoss => none
  | .pcieLinkUp _ _ _ _ => none
  | .ucieTrainingComplete _ => none
  | .twinBindAnswer _ _ => none
  | .twinBindAnswerTimeout _ => none
  | .tapInstruction _ => none
  | .controllerRoleRequest => none
/-! ### Command entries (R356, R360) -/

def entryNat (b : Bytes) (off len : Nat) : Nat := ((b.drop off).take len).foldr (fun x n => x.toNat + 256 * n) 0
def entryField (w : Nat) (b : Bytes) (off len : Nat) : BitVec w := BitVec.ofNat w (entryNat b off len)
/-- An address in network order, an IPv4 address in its last four bytes (R228). -/
def entryAddress (b : Bytes) (off : Nat) : U128 :=
  BitVec.ofNat 128 (((b.drop off).take 16).foldl (fun n x => 256 * n + x.toNat) 0)

/-- The operand bytes an opcode uses, as (offset, length); none for a reserved opcode. -/
def entryUses : Nat → Option (List (Nat × Nat))
  | 0x01 => some [(8, 8)]
  | 0x02 => some [(8, 1)]
  | 0x03 => some [(8, 4), (16, 8)]
  | 0x04 => some [(8, 1), (9, 1), (10, 2), (16, 8)]
  | 0x08 => some [(8, 8), (16, 8)]
  | 0x09 => some [(8, 1)]
  | 0x10 => some [(8, 8), (16, 8), (24, 8), (32, 8)]
  | 0x11 => some [(8, 1), (16, 8)]
  | 0x12 => some [(8, 1), (16, 8), (24, 8), (32, 4)]
  | 0x13 => some [(8, 1), (16, 8)]
  | 0x14 => some [(8, 1), (16, 8)]
  | 0x15 => some [(8, 1), (16, 8)]
  | 0x20 => some [(8, 1), (12, 4), (16, 8), (24, 8)]
  | 0x21 => some [(8, 2)]
  | 0x22 => some [(8, 4), (12, 4), (16, 4), (20, 1), (22, 2), (24, 16), (40, 8), (48, 8)]
  | 0x23 => some [(8, 4)]
  | 0x30 => some [(8, 1), (16, 8), (24, 4)]
  | 0x31 => some [(8, 1), (9, 1), (10, 2), (12, 1), (16, 4), (20, 4), (24, 8), (32, 8), (40, 8), (48, 8), (56, 8)]
  | 0x32 => some [(8, 8), (16, 8)]
  | 0x33 => some [(8, 8), (16, 8), (24, 8), (32, 8), (40, 8)]
  | 0x34 => some [(8, 4)]
  | _ => none

/-- A well-formed entry: 64 bytes, an opcode of the table, every reserved and unused byte zero (R358, R417). -/
def entryOk (b : Bytes) : Bool :=
  match entryUses (entryNat b 0 1) with
  | none => false
  | some uses => b.length == 64 && (List.range 64).all fun i =>
      (b.getD i 0 == 0) || i == 0 || (4 ≤ i && i < 8) || uses.any fun u => decide (u.1 ≤ i ∧ i < u.1 + u.2)

def entryRef (b : Bytes) : RoundRef := ⟨entryField 8 b 8 1, entryField 64 b 16 8⟩

/-- The command an entry fetched by `fn` spells. -/
def decodeEntry (fn : Fn) (b : Bytes) : Option Instr :=
  let c : Cmd := ⟨fn, entryField 32 b 4 4⟩
  if entryOk b then
    match entryNat b 0 1 with
    | 0x01 => some (.partCreate c (entryField 64 b 8 8))
    | 0x02 => some (.partRemove c (entryField 8 b 8 1))
    | 0x03 => some (.instarSet c (entryField 32 b 8 4) (entryField 64 b 16 8))
    | 0x04 => some (.testRun c (entryField 8 b 8 1) (entryField 8 b 9 1) (entryField 16 b 10 2) (entryField 64 b 16 8))
    | 0x08 => some (.partLoad c (entryField 64 b 8 8) (entryField 64 b 16 8))
    | 0x09 => some (.opSet c (entryField 8 b 8 1))
    | 0x10 => some (.roundOpen c (entryField 64 b 8 8) (entryField 64 b 16 8) (entryField 64 b 24 8) (entryField 64 b 32 8))
    | 0x11 => some (.roundClose c (entryRef b))
    | 0x12 => some (.roundUnmask c (entryRef b) (entryField 64 b 24 8) (entryField 32 b 32 4))
    | 0x13 => some (.roundFinalize c (entryRef b))
    | 0x14 => some (.roundAbort c (entryRef b))
    | 0x15 => some (.resultAck c (entryRef b))
    | 0x20 => some (.grantCreate c (entryField 8 b 8 1) (entryField 32 b 12 4) (entryField 64 b 16 8) (entryField 64 b 24 8))
    | 0x21 => some (.grantRevoke c (entryField 16 b 8 2))
    | 0x22 => some (.connCreate c ⟨entryField 32 b 8 4, entryField 8 b 12 1, entryField 8 b 13 1, entryField 8 b 14 1,
        entryField 8 b 15 1, entryField 32 b 16 4, entryField 8 b 20 1, entryField 16 b 22 2, entryAddress b 24,
        entryField 64 b 40 8, entryField 64 b 48 8⟩)
    | 0x23 => some (.connDestroy c (entryField 32 b 8 4))
    | 0x30 => some (.keysetLoad c (entryField 8 b 8 1) (entryField 64 b 16 8) (entryField 32 b 24 4))
    | 0x31 => some (.twinBind c ⟨entryField 8 b 8 1, entryField 8 b 9 1, entryField 16 b 10 2, entryField 8 b 12 1,
        entryField 32 b 16 4, entryField 32 b 20 4, entryField 64 b 24 8, entryField 64 b 32 8, entryField 64 b 40 8,
        entryField 64 b 48 8, entryField 64 b 56 8⟩)
    | 0x32 => some (.checkpoint c (entryField 64 b 8 8) (entryField 64 b 16 8))
    | 0x33 => some (.replayStart c ⟨entryField 64 b 8 8, entryField 64 b 16 8, entryField 64 b 24 8, entryField 64 b 32 8,
        entryField 64 b 40 8⟩)
    | 0x34 => some (.faultResume c (entryField 32 b 8 4))
    | _ => none
  else none

end Sys2Proof
end

