-- ==== Sys2Proof/Machine/Float.lean ====
section
/-! DEFINITION. Binary floating point of the tally unit (R134, R135): every operation is computed exactly and rounded to
nearest, ties to even; subnormals are kept, and every NaN is the canonical one of its width. -/

namespace Sys2Proof.Machine

/-- A binary format: fraction bits and exponent bits. -/
structure FpFormat where
  frac : Nat
  expo : Nat
  deriving DecidableEq, Repr

def fp64 : FpFormat := ⟨52, 11⟩
def fp32 : FpFormat := ⟨23, 8⟩
def fp16 : FpFormat := ⟨10, 5⟩
def bf16 : FpFormat := ⟨7, 8⟩

namespace FpFormat

def bias (F : FpFormat) : Nat := 2 ^ (F.expo - 1) - 1
/-- The exponent of the last fraction bit of a subnormal. -/
def low (F : FpFormat) : Int := 1 - (F.bias : Int) - F.frac
def infBits (F : FpFormat) : Nat := (2 ^ F.expo - 1) * 2 ^ F.frac
def signBit (F : FpFormat) : Nat := 2 ^ (F.frac + F.expo)
/-- The canonical NaN (R135). -/
def nanBits (F : FpFormat) : Nat := F.infBits + 2 ^ (F.frac - 1)

end FpFormat

/-- A floating-point value: m · 2^e with a sign, an infinity, or NaN. -/
inductive Fp where
  | nan
  | inf (neg : Bool)
  | fin (neg : Bool) (m : Nat) (e : Int)
  deriving DecidableEq, Repr

namespace Fp

/-- The value of an encoding. -/
def ofBits (F : FpFormat) (b : Nat) : Fp :=
  let neg := b / F.signBit % 2 == 1
  let ex := b / 2 ^ F.frac % 2 ^ F.expo
  let fr := b % 2 ^ F.frac
  if ex = 2 ^ F.expo - 1 then if fr = 0 then .inf neg else .nan
  else if ex = 0 then .fin neg fr F.low
  else .fin neg (fr + 2 ^ F.frac) (F.low + (ex - 1 : Nat))

def bitLength (n : Nat) : Nat := if n = 0 then 0 else Nat.log2 n + 1

/-- m / 2^sh, to nearest, ties to even; `sticky` says the true value lies above m. -/
def shiftRound (m sh : Nat) (sticky : Bool) : Nat :=
  if sh = 0 then m
  else
    let q := m / 2 ^ sh
    let r := m % 2 ^ sh
    let half := 2 ^ (sh - 1)
    if half < r ∨ (r = half ∧ (sticky ∨ q % 2 = 1)) then q + 1 else q

/-- The encoding nearest to m · 2^e; with `sticky`, to a value just above it, and then m has more bits than the format. -/
def roundTo (F : FpFormat) (neg : Bool) (m : Nat) (e : Int) (sticky : Bool) : Nat :=
  let sign := if neg then F.signBit else 0
  if m = 0 then sign
  else
    let q := max (e + bitLength m - (F.frac + 1)) F.low
    let w := if q ≤ e then m * 2 ^ (e - q).toNat else shiftRound m (q - e).toNat sticky
    let bits := if w < 2 ^ F.frac then w else ((q - F.low).toNat + 1) * 2 ^ F.frac + (w - 2 ^ F.frac)
    sign + min bits F.infBits

/-- The encoding of a value. -/
def toBits (F : FpFormat) : Fp → Nat
  | .nan => F.nanBits
  | .inf neg => (if neg then F.signBit else 0) + F.infBits
  | .fin neg m e => roundTo F neg m e false

def isFinite : Fp → Bool
  | .fin _ _ _ => true
  | _ => false

/-- The signed multiple of 2^(min) that a finite value is. -/
def scaled (neg : Bool) (m : Nat) (e low : Int) : Int :=
  let v : Int := m * 2 ^ (e - low).toNat
  if neg then -v else v

/-- The exact sum of two values. -/
def add : Fp → Fp → Fp
  | .nan, _ => .nan
  | _, .nan => .nan
  | .inf a, .inf b => if a = b then .inf a else .nan
  | .inf a, _ => .inf a
  | _, .inf b => .inf b
  | .fin a m e, .fin b n f =>
    let low := min e f
    let v := scaled a m e low + scaled b n f low
    if v = 0 then .fin (a && b) 0 low else .fin (decide (v < 0)) v.natAbs low

def neg : Fp → Fp
  | .nan => .nan
  | .inf a => .inf !a
  | .fin a m e => .fin (!a) m e

def sub (a b : Fp) : Fp := add a b.neg

/-- The exact product. -/
def mul : Fp → Fp → Fp
  | .nan, _ => .nan
  | _, .nan => .nan
  | .inf a, .inf b => .inf (a != b)
  | .inf a, .fin b m _ => if m = 0 then .nan else .inf (a != b)
  | .fin a m _, .inf b => if m = 0 then .nan else .inf (a != b)
  | .fin a m e, .fin b n f => .fin (a != b) (m * n) (e + f)

/-- The rounded quotient, as an encoding. -/
def divBits (F : FpFormat) : Fp → Fp → Nat
  | .nan, _ => F.nanBits
  | _, .nan => F.nanBits
  | .inf _, .inf _ => F.nanBits
  | .inf a, .fin b _ _ => toBits F (.inf (a != b))
  | .fin a _ _, .inf b => roundTo F (a != b) 0 0 false
  | .fin a m e, .fin b n f =>
    if n = 0 then if m = 0 then F.nanBits else toBits F (.inf (a != b))
    else
      let k := 128 + bitLength n
      roundTo F (a != b) (m * 2 ^ k / n) (e - f - k) (m * 2 ^ k % n != 0)

/-- The rounded square root, as an encoding. -/
def sqrtBits (F : FpFormat) : Fp → Nat
  | .nan => F.nanBits
  | .inf a => if a then F.nanBits else F.infBits
  | .fin a m e =>
    if m = 0 then roundTo F a 0 0 false
    else if a then F.nanBits
    else
      let k := 128 + (e % 2).toNat
      let r := Nat.sqrt (m * 2 ^ k)
      roundTo F false r ((e - k) / 2) (r * r != m * 2 ^ k)

/-- a > b on values that are not NaN. -/
def gt : Fp → Fp → Bool
  | .nan, _ => false
  | _, .nan => false
  | .inf a, .inf b => !a && b
  | .inf a, _ => !a
  | _, .inf b => b
  | .fin a m e, .fin b n f => decide (scaled b n f (min e f) < scaled a m e (min e f))

/-- z · 2^(−f) exactly. -/
def ofInt (z : Int) (f : Nat) : Fp := .fin (decide (z < 0)) z.natAbs (-(f : Int))

/-- The integer nearest to the value, ties to even. -/
def roundInt (neg : Bool) (m : Nat) (e : Int) : Int :=
  let w : Int := if 0 ≤ e then m * 2 ^ e.toNat else shiftRound m (-e).toNat false
  if neg then -w else w

end Fp

/-! ### Rounded operations on encodings -/

def fadd (F : FpFormat) (a b : Nat) : Nat := (Fp.add (.ofBits F a) (.ofBits F b)).toBits F
def fsub (F : FpFormat) (a b : Nat) : Nat := (Fp.sub (.ofBits F a) (.ofBits F b)).toBits F
def fmul (F : FpFormat) (a b : Nat) : Nat := (Fp.mul (.ofBits F a) (.ofBits F b)).toBits F
def fdiv (F : FpFormat) (a b : Nat) : Nat := Fp.divBits F (.ofBits F a) (.ofBits F b)
def fsqrt (F : FpFormat) (a : Nat) : Nat := Fp.sqrtBits F (.ofBits F a)
/-- Conversion between widths. -/
def fconv (F G : FpFormat) (a : Nat) : Nat := (Fp.ofBits F a).toBits G
def fgt (F : FpFormat) (a b : Nat) : Bool := Fp.gt (.ofBits F a) (.ofBits F b)
def ffinite (F : FpFormat) (a : Nat) : Bool := (Fp.ofBits F a).isFinite
/-- An integer as FP64. -/
def f64OfNat (n : Nat) : Nat := Fp.roundTo fp64 false n 0 false

end Sys2Proof.Machine
end

