-- ==== Sys2Proof/Config.lean ====
section
/-! DEFINITION. The free values: constants without a body, so that no proof can see what they are. Each stands for a value
the manual leaves open, or for what an outside body of arithmetic or a physical measurement supplies. -/

namespace Sys2Proof.Config

/-- A field of a report whose value the manual does not state; the argument numbers the field (assumption log).
(DESIGN CHOICE, log entry 14) -/
opaque openField : Nat → Nat

/-- Raw sample word number n of the firefly array (R324). (DESIGN CHOICE, log entry 16) -/
opaque rawSamples : Nat → BitVec 32

/-- The 32-byte constant in the ROM that the slot tag key comes from (R292): the manual does not give it.
(DESIGN CHOICE, log entry 17) -/
opaque romConstant : U256

/-- SHA-256 of the mask ROM (measurement block 1, R307): the manual does not give the ROM. (DESIGN CHOICE, log entry 17) -/
opaque romDigest : U256

/-- The request count as KEY_CHALLENGE hashes it (R309), and as a responder nonce does (R305): the manual gives no width.
(DESIGN CHOICE, log entry 17) -/
opaque countBytes : Nat → Bytes

/-- The Gaussian trial of 32 bytes for σ² = num / den: fixed in hardware, and the manual does not give it (R321).
(DESIGN CHOICE, log entry 16) -/
opaque gaussTrial : Bytes → Nat → Nat → Option Int

/-- The 64 KiB pages that a row of a site touches: the manual does not give the sites' address layout (R212).
(DESIGN CHOICE, log entry 23) -/
opaque rowPages : Nat → Nat → List Nat

/-- The bank group of a row of a site: the manual gives no layout (R212). (DESIGN CHOICE, log entry 23) -/
opaque rowGroup : Nat → Nat → Nat

/-- exp(−a/b) in units of 2^-32 as the governor computes it: the manual gives the formula of R342 and no precision.
(DESIGN CHOICE, log entry 23) -/
opaque expNeg : Nat → Nat → Nat

/-- The DER of the alias certificate's issuer name, and of the extensions field after the public key (R306): the manual gives
the other fields. (DESIGN CHOICE, log entry 17) -/
opaque issuerName : Bytes
opaque aliasExtensions : Bytes

/-- What a failed write leaves of the firmware area, from the old content and the new (R302). (DESIGN CHOICE, log entry 191) -/
opaque brokenFirmware : Bytes → Bytes → Bytes

/-- What the SPDM responder hashes or derives for a message of its conversation, numbered, from the content this model keeps:
the wire encoding and key schedule are those of DSP0274, which the manual names and does not repeat (R305).
(DESIGN CHOICE, log entry 17) -/
opaque spdmHash : Nat → Bytes → U256

/-- What TDEC reads in a word of an encrypted SUM round, whose release has no decode step (R141): the manual states no value.
(DESIGN CHOICE, log entry 19) -/
opaque sumDecode : Nat → Nat

/-- Coefficient n of a limb after a stage or transform whose modulus, ring degree or stage the manual gives no twiddles for:
operation code, the limb's words, n (R90). (DESIGN CHOICE, log entry 18; DESIGN CHOICE, log entry 19) -/
opaque limbWord : Nat → List Nat → Nat → Nat

/-- A residue modulo the last argument of the value whose residues and primes are given: the base conversions of the key switch
and of RESCALE, which the manual costs and does not round (R101, R102). (DESIGN CHOICE, log entry 18) -/
opaque baseWord : List (Nat × Nat) → Nat → Nat

/-- Coefficient n of the body an operation on objects writes where the manual gives no formula (the scaled tensor product of a
BFV MUL, and operands in the wrong form): operation code, the bytes it reads, n (R101). (DESIGN CHOICE, log entry 18) -/
opaque objectWord : Nat → List Bytes → Nat → Nat

/-- Slot n of the inverse batching transform modulo t of a polynomial's coefficients (R108: the manual gives no root modulo t and
no slot order). (DESIGN CHOICE, log entry 19) -/
opaque batchSlot : Nat → List Nat → Nat → Nat

/-- Slot n of the inverse canonical embedding in FP64 of a polynomial's FP64 coefficients (R108: the manual gives neither its slot
order nor its rounding). (DESIGN CHOICE, log entry 19) -/
opaque embedSlot : List Nat → Nat → Nat

/-- An integer times 2^(−s/256) in FP64, for an s that is no multiple of 256 (R108: the manual gives no rounding of the power).
(DESIGN CHOICE, log entry 19) -/
opaque scaledCoef : Int → Nat → Nat

/-- Coefficient n of the plaintext polynomial that encodes slot values: the scheme's own parameters, the values, n (R106: the
manual gives neither the slot order nor the rounding). (DESIGN CHOICE, log entry 19) -/
opaque encodedCoef : List Nat → List Int → Nat → Int

/-- log2 of the k′ by which MOLT_EX switches the samples of a molt set, modulo 3: its word names no table group (R113, R122).
(DESIGN CHOICE, log entry 174) -/
opaque extractLog : Nat → Nat

/-- The member number of the device at an address: R297 orders the two sides by it, and CONN_CREATE does not carry it.
(DESIGN CHOICE, log entry 24) -/
opaque peerMember : U128 → Nat

/-- IDENTITY_GEN and DBG as the verifier of ENDORSE takes them for a DEVICE_ID key: R296 signs them, and no field of the body
carries them. (DESIGN CHOICE, log entry 24) -/
opaque endorseTail : U512 → Bytes

/-- Word `l` of register `i` of a unit that loaded context number `n`, and its poison bit: dead at a pre-emption point, unspecified
on resume (R175). (DESIGN CHOICE, log entry 20) -/
opaque deadWord : Nat → Nat → Nat → BitVec 32
/-- (DESIGN CHOICE, log entry 20) -/
opaque deadPoison : Nat → Nat → Bool

/-- Byte `i` of what read or write number `n` finds or leaves where R4 calls it unspecified: a line that two units touch without a
barrier between them (R191), the payload of a slot before it is READY (R43), the body of a poisoned object (R92).
(DEDUCED, log entries 143 to 145) -/
opaque freeByte : Nat → Nat → Byte

/-- The bytes of the controller's committed state that C_b hashes: the manual lists the state and gives no encoding (R261).
(DESIGN CHOICE, log entry 21) -/
opaque ctlBytes : List Nat → Bytes

/-- The bytes of a tile's reduced value and POISON bit as D_c takes them: R261 gives no encoding. (DESIGN CHOICE, log entry 21) -/
opaque tileBytes : List Nat → Bool → Bytes

/-- Bytes of staging that the enabled release steps take beside the payload, from RELEASE_PARAMS and the stretch length: the
manual names the need and no figure (R140, R418). (DESIGN CHOICE, log entry 158) -/
opaque tallyStaging : Bytes → Nat → Nat

/-- Partial total `i` of a reduction over a range that cuts a run of SEQ or a block of SHAPE: the range's first element and its
values; the manual states totals of whole runs and blocks alone (R137). (DESIGN CHOICE, log entry 169) -/
opaque partialTotal : Nat → List Nat → Nat → Nat

/-- Bytes of the controller state in a checkpoint (R264): the manual gives no size; below 64 MiB here.
(DESIGN CHOICE, log entry 22) -/
opaque ckptState : BitVec 26

end Sys2Proof.Config
end

