-- ==== Sys2Proof/Machine/StBase.lean ====
section
/-! DEFINITION. Status codes, ring entries and the host-interface set of one function: the plain data of R356, R370, R373,
and the outputs a reader can see (sent frames). -/

namespace Sys2Proof.Machine

/-- The status codes of R373, the only ones that exist (R374); their numbers are in `Status.code` (Machine/Flags). -/
inductive Status where
  | ok | notReady | busy | invalidCommand | invalidState | policyRefused | capacity | signatureInvalid
  | keyMismatch | keyStreamFault | levelMismatch | noiseExhausted | poisonedInput | proofRejected | duplicateContributor
  | accessRevoked | accessDenied | partitionGone | flushed | remoteNak
  | entropyNotReady | entropyFail
  | keySlotCorrupt | keyOrphaned | keyAttributeDenied
  | beatOverrun | pageFault | uncorrectableMemory | degraded
  | fenced | twinDiverged | twinAbsent
  | tampered | lifecycleDenied
  deriving DecidableEq, Repr

/-- SEVERITY of an event (R377). -/
inductive Severity where
  | info | notice | warning | error | critical
  deriving DecidableEq, Repr

/-- CLASS of an event (R378). -/
inductive EventClass where
  | overflow | round | partition | memory | port | connection | receive | receiveLen | twin | clockPower | security | rng | test
  deriving DecidableEq, Repr

/-- A completion entry (R356). -/
structure Completion where
  tag : U32
  status : Status
  opcode : U8
  aux : U16
  result : U64
  deriving DecidableEq, Repr

/-- An event entry (R356, R378). -/
structure Event where
  seq : Nat
  beat : Nat
  cls : EventClass
  status : Status
  severity : Severity
  source : U32
  detail : U64
  deriving DecidableEq, Repr

/-- A fault entry (R205). `resumeNeeded` is FLAGS bit 0. -/
structure FaultEntry where
  va : U64
  beat : Nat
  id : Nat
  agent : U8
  access : U8
  cause : Status
  resumeNeeded : Bool
  source : U32
  deriving DecidableEq, Repr

/-- The configuration-space bits of one function (R346, R348). (DEDUCED, log entry 81) -/
structure FnConfig where
  busMaster : Bool := false
  memSpace : Bool := false
  d3hot : Bool := false
  relaxed : Bool := false
  deriving DecidableEq, Repr

/-- The host-interface set of a function (R370), its internal indices (R353), and the entries it has decided and not yet
written to the rings in host memory. `enableReq` and `disableReq` are HIF_CTRL writes that wait for the boundary (R354).
(DESIGN CHOICE, log entry 11) -/
structure HifSet where
  cmdqBase : U64 := 0
  cmdqSize : U32 := 0
  cmdqDb : U32 := 0
  cplqBase : U64 := 0
  cplqSize : U32 := 0
  cplqHead : U32 := 0
  evqBase : U64 := 0
  evqSize : U32 := 0
  evqHead : U32 := 0
  fltqBase : U64 := 0
  fltqSize : U32 := 0
  fltqHead : U32 := 0
  idxBase : U64 := 0
  enable : Bool := false
  enableReq : Bool := false
  disableReq : Bool := false
  enabled : Bool := false
  fetchError : Bool := false
  fetchStalled : Bool := false
  lastStatus : Status := .ok
  outstanding : Nat := 0
  evLost : Nat := 0
  evLostPending : Nat := 0
  badAccess : Nat := 0
  dbDiscards : Nat := 0
  cmdConsumed : U32 := 0
  cplProduced : U32 := 0
  evProduced : U32 := 0
  fltProduced : U32 := 0
  evSeq : Nat := 1
  cplPending : List Completion := []
  evPending : List Event := []
  evHeld : List Event := []
  fltPending : List FaultEntry := []
  idxShown : Option (U32 × U32 × U32 × U32) := none
  deriving DecidableEq, Repr

/-- What stands before the RXT header of a sent packet (R217, R221): MAC addresses, IP version and addresses, DSCP and ECN of
the traffic class, and the UDP ports and checksum. -/
structure WireHead where
  dstMac : BitVec 48
  srcMac : BitVec 48
  ipVersion : Nat
  srcIp : U128
  dstIp : U128
  dscp : BitVec 6
  ecn : BitVec 2
  srcPort : U16
  dstPort : U16
  checksum : U16
  deriving DecidableEq, Repr

/-- A frame the device has handed to a sub-port. An RXT packet has the fields of R222 (`partition` and `conn` are the remote
end's; PAYLOAD_LEN is the payload's length; VERSION is 1, GRANT_ID and the reserved bytes are zero), a CONNECT and a chirp their
bodies. Handshake frames, ARP and Neighbor answers are recorded the same way. (DEDUCED, log entry 140) -/
inductive TxFrame where
  | rxt (port : RPort) (sub : SubPort) (wire : WireHead) (opcode : U8) (partition : U8) (conn : Nat) (instar : U32) (psn : U32)
      (msgId : U32) (keyOrTag : U64) (offset : BitVec 48) (echo : U8) (flags : U8) (payload : Bytes) (sealTag : U128)
  | connect (port : RPort) (sub : SubPort) (wire : WireHead) (partition : U8) (conn : Nat) (instar : U32) (body : ConnectBody)
  | chirp (port : RPort) (sub : SubPort) (wire : WireHead) (instar : U32) (beat : U64) (echoBeat : U64) (turn : U32) (period : U32)
      (master : U16) (hops : U8) (flags : U8)
  | hello (port : RPort) (sub : SubPort) (dstMac : BitVec 48) (h : HelloFrame)
  | confirm (port : RPort) (sub : SubPort) (dstMac : BitVec 48) (mac : U128)
  | arpReply (port : RPort) (sub : SubPort) (toMac : BitVec 48) (toIp ip : U32)
  | ndReply (port : RPort) (sub : SubPort) (toMac : BitVec 48) (toIp ip : U128)
  deriving DecidableEq, Repr

end Sys2Proof.Machine
end

