-- ==== Sys2Proof/Machine/StFabric.lean ====
section
/-! DEFINITION. The Recel ports, the RXT transport and the system state (chapters 11 and 12). -/

namespace Sys2Proof.Machine

/-- STATE of a connection context (R228). -/
inductive ConnState where
  | free | connecting | ready | error | draining
  deriving DecidableEq, Repr

/-- Where the bytes of an open message go (R234, R237, R239, R240, R243). -/
inductive MsgBuffer where
  | grant (g : Nat)
  | pool (k : Ctx) (slotVA : Nat) (size : Nat)
  | entry (pos : Nat) (va : Nat) (size : Nat)
  | unexpected
  | landing (va : Nat) (size : Nat)
  | dropped
  deriving DecidableEq, Repr

/-- A message in the window of a connection (R234): its span as far as FIRST and LAST are known, the ranges (OFFSET, bytes) of
the packets admitted and of those placed, its buffer, and the beat in which it opened. -/
structure OpenMsg where
  opcode : U8
  port : RPort
  tag : U64
  start : Option Nat
  stop : Option Nat
  placed : List (Nat × Nat)
  buffer : MsgBuffer
  stored : Bytes
  cancelled : Bool
  seen : List (Nat × Nat) := []
  opened : Nat := 0
  deriving DecidableEq, Repr

/-- A packet sent and not acknowledged (R233). -/
structure TxPacket where
  psn : Nat
  msgId : U32
  opcode : U8
  offset : BitVec 48
  flags : U8
  payload : Bytes
  sealTag : U128
  path : Nat
  misses : Nat
  deriving DecidableEq, Repr

/-- A connection context (R228), with what a port keeps beside it. `received` and `complete` are PSN_WINDOW and MSG_WINDOW
as the numbers above RX_PSN and RX_MSG_BASE that are set. -/
structure Conn where
  state : ConnState := .free
  fabric : Bool := false
  part : Part := 0
  ports : U8 := 0
  paths : Nat := 1
  payloadLog : Nat := 10
  pathFailed : U16 := 0
  remoteConn : BitVec 24 := 0
  remotePart : Part := 0
  errorStatus : Status := .ok
  ipVersion : Nat := 4
  udpSrcBase : U16 := 0
  remoteIp : U128 := 0
  txPsn : Nat := 0
  rxPsn : Nat := 0
  txMsg : U32 := 0
  rxMsgBase : U32 := 0
  rate : Nat := 0
  srtt : Nat := 0
  complete : List Nat := []
  received : List Nat := []
  landingVA : Nat := 0
  landingLen : Nat := 0
  keyGen : Nat := 0
  retries : Nat := 0
  ceCount : Nat := 0
  cached : Bool := false
  failedOver : Bool := false
  createCmd : Option Cmd := none
  destroyCmd : Option Cmd := none
  agreed : Bool := false
  eph : Option U256 := none
  peerEph : U512 := 0
  peerKey : Option U256 := none
  peerGen : Nat := 0
  peerMember : Nat := 0
  unacked : List TxPacket := []
  sinceAck : Nat := 0
  pathMisses : Vector Nat 16 := Vector.replicate 16 0
  nextPath : Nat := 0
  probing : List Nat := []
  msgs : Tbl OpenMsg := []
  cancelDue : List U32 := []
  rnr : List Nat := []
  authNoted : Bool := false
  inFlight : Nat := 0
  deriving DecidableEq, Repr

/-- HS_STATE of a sub-port (R247). -/
inductive HsState where
  | idle | waiting | failed | done
  deriving DecidableEq, Repr

/-- A MACsec association: keys and packet numbers of the two directions (R218, R219). -/
structure Assoc where
  txKey : U256
  rxKey : U256
  txPn : Nat
  rxPn : Nat
  deriving DecidableEq, Repr

/-- A link handshake in progress (R219): own ephemeral key, both HELLOs, the derived keys once known. -/
structure Handshake where
  eph : Option U256 := none
  ownHello : Option HelloFrame := none
  peerHello : Option HelloFrame := none
  keys : Option (U256 × U256) := none
  confirmed : Bool := false
  deriving DecidableEq, Repr

/-- A sub-port (R247). (DESIGN CHOICE, log entry 5) -/
structure SubState where
  linkUp : Bool := false
  hs : HsState := .idle
  mac : BitVec 48 := 0
  nexthop : BitVec 48 := 0
  ipv4 : U32 := 0
  ipv6 : U128 := 0
  udp : U32 := 0x2E281C7A
  mtu : Nat := 9216
  peerHash : U256 := 0
  rekey : Nat := 86400
  rxFrames : Nat := 0
  txFrames : Nat := 0
  macsecDrops : Nat := 0
  nonRxt : Nat := 0
  noConn : Nat := 0
  missDrops : Nat := 0
  instarAhead : Nat := 0
  authFail : Nat := 0
  ingressDrops : Nat := 0
  fencedSent : Nat := 0
  assoc : Option Assoc := none
  oldAssoc : Option Assoc := none
  handshake : Handshake := {}
  aheadNoted : Bool := false
  lastChirp : Option (U64 × Int) := none
  deriving DecidableEq, Repr

/-- A Recel port (R216): MODE, its two sub-ports, and its miss buffer as the waiting frames with their rows' opcodes
(R230). -/
structure PortState where
  mode : BitVec 2 := 0
  disabled : Bool := false
  subs : Vector SubState 2 := Vector.replicate 2 {}
  waiting : List (U8 × RxtFrame) := []
  fetching : List Nat := []
  looped : Bool := false
  deriving DecidableEq, Repr

/-- The device-wide transport registers (R248), the connections, the order of use of the context caches of the four link
dies (R229), and the last TX_PSN of each fabric number and key generation (R231). -/
structure RxtState where
  ctxBase : U64 := 0
  ctxCount : Nat := 0
  ccParams : U32 := 0x3220
  ccRate : U32 := 0x000A07D0
  ccMark : U32 := 256
  retry : U32 := 0x10031020
  ack : U32 := 0x0210
  unexpAge : Nat := 4096
  ctxMisses : Nat := 0
  ctxFetchFail : Nat := 0
  conns : Tbl Conn := []
  cache : Vector (List Nat) 4 := Vector.replicate 4 []
  lastPsn : List ((Nat × Nat) × Nat) := []
  deriving DecidableEq, Repr

/-- A pending INSTAR_SET (R252). -/
structure PendingInstar where
  value : Nat
  beat : Nat
  cmd : Cmd
  deriving DecidableEq, Repr

/-- The SYS block (R176, R270) and the beat counter. `beat` is SYS_BEAT_NUMBER, the beat in progress; `now` counts elapsed
time in units of 0.8 ns, `beatStart` where the beat began; `slew` lengthens (or shortens) the beat in progress (R160);
`slewNext` is the correction of the next beat, `prevLen` the length of the beat before, `chirpNow` whether a chirp was accepted in the beat in progress, `adopt` the beat
number to adopt and where in the current beat it starts (R398), `sentChirps` the times of chirps sent on the clock sub-port
(R256); `running` is clear while the beat counter stands. (DEDUCED, log entry 129) -/
structure SysState where
  running : Bool := false
  beatPeriod : Nat := 312500
  periodPending : Option Nat := none
  beat : Nat := 0
  now : Nat := 0
  beatStart : Nat := 0
  slew : Int := 0
  slewNext : Int := 0
  prevLen : Nat := 312500
  chirpNow : Bool := false
  locked : Bool := false
  drift : Bool := false
  periodRefused : Bool := false
  chirpError : Int := 0
  chirpMissed : Nat := 0
  chirpSeen : Bool := false
  member : Nat := 0
  master : Bool := false
  clockPort : RPort := 0
  clockSub : SubPort := 0
  instar : Nat := 0
  instarPending : Option PendingInstar := none
  chirpPorts : U16 := 0
  hops : Nat := 0
  masterSeen : Nat := 0
  delaySamples : List Int := []
  upstreamIp : U128 := 0
  peerIp : Vector U128 16 := Vector.replicate 16 0
  sentChirps : List (Nat × Nat) := []
  fenceDue : Bool := false
  adopt : Option (Nat × Int) := none
  deriving DecidableEq, Repr

end Sys2Proof.Machine
end

