-- ==== Sys2Proof/Machine/StImage.lean ====
section
/-! DEFINITION. The chitin image as the device holds it after its checks (R163 to R169, R85, R111, R115, R179). -/

namespace Sys2Proof.Machine

/-- The modes of a round (R22, R28). -/
inductive Mode where
  | masked | shared | encrypted
  deriving DecidableEq, Repr

/-- A ring parameter set (R85, R166). `ckks` is SCHEME 1. -/
structure RingSet where
  ckks : Bool
  logN : Nat
  q : List Nat
  p : List Nat
  t : Nat
  incRnd : Nat
  incMul : Nat
  incKs : Nat
  incRs : Nat
  incEnc : Nat
  budget : List Nat
  psiQ : List Nat
  psiP : List Nat
  deriving DecidableEq, Repr

/-- A molt parameter set (R111). -/
structure MoltSet where
  logNm : Nat
  outerSet : Nat
  lweN : Nat
  primeA : Nat
  primeB : Nat
  psiA : Nat
  psiB : Nat
  brLog : Nat
  brDigits : Nat
  outLevel : Nat
  inMax : Nat
  outNb : Nat
  waveDepth : Nat
  outScale : Nat
  deriving DecidableEq, Repr

/-- A table group (R115): entries in record order, as signed integers. -/
structure TableGroup where
  moltSet : Nat
  prec : Nat
  kOut : Nat
  outMult : Nat
  entries : List Int
  deriving DecidableEq, Repr

/-- A modulus-table entry (R179). -/
structure ModEntry where
  modulus : Nat := 0
  recip : Nat := 0
  shift : Nat := 0
  kind : Nat := 0
  deriving DecidableEq, Repr

/-- A MEMORY_MAP record (R167). -/
structure MapRec where
  va : Nat
  length : Nat
  backing : Nat
  die : Nat
  cluster : Nat
  perms : BitVec 5
  deriving DecidableEq, Repr

/-- A ROUND_LAYOUT record (R167). -/
structure LayoutRec where
  mode : Mode
  contexts : BitVec 4
  residency : Nat
  job : Nat
  maxStretch : Nat
  accVA : Nat
  stageVA : Nat
  stageBytes : Nat
  modeStage : Nat
  modeLimit : Nat
  deriving DecidableEq, Repr

/-- A JOBS record (R168). -/
structure JobRec where
  cycleLen : Nat
  quantum : Nat
  deriving DecidableEq, Repr

/-- The PROGRAMS section of one image die: per program the START and COUNT of the eight units, and the words (R168). -/
structure DiePrograms where
  dir : List (List (Nat × Nat))
  words : List U128
  deriving DecidableEq, Repr

/-- A SCHEDULE entry (R168): REF holds a program index, none for 0xF_FFFF. -/
structure SchedEntry where
  cycles : Nat
  memBytes : Nat
  journalKib : Nat
  preempt : Bool
  refs : List (Option Nat)
  deriving DecidableEq, Repr

/-- A chitin image (R164 to R169). `schedules` is indexed image die by image die, then job by job. -/
structure Image where
  imageBytes : Nat := 0
  dieCount : Nat := 0
  minOp : Nat := 0
  modes : BitVec 3 := 0
  beatPeriodMin : Nat := 0
  powerBudget : Nat := 0
  swapPeriod : Nat := 1024
  swapPhase : Nat := 0
  clusterUse : List U32 := []
  policySignerHash : U256 := 0
  rings : List RingSet := []
  molts : List MoltSet := []
  groups : List TableGroup := []
  modtab : List (List ModEntry) := []
  memMap : List MapRec := []
  layouts : List LayoutRec := []
  jobs : List JobRec := []
  programs : List DiePrograms := []
  schedules : List (List (List SchedEntry)) := []
  measurement : U256 := 0
  deriving DecidableEq, Repr

end Sys2Proof.Machine
end

