-- ==== Sys2Proof/Machine/StRound.lean ====
section
/-! DEFINITION. A round context: its policy, slot, registers and the progress of its close work and release
(chapters 02 to 05 and 07). -/

namespace Sys2Proof.Machine

/-- Round context states (R35, R45). -/
inductive RoundPhase where
  | free | opened | closing | closed | finalizing | released | held | fenced
  deriving DecidableEq, Repr

/-- HOLD_CAUSE (R45). -/
inductive HoldCause where
  | none | recovery | cohort | poison | entropy | twinAbsent | diverged | degraded | ledger
  deriving DecidableEq, Repr

/-- The parsed policy block (R28). MODE_PARAMS and RELEASE_PARAMS stay as their bytes; Machine/Operands reads their fields. -/
structure Policy where
  mode : Mode := .masked
  twinRelease : Bool := false
  inputLog : Bool := false
  roundId : Nat := 0
  stretchId : Nat := 0
  stretchBase : Nat := 0
  stretchLen : Nat := 0
  minCohort : Nat := 0
  maxCohort : Nat := 0
  deadlineBeats : Nat := 0
  recoveryBeats : Nat := 0
  finalizeBeats : Nat := 0
  chitinHash : U256 := 0
  modeParams : Bytes := []
  releaseParams : Bytes := []
  signerKey : U512 := 0
  signature : U512 := 0
  deriving DecidableEq, Repr

/-- STATE of a result slot header (R43). -/
inductive SlotState where
  | empty | filling | ready | retired
  deriving DecidableEq, Repr

/-- The result slot header (R43). -/
structure SlotHeader where
  state : SlotState := .empty
  gen : Nat := 0
  roundId : Nat := 0
  length : Nat := 0
  status : Status := .ok
  format : Nat := 0
  cohort : Nat := 0
  digest : U256 := 0
  deriving DecidableEq, Repr

/-- What an accepted ROUND_OPEN holds from the end of its checks to its open beat (R30). -/
structure OpenClaim where
  cmd : Cmd
  openBeat : Nat
  claimBeat : Nat
  policy : Policy
  policyHash : U256
  layout : Nat
  slotVA : Nat
  slotBytes : Nat
  claimsEntry : Bool
  deriving DecidableEq, Repr

/-- Progress through the steps of R40; `waitNoise` is the NOISE exchange of R263 in step 2, `restart` an error of R150 whose
restart waits for its boundary, `waitTwin` step 4, `writing` from the ledger mark of step 5 on. -/
inductive FinStep where
  | idle | waitNoise | pipeline | restart | waitTwin | writing
  deriving DecidableEq, Repr

/-- The release write that is due or waits for FAULT_RESUME (R43, R204), and so what its end brings: a header of the steps of
R30, R40, R43 and R44, the payload, or the zeroing of an acknowledged payload. `failHeader` takes the round to HELD. -/
inductive SlotWait where
  | none | openHeader | finalizeHeader | payload | readyHeader | failHeader (cause : HoldCause) (st : Status) | abortHeader
  | ackPayload | ackHeader
  deriving DecidableEq, Repr

/-- A record of a seed list (R56). -/
structure SeedRec where
  pair : Bool
  owner : Nat
  peer : Nat
  seed : U256
  deriving DecidableEq, Repr

/-- An accepted ROUND_UNMASK waiting for or in expansion (R58): its records applied, and the keystream blocks of the next one
expanded. -/
structure UnmaskJob where
  cmd : Cmd
  records : List SeedRec
  applied : Nat := 0
  blocks : Nat := 0
  deriving DecidableEq, Repr

/-- The masked-mode part of a context: the registers of R63 and the arrays of R52, R57 and R62. -/
structure MaskedCtx where
  segments : Nat := 0
  malformed : Nat := 0
  segLate : Nat := 0
  segOrder : Nat := 0
  complete : Nat := 0
  partialCount : Nat := 0
  dropped : Nat := 0
  needSelf : Nat := 0
  needPair : Nat := 0
  appliedSelf : Nat := 0
  appliedPair : Nat := 0
  expandBytes : Nat := 0
  unmaskStatus : Status := .ok
  failRecord : Nat := 0
  counts : Tbl Nat := []
  classified : Bool := false
  seedsSelf : List Nat := []
  seedsPair : List (Nat × Nat) := []
  queue : List UnmaskJob := []
  merged : List Nat := []
  handedOff : Bool := false
  deriving DecidableEq, Repr

/-- The verdicts of R76. -/
inductive Verdict where
  | accept | proof | timeout | absent
  deriving DecidableEq, Repr

/-- Body of a verifier-exchange message (R76). -/
inductive XchgBody where
  | part (j : U256)
  | seed (seed : U256)
  | share (v : VerifierShare)
  | decide (v : Verdict)
  | done (accepted : Nat) (digest : U256)
  deriving DecidableEq, Repr

/-- A verifier-exchange message that has arrived in beat `beat` and waits for its beat of processing (R77). -/
structure XchgIn where
  beat : Nat
  party : Nat
  contrib : Nat
  body : XchgBody
  deriving DecidableEq, Repr

/-- Where a stamped contribution came from (R259). -/
inductive StampSource where
  | conn (c : Nat) (msgId : U32)
  | ring (r : Fin 4) (index : U32)
  | forwarded
  deriving DecidableEq, Repr

/-- What a shared-mode context knows of one contributor index (R76 to R80); `source` is where its staged share lies, `seq` the
ingest sequence number of its contribution (R186). -/
structure ShareRec where
  admittedAt : Option Nat := none
  staged : Bool := false
  stageVA : Nat := 0
  stageLen : Nat := 0
  source : StampSource := .forwarded
  seq : Nat := 0
  parts : Tbl U256 := []
  partAt : Option Nat := none
  seed : Option U256 := none
  shares : Tbl VerifierShare := []
  verdict : Option Verdict := none
  deriving DecidableEq, Repr

/-- The shared-mode part of a context: the registers of R84 and the exchange state. -/
structure SharedCtx where
  wireLen : Nat := 0
  proofLen : Nat := 0
  malformed : Nat := 0
  accepted : Nat := 0
  rejProof : Nat := 0
  rejTimeout : Nat := 0
  rejAbsent : Nat := 0
  xchgDiscard : Nat := 0
  decideUnadmitted : Nat := 0
  merged : BitVec 4 := 0
  mismatch : BitVec 4 := 0
  acceptDigest : U256 := 0
  expandBytes : Nat := 0
  index : Tbl ShareRec := []
  inbox : List XchgIn := []
  acceptedSet : List Nat := []
  done : Tbl (Nat × U256) := []
  closeSent : Bool := false
  rejEvents : Nat := 0
  deriving DecidableEq, Repr

/-- The encrypted-mode part of a context: the registers of R109, the counts of R97, the step of its job from which the close program
runs (R105), and the source ciphertexts decoded (R108). -/
structure EncCtx where
  ctCount : Nat := 0
  malformed : Nat := 0
  segLate : Nat := 0
  segOrder : Nat := 0
  complete : Nat := 0
  partialCount : Nat := 0
  dropped : Nat := 0
  nbAcc : Nat := 0
  budget : Nat := 0
  nbRelease : Nat := 0
  firstStatus : Status := .ok
  poisonedOps : Nat := 0
  combineSet : U64 := 0
  counts : Tbl Nat := []
  added : Tbl Nat := []
  nbMax : Tbl Nat := []
  headersSet : Bool := false
  sourceRead : Bool := false
  closeFrom : Nat := 0
  decoded : List Nat := []
  deriving DecidableEq, Repr

/-- The release part of a context: the registers of R153, the element ranges each step has done (step, first, count; step 8
names an INT32 element whose value was not finite, R148), and the errors of R150: how many, and whether one waits for its
boundary. The staging area itself lies in memory (Machine/Ops). -/
structure TalCtx where
  payloadLen : Nat := 0
  nonfinite : Nat := 0
  saturated : Nat := 0
  samples : Nat := 0
  samplerRetry : Nat := 0
  step : Nat := 0
  restarted : Bool := false
  lastStatus : Status := .ok
  cover : List (Nat × Nat × Nat) := []
  errors : Nat := 0
  errorDue : Bool := false
  deriving DecidableEq, Repr

/-- The release instance of a context (R320): the stream key once instantiated, and the next SAMPLE index of each kind. -/
structure ReleaseInst where
  key : Option U256 := none
  nextIndex : Vector Nat 4 := Vector.replicate 4 0
  deriving DecidableEq, Repr

/-- A round context (R27, R45) with everything it keeps. `keptSigner` outlives the round (R36). `lateNoted`
says that the summary events of the round were posted (R32, R51), `writeAt` where a release write has stopped (R204).
`passBeat` is the last beat whose end processed stamps (R57), `stopBeat` the beat at whose end a hold took the round out of
OPEN: later stamps are late (R33, R36). -/
structure RoundCtx where
  phase : RoundPhase := .free
  holdCause : HoldCause := .none
  lastStatus : Status := .ok
  policy : Policy := {}
  policyHash : U256 := 0
  openBeat : Nat := 0
  lastBeat : Nat := 0
  admitted : Nat := 0
  duplicates : Nat := 0
  late : Nat := 0
  excluded : Nat := 0
  included : Nat := 0
  slotVA : Nat := 0
  slotBytes : Nat := 0
  layout : Nat := 0
  bitmap : List Nat := []
  header : SlotHeader := {}
  headerWait : SlotWait := .none
  claim : Option OpenClaim := none
  aborting : Bool := false
  abortCmd : Option Cmd := none
  ackCmd : Option Cmd := none
  acking : Bool := false
  openCmd : Option Cmd := none
  finCmd : Option Cmd := none
  finStep : FinStep := .idle
  finDeadline : Nat := 0
  finStalled : Bool := false
  releaseFp : Option U128 := none
  fpSentAt : Option Nat := none
  partnerFp : Option U128 := none
  ownNoise : Option U256 := none
  partnerNoise : Option U256 := none
  noiseSentAt : Option Nat := none
  tilesPoisoned : Bool := false
  stampsDone : Bool := false
  passBeat : Option Nat := none
  stopBeat : Option Nat := none
  lateNoted : Bool := false
  finalRun : Bool := false
  writeAt : Option Nat := none
  keptSigner : Option U128 := none
  release : ReleaseInst := {}
  masked : MaskedCtx := {}
  shared : SharedCtx := {}
  enc : EncCtx := {}
  tal : TalCtx := {}
  deriving DecidableEq, Repr

/-- An entry of the release ledger (R42, R288): key, high-water mark H, window W, and whether its tag fails. -/
structure LedgerEntry where
  key : U128
  high : Nat
  window : U64
  corrupt : Bool
  tagOk : Bool
  deriving DecidableEq, Repr

end Sys2Proof.Machine
end

