-- ==== Sys2Proof/Machine/StUnit.lean ====
section
/-! DEFINITION. Units, clusters, regions and dies: the state of R128, R178, R191, the run state of R156 to R159 and R190,
the cluster maps of R18 and R177, the table stores of R117 and the test state of R391. -/

namespace Sys2Proof.Machine

/-- An accumulator tile (R128). -/
structure Tile where
  lanes : Vector (BitVec 48) 32 := Vector.replicate 32 0
  count : Nat := 0
  poison : Bool := false
  deriving DecidableEq, Repr

/-- An operand register: 32 words of 32 bits, lane l at bytes 4l to 4l + 3, and its poison bit (R178). -/
structure VReg where
  words : Vector U32 32 := Vector.replicate 32 0
  poison : Bool := false
  deriving DecidableEq, Repr

/-- The unit state that persists from beat to beat (R178). `dead` numbers the free values that the registers not listed hold
after a context was loaded (R175). -/
structure UnitRegs where
  v : Tbl VReg := []
  tiles : Tbl Tile := []
  msel : BitVec 4 := 0
  latchStatus : Status := .ok
  latchIndex : Nat := 0
  dead : Option Nat := none
  deriving DecidableEq, Repr

/-- A level of the loop stack (R187): first and last word of the body and the passes left. -/
structure LoopFrame where
  start : Nat
  last : Nat
  left : Nat
  deriving DecidableEq, Repr

/-- What a unit waits for (R184, R190); `entropy` is a draw the source refused (R192). -/
inductive UnitWait where
  | none | asyncs | barrier | rbarrier | clusterOp | entropy
  deriving DecidableEq, Repr

/-- An asynchronous operation that has been issued and not completed (R191): the word that issued it, its index in the
program, and the index registers and barriers passed at issue; its effect on memory is made when it completes. -/
structure AsyncOp where
  engine : Engine
  instr : Instr
  index : Nat
  x : Vector U64 8
  syncs : Nat := 0
  deriving DecidableEq, Repr

/-- A 64-byte line that a unit has written in the step that runs, and the units that barriers have ordered after the write:
unit, and the count of its barriers from which on (R191). (DEDUCED, log entry 143) -/
structure WriteRec where
  line : Nat
  after : List (Nat × Nat)
  deriving DecidableEq, Repr

/-- One unit. `work` is what its instructions see, `base` the state at the last commit (R131, R158); the rest lives for one
beat. `prog` is the range of program words of the running entry, `pos` the next word; `written` lists the lines written
in the step, `syncs` counts the barriers passed in the beat (R191); `rbarriers` stays until the step ends once the cluster is
done (R184); `tilesWritten` keeps with each tile written the entry of its last write, under which the fingerprint engine reads
it (R130). (DESIGN CHOICE, log entry 8) -/
structure UnitState where
  work : UnitRegs := {}
  base : UnitRegs := {}
  x : Vector U64 8 := Vector.replicate 8 0
  loops : List LoopFrame := []
  progStart : Nat := 0
  progCount : Nat := 0
  pos : Nat := 0
  wait : UnitWait := .none
  asyncs : List AsyncOp := []
  barriers : Nat := 0
  rbarriers : Nat := 0
  rmask : U8 := 0
  clusterOps : Nat := 0
  fpRanges : List (Nat × Nat) := []
  tilesWritten : Tbl ModEntry := []
  written : List WriteRec := []
  syncs : Nat := 0
  deriving DecidableEq, Repr

/-- What a cluster's beat has added to a context's counters; an abort takes it back (R153, R320). (DEDUCED, log entry 54) -/
structure CtxDelta where
  ctx : Fin 4
  saturated : Nat := 0
  samples : Nat := 0
  retry : Nat := 0
  kind : Fin 4 := 0
  indices : Nat := 0
  expand : Nat := 0
  cover : List (Nat × Nat × Nat) := []
  deriving DecidableEq, Repr

/-- The run state of a logical cluster in a beat: whether it runs, whether its beat has aborted, whether it waits for
FAULT_RESUME, and its journal: the old contents of every byte it wrote, newest first (R158), and the XMIT messages of
the beat by connection (R243). -/
structure ClusterRun where
  running : Bool := false
  aborted : Bool := false
  overrun : Bool := false
  waitFault : Bool := false
  entry : Nat := 0
  journal : List (Nat × Byte) := []
  journalPoison : List (Nat × Bool) := []
  journalLines : List Nat := []
  sent : List (Nat × U32) := []
  deltas : List CtxDelta := []
  deriving DecidableEq, Repr

/-- PRT_CLUSTER_MAP of one region (R18, R177). -/
structure ClusterMap where
  log : Vector (BitVec 4) 8 := #v[0, 1, 2, 3, 4, 5, 6, 7]
  spare : BitVec 4 := 8
  retired : BitVec 9 := 0
  rotationStopped : Bool := false
  deriving DecidableEq, Repr

/-- The swap of one region in progress or owed (R172, R173), and what step 6 of the next boundary does to its map (R18):
`copying` the role whose slice is copied, `forRepair` for a repair, `mapDue` once the copy has ended; `lost` the roles whose
cluster has failed or cannot be reached, with whether it still works (R211); `out` the physical offsets without a role that
leave service; `spareNew` the offset that becomes the spare. -/
structure SwapState where
  copying : Option (Fin 8) := none
  forRepair : Bool := false
  mapDue : Bool := false
  owed : Option (Fin 8) := none
  repair : Option (Fin 8) := none
  abandoned : Bool := false
  lost : List (Fin 8) := []
  out : List (Fin 9) := []
  spareNew : Option (Fin 9) := none
  deriving DecidableEq, Repr

/-- TST_REGION (R391). -/
structure TestRegion where
  underTest : BitVec 4 := 0xF
  spareReady : Bool := false
  skipped : Nat := 0
  passes : Nat := 0
  fails : Nat := 0
  lastFail : BitVec 4 := 0xF
  deriving DecidableEq, Repr

/-- One region: its map, its molt table store (R117), its swap and its tests. -/
structure RegionState where
  map : ClusterMap := {}
  store : List U32 := []
  storeFailed : Bool := false
  swap : SwapState := {}
  test : TestRegion := {}
  deriving DecidableEq, Repr

/-- One compute die with its SRAM die. `unusable` covers R396; `zeroing` R275 check 7. -/
structure DieState where
  owner : Option Part := none
  regions : Vector RegionState 4 := Vector.replicate 4 {}
  capacity : U32 := 0xFFFFFFFF
  unusable : Bool := false
  zeroing : Bool := false
  clockStopped : Bool := false
  deriving DecidableEq, Repr

/-- One direction of a UCIe module (R14): the 256-byte flits sent so far, those its replay buffer holds (by number, newest
first, at most 64), and the flit that was replayed last. -/
structure UcieDir where
  sent : Nat := 0
  replayBuffer : List Nat := []
  replayed : Option Nat := none
  deriving DecidableEq, Repr

/-- A UCIe module (R13, R14): trained, retired, redundant lanes left, flit CRC errors, and its two directions.
(PRESUMED, log entry 79) -/
structure UcieState where
  trained : Bool := false
  retired : Bool := false
  spareLanes : Nat := 4
  crcErrors : Nat := 0
  dirs : Vector UcieDir 2 := Vector.replicate 2 {}
  deriving DecidableEq, Repr

end Sys2Proof.Machine
end

