-- ==== Sys2Proof/Machine/StPart.lean ====
section
/-! DEFINITION. A partition: chapters 02 to 13 and 17 as they bear on one partition's PRT block (R350). -/

namespace Sys2Proof.Machine

/-- Partition states (R279, R371). -/
inductive PartPhase where
  | absent | idle | loaded | degraded | fenced | removing
  deriving DecidableEq, Repr

/-- HELD_CAUSE (R371). -/
inductive HeldCause where
  | none | thermal | supply | clock | ide | power | link | busMaster
  deriving DecidableEq, Repr

/-- The kind of a beat for a partition (R157). -/
inductive BeatKind where
  | run | fallow | switch | held
  deriving DecidableEq, Repr

/-- An ingest ring (R364, R372). `freed` lists the freed entry indices at or above CONSUMED. -/
structure Ingest where
  va : U64 := 0
  cfg : U32 := 0
  db : U32 := 0
  enabled : Bool := false
  enableReq : Bool := false
  lastStatus : Status := .ok
  consumed : U32 := 0
  discards : Nat := 0
  lost : Nat := 0
  taken : U32 := 0
  freed : List Nat := []
  deriving DecidableEq, Repr

/-- The agents that wait on a fault entry (R204, R205). -/
inductive FaultAgent where
  | cluster (d : Die) (c : Cluster)
  | placement (conn : Nat)
  | slot (k : Ctx)
  | none
  deriving DecidableEq, Repr

/-- A posted fault entry that the device remembers: outstanding while its agent waits, else until consumed (R207). -/
structure FaultRec where
  id : Nat
  page : Nat
  agent : FaultAgent
  waits : Bool
  index : U32
  deriving DecidableEq, Repr

/-- A latched edit of the mapping window (R202). -/
structure MapEdit where
  ctrl : U32
  va : U64
  entry : U64
  deriving DecidableEq, Repr

/-- Memory and translation of a partition (R198 to R207, R214). Leaves are kept by the page number VA[39:16], LARGE leaves
by VA[39:25]; `badTables` lists the tables (level, number) a walk found malformed; `tableNums` the level 3 tables in the order
of their places, `tablePages` the pages (site, frame) that hold the tables' bytes; `cached` the cached translations, newest
first (R203). -/
structure PartMem where
  ptRoot : U64 := 0
  mapVA : U64 := 0
  mapEntry : U64 := 0
  mapPending : Option MapEdit := none
  mapLast : Status := .ok
  leaves : Tbl U64 := []
  largeLeaves : Tbl U64 := []
  badTables : List (Nat × Nat) := []
  tableNums : List Nat := []
  faultsPosted : Nat := 0
  nextFaultId : Nat := 1
  faults : List FaultRec := []
  heldFaults : List FaultEntry := []
  faultsLost : Nat := 0
  notedPages : List (Nat × Nat) := []
  tablePages : List (Nat × Nat) := []
  dirtyDram : List (Nat × Nat) := []
  xlatMisses : Nat := 0
  cached : List Nat := []
  deriving DecidableEq, Repr

/-- A PART_LOAD whose checks run, or whose image waits for zeroing and MIN_OP (R171). `entropy` is the input of the partition's
instance, taken while the checks run (R318). -/
structure LoadJob where
  cmd : Cmd
  image : Image
  checked : Bool
  entropy : Option Bytes := none
  deriving DecidableEq, Repr

/-- A job of the image (R156, R174): its step counter, its done bits per die, and the overruns of its step (R159). Its saved contexts lie in the slices (R175,
R195). -/
structure JobState where
  step : Nat := 0
  done : Vector U32 8 := Vector.replicate 8 0
  overruns : Nat := 0
  deriving DecidableEq, Repr

/-- Structure state of a partition (R177). -/
structure PartImage where
  image : Option Image := none
  minOp : Nat := 0
  lastStatus : Status := .ok
  failCheck : Nat := 0
  failSection : Nat := 0
  measure : U256 := 0
  load : Option LoadJob := none
  curJob : Fin 4 := 0
  jobs : Vector JobState 4 := Vector.replicate 4 {}
  switching : Bool := false
  switchTo : Option (Fin 4) := none
  switchArmed : Bool := false
  quantumStart : Nat := 0
  overruns : Nat := 0
  stallBeats : Nat := 0
  switches : Nat := 0
  kind : BeatKind := .run
  deriving DecidableEq, Repr

/-- A key of a key-set's directory (R98, R99). -/
structure KeyRec where
  kind : Nat
  levelLo : Nat
  levelHi : Nat
  paramSet : Nat
  galois : Nat
  firstBlock : Nat
  blockCount : Nat
  deriving DecidableEq, Repr

/-- A key-set slot (R110). -/
structure KsSlot where
  id : U64 := 0
  registered : Bool := false
  paramSet : Nat := 0
  blocks : Nat := 0
  fail : Nat := 0
  digest : U256 := 0
  va : U64 := 0
  keys : List KeyRec := []
  deriving DecidableEq, Repr

/-- STATE of a grant (R236). -/
inductive GrantState where
  | free | active | revoking
  deriving DecidableEq, Repr

/-- A grant record (R236); `revokeAt` is the beat from which a revoke holds (R238). -/
structure Grant where
  state : GrantState := .free
  perms : BitVec 2 := 0
  inFlight : Nat := 0
  va : Nat := 0
  length : Nat := 0
  conn : U32 := 0
  gen : Nat := 0
  revokeAt : Nat := 0
  revokeCmd : Option Cmd := none
  activeAt : Nat := 0
  deriving DecidableEq, Repr

/-- A WRITE packet admitted under its grant and not yet placed (R237). -/
structure Placement where
  grant : Nat
  port : RPort
  conn : Nat
  psn : Nat
  msgId : U32
  offset : Nat
  flags : U8
  va : Nat
  data : Bytes
  deriving DecidableEq, Repr

/-- A receive-list entry at positions 4 and up, or a pool entry at 0 to 3 (R239, R241). -/
structure RecvEntry where
  tag : U64
  mask : U64
  va : Nat
  len : Nat
  persistent : Bool
  deriving DecidableEq, Repr

/-- A completed message of the unexpected buffer (R240). -/
structure UnexpMsg where
  conn : Nat
  msgId : U32
  tag : U64
  payload : Bytes
  beat : Nat
  deriving DecidableEq, Repr

/-- A latched edit of the receive window (R241). -/
structure RecvEdit where
  ctrl : U32
  pos : U32
  tag : U64
  mask : U64
  va : U64
  len : U32
  deriving DecidableEq, Repr

/-- The transport state of a partition (R249). -/
structure PartRxt where
  accessKey : U64 := 0
  keyPending : Option U64 := none
  grants : Tbl Grant := []
  inFlight : List Placement := []
  unexp : List UnexpMsg := []
  unexpDrops : Nat := 0
  flushReq : Bool := false
  dropNoted : Nat := 0
  revokedNaks : Nat := 0
  deniedNaks : Nat := 0
  rnrNaks : Nat := 0
  connErrors : Nat := 0
  recvPos : U32 := 0
  recvTag : U64 := 0
  recvMask : U64 := 0
  recvVA : U64 := 0
  recvLen : U32 := 0
  recvPending : Option RecvEdit := none
  recvLast : Status := .ok
  receive : Tbl RecvEntry := []
  poolSlots : Tbl (List Nat) := []
  deriving DecidableEq, Repr

/-- A contribution the ingest sequencer has stamped (R24 stage 4): its context, header fields and the place of its
payload. -/
structure Stamp where
  seq : Nat
  beat : Nat
  ctx : Ctx
  contrib : Nat
  index : Nat
  msgVA : Nat
  length : Nat
  noise : Nat
  source : StampSource
  deriving DecidableEq, Repr

/-- A message committed for accumulation in the coming run beat (R186). -/
structure Committed where
  ctx : Ctx
  contrib : Nat
  index : Nat
  msgVA : Nat
  source : StampSource
  seq : Nat := 0
  deriving DecidableEq, Repr

/-- Twin states (R271). -/
inductive TwinPhase where
  | unbound | binding | bound | alone | replaying | diverged
  deriving DecidableEq, Repr

/-- A contribution the secondary holds until ORDER names it (R259). -/
structure HeldMsg where
  entry : OrderEntry
  ctx : Ctx
  tag : U64
  msgVA : Nat
  source : StampSource
  deriving DecidableEq, Repr

/-- An input-log record (R265): KIND, BEAT, SEQ, AUX and body. (DEDUCED, log entry 124) -/
structure LogRec where
  kind : Nat
  beat : Nat
  seq : Nat
  aux : Nat
  body : Bytes
  deriving DecidableEq, Repr

/-- What a checkpoint holds (R264): its beat, F, the bytes of the mapped pages, save and work areas, and the controller
state of the contexts and jobs. Bytes and poisoned lines are kept by logical cluster or partition page, so that a swap or a
migration between does not matter; `delay` is D where the pair recorded it, `bulk` the fabric messages not yet taken.
(DESIGN CHOICE, log entry 123) -/
structure Checkpoint where
  beat : Nat
  delay : Nat
  fp : U128
  bytes : List (Nat × Byte)
  poison : List Nat
  ctxs : List RoundCtx
  jobs : List JobState
  units : Tbl UnitRegs
  committed : List Committed
  bulk : List (Nat × Nat × Bytes)
  curJob : Fin 4
  measure : U256
  deriving DecidableEq, Repr, Inhabited

/-- Twin, checkpoint, log and replay state (R257 to R271). `releases` holds the release fingerprints of the rounds released,
with which a late partner is answered (R41); `ckptPoint` the boundary at which a checkpoint is due; `slots` the checkpoints
written by CHECKPOINT, by address; `replayLog` the records of a field replay; `mute` the commands of the log whose completions
were posted before; `deferred` the round commands that came while the pair replays; `operand` the operand
bytes a re-enacted command reads; `bindReq` a TWIN_BIND not yet in force; `bulk` fabric messages that a pair takes into effect
D beats after they came (beat, connection, bytes); `seenFabric` the ORDER entries of those the secondary has. -/
structure TwinState where
  phase : TwinPhase := .unbound
  secondary : Bool := false
  actingPrimary : Bool := false
  lastStatus : Status := .ok
  peerMember : Nat := 0
  peerPart : Part := 0
  divergences : Nat := 0
  matched : Nat := 0
  fp : U128 := 0
  ckptBeat : Nat := 0
  ckptSlot : Bool := false
  copyRunning : Bool := false
  skipped : Nat := 0
  logVA : U64 := 0
  logBytes : U64 := 0
  logHead : Nat := 0
  logTail : Nat := 0
  logStopped : Bool := false
  logUsed : Nat := 0
  logOff : Nat := 0
  records : List LogRec := []
  bind : Option BindSpec := none
  bindCmd : Option Cmd := none
  answered : Bool := false
  orderDelay : Nat := 4
  interval : Nat := 4000
  conn : Nat := 0
  ckptVA : U64 := 0
  ckptBytes : U64 := 0
  ckpt : Option Checkpoint := none
  ckptPending : Option Checkpoint := none
  ckptCmd : Option Cmd := none
  ckptDue : Bool := false
  ckptAt : Nat := 0
  peerCkpt : Option Nat := none
  agreedSinceReplay : Bool := true
  ownFps : List (Nat × U128) := []
  peerFps : List (Nat × U128) := []
  lastPeerFp : Nat := 0
  orders : List (Nat × List OrderEntry) := []
  orderDue : List OrderEntry := []
  held : List HeldMsg := []
  replayStatus : Nat := 0
  replayLast : Status := .ok
  replayBeats : Nat := 0
  replayMismatch : Nat := 0
  replayAt : Nat := 0
  replayStop : Nat := 0
  replayCmd : Option Cmd := none
  peerProgress : Option (Nat × U128) := none
  releases : List (Nat × U128) := []
  ckptPoint : Option Nat := none
  slots : Tbl Checkpoint := []
  replayLog : List LogRec := []
  mute : List (U32 × U8) := []
  deferred : List (Nat × Instr) := []
  operand : Option Bytes := none
  bindReq : Option BindSpec := none
  bulk : List (Nat × Nat × Bytes) := []
  seenFabric : List OrderEntry := []
  deriving DecidableEq, Repr

/-- The resources PART_CREATE reserves (R274, R276). -/
structure PartResv where
  dieMask : U8 := 0
  pciePort : PciePort := 0
  requireIde : Bool := false
  memBw : Nat := 0
  pcieBw : Nat := 0
  portBw : Vector Nat 16 := Vector.replicate 16 0
  imageSignerHash : U256 := 0
  nonce : U256 := 0
  deriving DecidableEq, Repr

/-- A partition. `bar2Writes` holds the BAR2 writes received since the last boundary, oldest first, with their EP bit
(R363, R376). -/
structure PartState where
  phase : PartPhase := .absent
  heldCause : HeldCause := .none
  holds : List HeldCause := []
  shownPhase : PartPhase := .absent
  shownCause : HeldCause := .none
  keyGen : Nat := 1
  drained : Vector Bool 4 := Vector.replicate 4 false
  gonePages : Nat := 0
  bar2Base : U64 := 0
  bar2Pending : Option U64 := none
  resv : PartResv := {}
  hif : HifSet := {}
  ingest : Vector Ingest 4 := Vector.replicate 4 {}
  mem : PartMem := {}
  img : PartImage := {}
  ctxs : Vector RoundCtx 4 := Vector.replicate 4 {}
  keysets : Vector KsSlot 16 := Vector.replicate 16 {}
  rxt : PartRxt := {}
  ingestSeq : Nat := 0
  stamps : List Stamp := []
  committed : List Committed := []
  admittedNow : List Nat := []
  twin : TwinState := {}
  peerAllow : Tbl U256 := []
  peerPending : List (Nat × U64) := []
  opMax : Nat := 7
  overBudgetBeats : Nat := 0
  powerHold : Bool := false
  degradeDue : Bool := false
  removeCmd : Option Cmd := none
  drainedAt : Option Nat := none
  removeZeroing : Bool := false
  fetched : List (U32 × U8) := []
  bar2Writes : List (Nat × Bytes × Bool) := []
  deriving DecidableEq, Repr

end Sys2Proof.Machine
end

