-- ==== Sys2Proof/Machine/StHub.lean ====
section
/-! DEFINITION. The hub: management and PCIe (chapter 17), security (14), random numbers (15), clocks and power (16), the
weevil and the sites (10), the event recorder and self-tests (18), pins and the TAP (20). -/

namespace Sys2Proof.Machine

/-- HUB_PCIE_LINK of a port (R347, R369) and whether its reference is present (R344). (DEDUCED, log entry 134) -/
structure PcieLink where
  width : Nat := 0
  rate : Nat := 0
  inL0 : Bool := false
  sris : Bool := false
  ideSecure : Bool := false
  outSince : Nat := 0
  capacity : Nat := 0
  refPresent : Bool := false
  perst : Bool := false
  ideKey : Option U256 := none
  holdLink : Bool := false
  deriving DecidableEq, Repr

/-- SPDM ERROR codes the responder answers with (R305). -/
inductive SpdmError where
  | busy | unspecified | invalidRequest | unexpectedRequest | unsupportedRequest
  deriving DecidableEq, Repr

/-- What the SPDM responder answers (R305 to R307), as the content the manual gives; the DMTF wire encoding is not the
manual's. -/
inductive SpdmResponse where
  | version (major minor : Nat)
  | capabilities (cert chal measSig keyEx encrypt mac : Bool)
  | algorithms (a : SpdmAlgorithms)
  | digests (slot0 : U256)
  | certificate (portion : Bytes) (remainder : Nat)
  | challengeAuth (chain : U256) (nonce : U256) (signature : U512)
  | measurements (blocks : List (Nat × Bytes)) (nonce : U256) (signature : Option U512)
  | keyExchange (session : U16) (exchange : U512) (signature : U512) (verify : U256)
  | finish
  | keyUpdate
  | endSession
  | ideKm (done : Bool)
  | error (code : SpdmError)
  deriving DecidableEq, Repr

/-- An SPDM session (R305): its secret lives in slot 56 or 57. -/
structure SpdmSession where
  id : U16
  established : Bool
  finishKey : U256
  updates : Nat
  deriving DecidableEq, Repr

/-- The DOE mailbox and SPDM responder of a port (R305, R367). -/
structure Doe where
  busy : Bool := true
  error : Bool := false
  response : Option SpdmResponse := none
  version : Bool := false
  capabilities : Bool := false
  algorithms : Bool := false
  session : Option SpdmSession := none
  deriving DecidableEq, Repr

/-- The HUB block and the PCIe ports (R346 to R352, R369). `fnConfig` holds the configuration bits of the nine functions of
each port; `toxel` is whether the management core runs (R393). -/
structure HubState where
  mgrSel : PciePort := 0
  managing : PciePort := 0
  lastClaim : Status := .ok
  lostCpl : Nat := 0
  claimDue : Bool := false
  lowLeakage : Bool := false
  toxel : Bool := false
  links : Vector PcieLink 2 := Vector.replicate 2 {}
  f0 : Vector HifSet 2 := Vector.replicate 2 {}
  fnConfig : Vector (Vector FnConfig 9) 2 := Vector.replicate 2 (Vector.replicate 9 {})
  doe : Vector Doe 2 := Vector.replicate 2 {}
  f0Fetched : Vector (List (U32 × U8)) 2 := Vector.replicate 2 []
  deriving DecidableEq, Repr

/-- REF_STATE (R327). -/
inductive RefState where
  | freeRun | acquiring | locked | holdover
  deriving DecidableEq, Repr

/-- The two PLLs of a compute die (R332, R344). -/
structure PllPair where
  onQ : Bool := false
  oneFailed : Bool := false
  dieFailed : Bool := false
  lost : Bool := false
  deriving DecidableEq, Repr

/-- The CLK block (R344). -/
structure ClkState where
  recover : Bool := false
  forceHoldover : Bool := false
  ref : RefState := .freeRun
  inputValid : Bool := false
  xoFail : Bool := false
  lane : BitVec 3 := 0
  freqOffset : U32 := 0
  holdoverOffset : U32 := 0
  holdoverSince : Nat := 0
  lockLosses : Nat := 0
  plls : Vector PllPair 8 := Vector.replicate 8 {}
  memFailed : Vector Bool 4 := Vector.replicate 4 false
  linkFailed : Vector Bool 4 := Vector.replicate 4 false
  deriving DecidableEq, Repr

/-- PWR_OP of a die (R345) and the AVSBus state behind it (R333, R334). `busyUntil` is when the ramp and the standby's
lock have ended. -/
structure DieOp where
  current : Nat := 0
  target : Nat := 0
  transition : Bool := false
  cap : Option Nat := none
  avsFails : Nat := 0
  millivolt : Nat := 500
  raiseDue : Bool := false
  busyUntil : Nat := 0
  deriving DecidableEq, Repr

/-- PWR_TJ of a die (R340). (DEDUCED, log entry 66) -/
structure TjReading where
  tj : Int := 0
  valid : Nat := 0
  deriving DecidableEq, Repr

/-- The power states of R338. -/
inductive PowerState where
  | p0 | p1 | p2 | p3 | p4
  deriving DecidableEq, Repr

/-- The PWR block (R345). Temperatures are in units of 0.25 °C, powers in units of 0.25 W. (DESIGN CHOICE, log entry 68) -/
structure PwrState where
  state : PowerState := .p0
  stateReq : Nat := 0
  exiting : Bool := false
  wakeSeen : Bool := false
  package : Nat := 0
  tSoft : Nat := 20
  ballast : Nat := 25
  softRefused : Bool := false
  ops : Vector DieOp 8 := Vector.replicate 8 {}
  partDraw : Vector Nat 8 := Vector.replicate 8 0
  tj : Vector TjReading 17 := Vector.replicate 17 {}
  coolantT : Int := 0
  coolantStale : Bool := false
  coolantFails : Nat := 0
  coolantI3c : U32 := 0x48
  flow : Nat := 255
  flowMin : Nat := 51
  thermTarget : Nat := 340
  model0 : U32 := 0x07D00028
  model1 : U32 := 0x04B0001B
  horizon : Nat := 60
  emThermal : Bool := false
  emSupply : Bool := false
  emClock : Bool := false
  emDie : BitVec 4 := 0
  throttleBeats : Nat := 0
  theta2 : Int := 0
  fallCredit : Nat := 0
  packSum : Nat := 0
  packCount : Nat := 0
  meterScale : Vector Nat 8 := Vector.replicate 8 1024
  lastDieDraw : Vector Nat 8 := Vector.replicate 8 0
  railsBad : List (Fin 11) := []
  vrAlert : Bool := false
  deriving DecidableEq, Repr

/-- RNG_STATUS.STATE (R315). -/
inductive RngPhase where
  | startup | healthy | alarm | failed
  deriving DecidableEq, Repr

/-- Progress of R316: settling, waiting for the start-up window, then for the two seed windows, then done. -/
inductive RngStart where
  | settling | window | seed (got : List U256) | done
  deriving DecidableEq, Repr

/-- RNG_INST_STATE and the state of a source-seeded CTR_DRBG instance (R318, R325). -/
structure DrbgInst where
  phase : BitVec 2 := 0
  key : U256 := 0
  v : U128 := 0
  deriving DecidableEq, Repr

/-- What waits for pool outputs (R319, R322): internal consumers, and after them the host requests of R317 with what each has
yet to do once it is served. -/
inductive DrbgUse where
  | noise (p : Part) (k : Ctx)
  | handshake (q : RPort) (s : SubPort)
  | instantiate
  | create (c : Cmd) (p : Part) (r : PartResv)
  | load (p : Part)
  | connection (n : Nat)
  | enroll (hashes : Option Bytes) (burnOk : Bool)
  | keyExchange (q : PciePort) (session : U16) (exchange : U512)
  deriving DecidableEq, Repr

/-- A Generate waiting for pool outputs: its instance (0 hub, 1 to 4 links, 5 to 12 partitions) and its use. -/
structure DrbgWait where
  inst : Fin 13
  use : DrbgUse
  deriving DecidableEq, Repr

/-- The RNG block (R325) and the source behind it (R312 to R316). `cellRun` counts consecutive failing windows per cell
(R314); `alarmRun` the passing windows in ALARM. -/
structure RngState where
  phase : RngPhase := .startup
  ready : Bool := false
  lastFail : Nat := 0
  lastCell : Nat := 0
  cellMask : U32 := 0
  readyTime : Nat := 0
  windows : Nat := 0
  healthyRun : Nat := 0
  alarms : Nat := 0
  failRct : Nat := 0
  failApt : Nat := 0
  failLive : Nat := 0
  failLock : Nat := 0
  waiting : List DrbgWait := []
  insts : Vector DrbgInst 13 := Vector.replicate 13 {}
  reseeds : Nat := 0
  rawRead : Bool := false
  inject : Bool := false
  testLast : Status := .ok
  injected : List U64 := []
  rawTaken : Nat := 0
  pool : List U256 := []
  cellRun : Vector Nat 32 := Vector.replicate 32 0
  start : RngStart := .settling
  deriving DecidableEq, Repr

/-- A key slot record (R292). `tagOk` is whether TAG verifies. (DESIGN CHOICE, log entry 70) -/
structure KeySlot where
  value : U256 := 0
  extra : U256 := 0
  masters : U16 := 0
  world : Bool := false
  lcAllowed : BitVec 5 := 0
  usage : BitVec 5 := 0
  valid : Bool := false
  parent : U8 := 0xFF
  gen : Nat := 0
  parentGen : Nat := 0
  tagOk : Bool := true
  deriving DecidableEq, Repr

/-- Life-cycle states (R301). -/
inductive LifeCycle where
  | blank | factory | enrolled | deployed | returned
  deriving DecidableEq, Repr

/-- KEY_BOOT.STAGE (R309). -/
inductive BootStage where
  | off | fuses | root | image | keys | running | recovery | recovered
  deriving DecidableEq, Repr

/-- The alias certificate's fields (R306). -/
structure AliasCert where
  serial : U128
  publicKey : U512
  fwMeasure : U256
  identityGen : Nat
  lifeCycle : LifeCycle
  dbg : Nat
  signature : U512
  deriving DecidableEq, Repr

/-- The fuses (R287, R299, R301), among them the bin (R2), the factory MAC of every sub-port (R247) and the repair resources
each site has left in each bank group (R212, R215). (DESIGN CHOICE, log entry 5; PRESUMED, log entry 71) -/
structure Fuses where
  readable : Bool := true
  lifeCycle : LifeCycle := .blank
  identityGen : Nat := 0
  uniqueId : U64 := 0
  ownerHash : U256 := 0
  fwSigner0 : U256 := 0
  fwSigner1 : U256 := 0
  debugHash : U256 := 0
  svn : Nat := 0
  lowLeakage : Bool := false
  portMac : Vector (Vector (BitVec 48) 2) 8 := Vector.replicate 8 (Vector.replicate 2 0)
  ppr : Vector (List Nat) 8 := Vector.replicate 8 []
  deriving DecidableEq, Repr

/-- The VBAT domain (R288, R289, R308): root record, boot count, pending unlock, ledger, calendar, tamper causes. -/
structure VbatState where
  root : Option U256 := none
  bootCount : Nat := 0
  pendingUnlock : Bool := false
  ledger : List LedgerEntry := []
  calTime : Nat := 0
  calSet : Bool := false
  calPhase : Nat := 0
  oscFail : Bool := false
  tamper : BitVec 5 := 0
  deriving DecidableEq, Repr

/-- The enclave and the KEY block (R287 to R309). -/
structure KeyState where
  fuses : Fuses := {}
  vbat : VbatState := {}
  slots : Vector KeySlot 64 := Vector.replicate 64 {}
  slotCorrupt : U64 := 0
  dbg : Nat := 0
  scanOpen : Bool := false
  stage : BootStage := .off
  bootStatus : Status := .ok
  fwMeasure : U256 := 0
  runningSvn : Nat := 0
  requestCount : Nat := 0
  spdmCount : Nat := 0
  mbxState : BitVec 2 := 0
  mbxStatus : Status := .ok
  mbxLen : Nat := 0
  mbxData : Tbl Byte := []
  staged : Tbl Byte := []
  aliasCert : Option AliasCert := none
  tagKey : U256 := 0
  deriving DecidableEq, Repr

/-- The areas of the SPI NOR other than the recorder's (R298, R306, R394, R412). (DESIGN CHOICE, log entry 5) -/
structure SpiState where
  firmware : Bytes := []
  certs : Bytes := []
  repairs : List (Nat × Nat) := []
  deriving DecidableEq, Repr

/-- TYPE of a recorder record (R380). -/
inductive RecType where
  | event | boot | sector | hours | dropped | test
  deriving DecidableEq, Repr

/-- A recorder record (R380): sequence number, flash offset, COMPAT, the stamp word and the body after it. -/
structure Record where
  typ : RecType
  severity : Severity
  compat : Bool
  queue : Nat
  seq : Nat
  addr : Nat
  stamp : U64
  body : Bytes
  deriving DecidableEq, Repr

/-- A record waiting in the buffer (R381); its sequence number and stamp are fixed when it is programmed. -/
structure BufRec where
  typ : RecType
  severity : Severity
  queue : Nat
  body : Bytes
  deriving DecidableEq, Repr

/-- The cursor and window of one port (R383, R390). -/
structure EvrPort where
  cursor : Nat := 0
  latchedSeq : Nat := 0
  window : List U64 := []
  deriving DecidableEq, Repr

/-- The event recorder (R379 to R384, R390). -/
structure EvrState where
  compat : Bool := false
  scanDone : Bool := false
  flashFail : Bool := false
  dropped : Nat := 0
  droppedDue : Nat := 0
  ports : Vector EvrPort 2 := Vector.replicate 2 {}
  hours : Nat := 0
  hourMark : Nat := 0
  hourPhase : Nat := 0
  powerCycles : Nat := 0
  buffer : List BufRec := []
  kept : List Record := []
  circ : List Record := []
  head : Nat := 0
  keptEnd : Nat := 0x01000000
  keptFull : Bool := false
  circAt : Nat := 0x01200000
  badSectors : List Nat := []
  interrupted : Option BufRec := none
  deriving DecidableEq, Repr

/-- A running TEST_RUN (R388). -/
structure TestRun where
  cmd : Cmd
  test : Nat
  die : Nat
  target : Nat
  arg : Nat
  deriving DecidableEq, Repr

/-- The TST block (R391). -/
structure TstState where
  running : Option TestRun := none
  last : Nat := 0
  lastStatus : Status := .ok
  lastResult : U64 := 0
  deriving DecidableEq, Repr

/-- An LPDDR5X site (R197, R212, R215); `ppr` holds the repair resources left, bank group by bank group.
(DESIGN CHOICE, log entry 5) -/
structure SiteState where
  trained : Bool := false
  selfRefresh : Bool := false
  failed : Bool := false
  zeroing : Bool := false
  unusable : Bool := false
  retired : List Nat := []
  retiring : List Nat := []
  pending : List Nat := []
  ppr : List Nat := []
  patrol : Nat := 0
  zqFails : Nat := 0
  rowCe : Tbl Nat := []
  deriving DecidableEq, Repr

/-- The memory: bytes by key (Machine/Ops gives each space its keys), poison marks by line (R196, R197), stored
uncorrectable lines, lines with a correctable error, the rows of the site lines in error, the lines in error that reads have
met since the last boundary, and the MEM block (R215).
(DESIGN CHOICE, log entry 31; DEDUCED, log entry 133) -/
structure MemState where
  cells : List Host.Cell := []
  poison : List Nat := []
  bad : List Nat := []
  soft : List Nat := []
  rowOf : Tbl Nat := []
  met : List Nat := []
  weevilCtrl : BitVec 2 := 3
  sramPeriod : Nat := 600
  dramPeriod : Nat := 86400
  sramPeriodNext : Nat := 600
  dramPeriodNext : Nat := 86400
  sramCeLimit : Nat := 64
  dramRowCeLimit : Nat := 4
  sramCeTotal : Nat := 0
  sramUeTotal : Nat := 0
  dramUeTotal : Nat := 0
  dramCeTotal : Nat := 0
  sites : Vector SiteState 8 := Vector.replicate 8 {}
  sliceCe : Tbl Nat := []
  deriving DecidableEq, Repr

/-- Pins and the TAP (R404, R405, R413, R414). -/
structure PinState where
  resetN : Bool := false
  testMode : Bool := false
  thermtrip : Bool := false
  tapData : List Bool := []
  tapInstr : TapInstr := .idcode
  bsrOut : List Bool := []
  mainPower : Bool := true
  roleRefused : Nat := 0
  deriving DecidableEq, Repr

end Sys2Proof.Machine
end

