-- ==== Sys2Proof/Machine/State.lean ====
section
/-! DEFINITION. The state of the block, the reasons a step can stop, and the state after reset (R10, R392, R393). -/

namespace Sys2Proof.Machine

/-- The machine. `pending` is the queue of commands, first in first out; `tx` the frames sent, newest first; `draws` is the
model's own counter of free values, and nothing rests on its value. `answer` is what the last register or BAR2 read
returned. -/
structure State where
  hub : HubState := {}
  clk : ClkState := {}
  pwr : PwrState := {}
  rng : RngState := {}
  key : KeyState := {}
  spi : SpiState := {}
  evr : EvrState := {}
  tst : TstState := {}
  sys : SysState := {}
  rxt : RxtState := {}
  ports : Vector PortState 8 := Vector.replicate 8 {}
  mem : MemState := {}
  pins : PinState := {}
  ucie : Vector UcieState 56 := Vector.replicate 56 {}
  dies : Vector DieState 8 := Vector.replicate 8 {}
  parts : Vector PartState 8 := Vector.replicate 8 {}
  units : Tbl UnitState := []
  clusters : Tbl ClusterRun := []
  tx : List TxFrame := []
  answer : Bytes := []
  answerPoison : Bool := false
  draws : Nat := 0
  pending : List Instr := []
  deriving DecidableEq, Repr

/-- Why a step stops with a fault. (DEDUCED, log entry 7) -/
inductive Fault where
  /-- A beat instruction whose word check 8 of R170 refuses (R182: at run time every word is valid). Raised by the beat
  instructions through `issue` and `clusterOp`. Safe: the machine stops where the hardware never runs. -/
  | invalidWord
  deriving DecidableEq, Repr

/-- Why a step has no meaning. -/
inductive Refusal where
  /-- The command has no meaning in this model yet; raised in Machine/Dispatch only. Safe. -/
  | notModelled (mnemonic : String)
  deriving DecidableEq, Repr

/-- The machine right after reset: every register at the reset value of its chapter; the values the manual gives none for
are in the assumption log. (DESIGN CHOICE, log entry 3) -/
def State.reset : State := {}

end Sys2Proof.Machine
end

