-- ==== Sys2Proof/Machine/Flags.lean ====
section
/-! DEFINITION. The numbers of status codes, severities and classes (R373, R377, R378, R420), the encodings of ring entries
(R356, R205) and of the status registers, and saturating counters. -/

namespace Sys2Proof.Machine

/-- The code of a status (R373). -/
def Status.code : Status → Nat
  | .ok => 0x00 | .notReady => 0x01 | .busy => 0x02 | .invalidCommand => 0x03 | .invalidState => 0x04
  | .policyRefused => 0x05 | .capacity => 0x06 | .signatureInvalid => 0x07
  | .keyMismatch => 0x10 | .keyStreamFault => 0x11 | .levelMismatch => 0x12 | .noiseExhausted => 0x13
  | .poisonedInput => 0x14 | .proofRejected => 0x15 | .duplicateContributor => 0x16
  | .accessRevoked => 0x20 | .accessDenied => 0x21 | .partitionGone => 0x22 | .flushed => 0x23 | .remoteNak => 0x24
  | .entropyNotReady => 0x30 | .entropyFail => 0x31
  | .keySlotCorrupt => 0x38 | .keyOrphaned => 0x39 | .keyAttributeDenied => 0x3A
  | .beatOverrun => 0x40 | .pageFault => 0x41 | .uncorrectableMemory => 0x42 | .degraded => 0x43
  | .fenced => 0x50 | .twinDiverged => 0x51 | .twinAbsent => 0x52
  | .tampered => 0x60 | .lifecycleDenied => 0x61

/-- The status a code names, if it is in the table of R373. -/
def Status.ofCode (n : Nat) : Option Status :=
  [Status.ok, .notReady, .busy, .invalidCommand, .invalidState, .policyRefused, .capacity, .signatureInvalid, .keyMismatch,
    .keyStreamFault, .levelMismatch, .noiseExhausted, .poisonedInput, .proofRejected, .duplicateContributor, .accessRevoked,
    .accessDenied, .partitionGone, .flushed, .remoteNak, .entropyNotReady, .entropyFail, .keySlotCorrupt, .keyOrphaned,
    .keyAttributeDenied, .beatOverrun, .pageFault, .uncorrectableMemory, .degraded, .fenced, .twinDiverged, .twinAbsent,
    .tampered, .lifecycleDenied].find? (fun s => s.code == n)

/-- SEVERITY (R377). -/
def Severity.code : Severity → Nat
  | .info => 0 | .notice => 1 | .warning => 2 | .error => 3 | .critical => 4

/-- CLASS (R378). -/
def EventClass.code : EventClass → Nat
  | .overflow => 0x00 | .round => 0x01 | .partition => 0x02 | .memory => 0x03 | .port => 0x04 | .connection => 0x05
  | .receive => 0x06 | .receiveLen => 0x07 | .twin => 0x08 | .clockPower => 0x09 | .security => 0x0A | .rng => 0x0B
  | .test => 0x0C

/-- DETAIL with a KIND in bits [63:56] (chapter 18, "Events"). -/
def detail (kind value : Nat) : U64 := BitVec.ofNat 64 (kind <<< 56 ||| value % 2 ^ 56)

/-- STATE values of a round context (R35). -/
def RoundPhase.code : RoundPhase → Nat
  | .free => 0 | .opened => 1 | .closing => 2 | .closed => 3 | .finalizing => 4 | .released => 5 | .held => 6 | .fenced => 7

/-- HOLD_CAUSE values (R45). -/
def HoldCause.code : HoldCause → Nat
  | .none => 0 | .recovery => 1 | .cohort => 2 | .poison => 3 | .entropy => 4 | .twinAbsent => 5 | .diverged => 6
  | .degraded => 7 | .ledger => 8

/-- The STATUS of a hold-entry event (R420). -/
def HoldCause.status : HoldCause → Status
  | .none => .ok | .recovery => .poisonedInput | .poison => .poisonedInput | .cohort => .policyRefused
  | .ledger => .policyRefused | .entropy => .entropyFail | .twinAbsent => .twinAbsent | .diverged => .twinDiverged
  | .degraded => .degraded

/-- STATE values of PRT_STATE (R371). -/
def PartPhase.code : PartPhase → Nat
  | .absent => 0 | .idle => 1 | .loaded => 2 | .degraded => 3 | .fenced => 4 | .removing => 5

/-- HELD_CAUSE values of PRT_STATE (R371). -/
def HeldCause.code : HeldCause → Nat
  | .none => 0 | .thermal => 1 | .supply => 2 | .clock => 3 | .ide => 4 | .power => 5 | .link => 6 | .busMaster => 7

/-- One more, saturating at 2^32 − 1. (DEDUCED, log entry 129) -/
def sat32 (n : Nat) : Nat := min (n + 1) 0xFFFFFFFF

/-- One more, saturating at 2^16 − 1. (DEDUCED, log entry 129) -/
def sat16 (n : Nat) : Nat := min (n + 1) 0xFFFF

/-- A saturating 64-bit counter. -/
def sat64 (n : Nat) : Nat := min (n + 1) (2 ^ 64 - 1)

/-- Forward distance between free-running 32-bit indices (R355). -/
def fwd (x y : U32) : Nat := (y - x).toNat

/-! ### Bytes -/

/-- The number a little-endian byte string spells. -/
def leNat : Bytes → Nat
  | [] => 0
  | b :: t => b.toNat + 256 * leNat t

/-- The low `w` bytes of a number, little-endian. (DEDUCED, log entry 94) -/
def leBytes : Nat → Nat → Bytes
  | 0, _ => []
  | w + 1, n => BitVec.ofNat 8 n :: leBytes w (n / 256)

/-- The number a big-endian byte string spells. -/
def beNat (b : Bytes) : Nat := leNat b.reverse

/-- The low `w` bytes of a number, big-endian. -/
def beBytes (w n : Nat) : Bytes := (leBytes w n).reverse

/-- Field of `len` bytes at offset `off`, as a little-endian number; missing bytes read zero. -/
def fieldLE (b : Bytes) (off len : Nat) : Nat := leNat ((b.drop off).take len)

/-- Field of `len` bytes at offset `off`, as bytes. -/
def fieldB (b : Bytes) (off len : Nat) : Bytes := (b.drop off).take len

/-- All bytes from `off`, `len` of them, are zero. -/
def zerosAt (b : Bytes) (off len : Nat) : Bool := (fieldB b off len).all (· == 0)

def zeroBytes (n : Nat) : Bytes := List.replicate n 0

/-! ### Ring entries -/

/-- A completion entry (R356). -/
def Completion.bytes (c : Completion) : Bytes :=
  leBytes 4 c.tag.toNat ++ leBytes 1 c.status.code ++ leBytes 1 c.opcode.toNat ++ leBytes 2 c.aux.toNat
    ++ leBytes 8 c.result.toNat

/-- An event entry (R356). -/
def Event.bytes (e : Event) : Bytes :=
  leBytes 8 e.seq ++ leBytes 8 e.beat ++ leBytes 1 e.cls.code ++ leBytes 1 e.status.code ++ leBytes 1 e.severity.code
    ++ [0] ++ leBytes 4 e.source.toNat ++ leBytes 8 e.detail.toNat

/-- A fault entry (R205). -/
def FaultEntry.bytes (f : FaultEntry) : Bytes :=
  leBytes 8 f.va.toNat ++ leBytes 8 f.beat ++ leBytes 4 f.id ++ leBytes 1 f.agent.toNat ++ leBytes 1 f.access.toNat
    ++ leBytes 1 f.cause.code ++ [if f.resumeNeeded then 1 else 0] ++ leBytes 4 f.source.toNat ++ leBytes 4 0

/-- The index page (R353). -/
def indexPage (cmd cpl ev flt : U32) (beat : Nat) : Bytes :=
  leBytes 4 cmd.toNat ++ leBytes 4 cpl.toNat ++ leBytes 4 ev.toNat ++ leBytes 4 flt.toNat ++ leBytes 8 beat ++ zeroBytes 40

end Sys2Proof.Machine
end

