-- ==== Sys2Proof/Machine/Ops.lean ====
section
/-! DEFINITION. The named operations every meaning is written over: sparse tables, the parts of State, memory bytes with
their poison marks, completions (R356, R358), events (R357, R377, R378) with the recorder's buffer (R381), and the random
draws. -/

namespace Sys2Proof.Machine

abbrev Out := Host.Outcome State Fault Refusal

/-! ### Sparse tables and vectors -/

/-- The entry of key `k`. -/
def tfind {α : Type} : Tbl α → Nat → Option α
  | [], _ => none
  | (j, v) :: t, k => if j = k then some v else tfind t k

/-- The entry of key `k`, `d` where there is none. -/
def tget {α : Type} (t : Tbl α) (k : Nat) (d : α) : α := (tfind t k).getD d

/-- Set the entry of key `k`, keeping the keys rising. -/
def tput {α : Type} : Tbl α → Nat → α → Tbl α
  | [], k, x => [(k, x)]
  | (j, v) :: t, k, x => if j = k then (k, x) :: t else if k < j then (k, x) :: (j, v) :: t else (j, v) :: tput t k x

/-- Remove key `k`. -/
def tdel {α : Type} : Tbl α → Nat → Tbl α
  | [], _ => []
  | (j, v) :: t, k => if j = k then t else (j, v) :: tdel t k

/-- Change the entry of key `k`, starting from `d` where there is none. -/
def tupd {α : Type} (t : Tbl α) (k : Nat) (d : α) (f : α → α) : Tbl α := tput t k (f (tget t k d))

/-- The rising keys of the table. -/
def tkeys {α : Type} (t : Tbl α) : List Nat := t.map Prod.fst

/-- Set element `i` of a vector. -/
def vput {α : Type} {n : Nat} (v : Vector α n) (i : Fin n) (x : α) : Vector α n := v.set i.val x i.isLt

/-- Change element `i` of a vector. -/
def vupd {α : Type} {n : Nat} (v : Vector α n) (i : Fin n) (f : α → α) : Vector α n := vput v i (f (v[i]))

/-- Change every element of a vector by its index. -/
def vall {α : Type} {n : Nat} (v : Vector α n) (f : Fin n → α → α) : Vector α n := Vector.ofFn fun i => f i v[i]

/-- A set of numbers as a rising list. -/
def insertSet : List Nat → Nat → List Nat
  | [], k => [k]
  | j :: t, k => if j = k then j :: t else if k < j then k :: j :: t else j :: insertSet t k

/-! ### Parts of the state -/

namespace State

def part (s : State) (p : Part) : PartState := s.parts[p]
def onPart (p : Part) (f : PartState → PartState) (s : State) : State := { s with parts := vupd s.parts p f }
def ctx (s : State) (p : Part) (k : Ctx) : RoundCtx := (s.part p).ctxs[k]
def onCtx (p : Part) (k : Ctx) (f : RoundCtx → RoundCtx) (s : State) : State :=
  s.onPart p fun x => { x with ctxs := vupd x.ctxs k f }
def onMem (p : Part) (f : PartMem → PartMem) (s : State) : State := s.onPart p fun x => { x with mem := f x.mem }
def onImg (p : Part) (f : PartImage → PartImage) (s : State) : State := s.onPart p fun x => { x with img := f x.img }
def onTwin (p : Part) (f : TwinState → TwinState) (s : State) : State := s.onPart p fun x => { x with twin := f x.twin }
def onRx (p : Part) (f : PartRxt → PartRxt) (s : State) : State := s.onPart p fun x => { x with rxt := f x.rxt }
def onDie (d : Die) (f : DieState → DieState) (s : State) : State := { s with dies := vupd s.dies d f }
def onRegion (d : Die) (r : Region) (f : RegionState → RegionState) (s : State) : State :=
  s.onDie d fun x => { x with regions := vupd x.regions r f }
def onHub (f : HubState → HubState) (s : State) : State := { s with hub := f s.hub }
def onClk (f : ClkState → ClkState) (s : State) : State := { s with clk := f s.clk }
def onPwr (f : PwrState → PwrState) (s : State) : State := { s with pwr := f s.pwr }
def onRng (f : RngState → RngState) (s : State) : State := { s with rng := f s.rng }
def onKey (f : KeyState → KeyState) (s : State) : State := { s with key := f s.key }
def onEvr (f : EvrState → EvrState) (s : State) : State := { s with evr := f s.evr }
def onSys (f : SysState → SysState) (s : State) : State := { s with sys := f s.sys }
def onRxt (f : RxtState → RxtState) (s : State) : State := { s with rxt := f s.rxt }
def onStore (f : MemState → MemState) (s : State) : State := { s with mem := f s.mem }
def onPins (f : PinState → PinState) (s : State) : State := { s with pins := f s.pins }
def onPort (q : RPort) (f : PortState → PortState) (s : State) : State := { s with ports := vupd s.ports q f }
def onSub (q : RPort) (b : SubPort) (f : SubState → SubState) (s : State) : State :=
  s.onPort q fun x => { x with subs := vupd x.subs b f }
def sub (s : State) (q : RPort) (b : SubPort) : SubState := (s.ports[q]).subs[b]

/-- The key of a logical cluster, and of a unit of it, in `clusters` and `units`. -/
def clusterKey (d : Die) (c : Cluster) : Nat := d.val * 32 + c.val
def unitKey (d : Die) (c : Cluster) (u : UnitIx) : Nat := (d.val * 32 + c.val) * 8 + u.val
def cluster (s : State) (d : Die) (c : Cluster) : ClusterRun := tget s.clusters (clusterKey d c) {}
def onCluster (d : Die) (c : Cluster) (f : ClusterRun → ClusterRun) (s : State) : State :=
  { s with clusters := tupd s.clusters (clusterKey d c) {} f }
def unit (s : State) (d : Die) (c : Cluster) (u : UnitIx) : UnitState := tget s.units (unitKey d c u) {}
def onUnit (d : Die) (c : Cluster) (u : UnitIx) (f : UnitState → UnitState) (s : State) : State :=
  { s with units := tupd s.units (unitKey d c u) {} f }

/-- The host-interface set of a function (R370). -/
def hif (s : State) : Fn → HifSet
  | .f0 q => s.hub.f0[q]
  | .part p => (s.part p).hif
def onHif (fn : Fn) (f : HifSet → HifSet) (s : State) : State :=
  match fn with
  | .f0 q => s.onHub fun h => { h with f0 := vupd h.f0 q f }
  | .part p => s.onPart p fun x => { x with hif := f x.hif }

/-- Commands fetched and not completed, in fetch order. -/
def fetchedOf (s : State) : Fn → List (U32 × U8)
  | .f0 q => s.hub.f0Fetched[q]
  | .part p => (s.part p).fetched
def onFetched (fn : Fn) (f : List (U32 × U8) → List (U32 × U8)) (s : State) : State :=
  match fn with
  | .f0 q => s.onHub fun h => { h with f0Fetched := vupd h.f0Fetched q f }
  | .part p => s.onPart p fun x => { x with fetched := f x.fetched }

/-- Function 0 of the managing port (R352). -/
def f0 (s : State) : Fn := .f0 s.hub.managing

/-- The PCIe port a function is on. -/
def portOf (s : State) : Fn → PciePort
  | .f0 q => q
  | .part p => (s.part p).resv.pciePort

/-- The configuration bits of a function on its port (R346). -/
def configOf (s : State) : Fn → FnConfig
  | .f0 q => (s.hub.fnConfig[q])[(0 : Fin 9)]
  | .part p => (s.hub.fnConfig[(s.part p).resv.pciePort])[p.succ]

/-- The dies of a partition, ascending, and its lead die (R19). -/
def diesOf (s : State) (p : Part) : List Die := (List.finRange 8).filter fun d => (s.part p).resv.dieMask.getLsbD d.val
def leadDie (s : State) (p : Part) : Option Die := (s.diesOf p).head?

/-- Change every connection. -/
def onConns (f : Nat → Conn → Conn) (s : State) : State :=
  s.onRxt fun r => { r with conns := r.conns.map fun kc => (kc.1, f kc.1 kc.2) }
def conn (s : State) (n : Nat) : Conn := tget s.rxt.conns n {}
def onConn (n : Nat) (f : Conn → Conn) (s : State) : State := s.onRxt fun r => { r with conns := tupd r.conns n {} f }

end State

/-- Fold a state change over a list. (DESIGN CHOICE, log entry 36) -/
def forAll {α : Type} (l : List α) (f : α → State → State) (s : State) : State := l.foldl (fun t a => f a t) s

/-- Apply a change only when the condition holds. -/
def when (b : Bool) (f : State → State) (s : State) : State := if b then f s else s

/-! ### Memory

Keys of `mem.cells`: slice bytes, then the sites, then the release staging areas, then the host memory behind the two ports. -/

/-- Key of a byte of the slice of physical cluster `phys` of die `d`. -/
def sramKey (d phys off : Nat) : Nat := (d * 36 + phys) * 2 ^ 25 + off
/-- Key of a byte of LPDDR5X site `n`. -/
def dramKey (site off : Nat) : Nat := (site + 1) * 2 ^ 40 + off
/-- Key of a byte of host memory behind port `q`. -/
def hostKey (q pa : Nat) : Nat := (q + 1) * 2 ^ 64 + pa
/-- Key of a byte of the release staging area of context `k` of partition `p`; the area is in no address space (R27). -/
def stageKey (p k off : Nat) : Nat := 2 ^ 50 + (p * 4 + k) * 2 ^ 40 + off
/-- The 64-byte line of a key. -/
def lineOf (key : Nat) : Nat := key / 64

/-- The byte a key holds; what nothing has written reads zero. -/
def cellGet : List Host.Cell → Nat → Byte
  | [], _ => 0
  | (j, b) :: t, k => if j = k then b else cellGet t k

/-- Write one byte; writing zero removes the entry, so that equal memories are equal lists. -/
def cellPut : List Host.Cell → Nat → Byte → List Host.Cell
  | [], k, x => if x = 0 then [] else [(k, x)]
  | (j, b) :: t, k, x =>
    if j = k then (if x = 0 then t else (k, x) :: t)
    else if k < j then (if x = 0 then (j, b) :: t else (k, x) :: (j, b) :: t)
    else (j, b) :: cellPut t k x

/-- The canonical form: keys strictly rising, no zero byte listed. -/
def cellsWf : List Host.Cell → Bool
  | [] => true
  | [c] => c.2 != 0
  | c :: d :: t => c.2 != 0 && decide (c.1 < d.1) && cellsWf (d :: t)

/-- The state's memory has the canonical form. (DESIGN CHOICE, log entry 4) -/
def Memory.wf (m : MemState) : Bool := cellsWf m.cells

/-- Write bytes from a key upward. -/
def cellsPut : List Host.Cell → Nat → Bytes → List Host.Cell
  | m, _, [] => m
  | m, k, b :: t => cellsPut (cellPut m k b) (k + 1) t

/-- `len` bytes from a key upward. -/
def cellsGet (m : List Host.Cell) : Nat → Nat → Bytes
  | _, 0 => []
  | k, n + 1 => cellGet m k :: cellsGet m (k + 1) n

/-- Replace a whole range of bytes at once; the listed cells below and above it stay. -/
def cellsFill (m : List Host.Cell) (k : Nat) (b : Bytes) : List Host.Cell :=
  m.filter (fun c => decide (c.1 < k))
    ++ (b.zipIdx.filterMap fun (x, i) => if x = 0 then none else some (k + i, x))
    ++ m.filter (fun c => decide (k + b.length ≤ c.1))

/-- The lines that `len` bytes from `key` touch. -/
def linesOf (key len : Nat) : List Nat :=
  if len = 0 then [] else (List.range (lineOf (key + len - 1) - lineOf key + 1)).map (· + lineOf key)

/-- Poison after a write of `len` bytes at `key` (R375): data written with poison marks every line touched, clean data
clears the lines it covers whole. -/
def poisonAfter (old : List Nat) (key len : Nat) (poison : Bool) : List Nat :=
  (linesOf key len).foldl
    (fun l n => if poison then insertSet l n
      else if key ≤ n * 64 ∧ n * 64 + 64 ≤ key + len then l.filter (· != n) else l) old

/-- Lines stored uncorrectable after a write: a line written whole is good again. -/
def badAfter (old : List Nat) (key len : Nat) : List Nat :=
  old.filter fun n => !decide (key ≤ n * 64 ∧ n * 64 + 64 ≤ key + len)

namespace State

def byteAt (s : State) (key : Nat) : Byte := cellGet s.mem.cells key
def bytesAt (s : State) (key len : Nat) : Bytes := cellsGet s.mem.cells key len

/-- Store bytes with or without the poison mark. Host memory has no marks: poisoned data go there as zeros (R376). -/
def store (key : Nat) (b : Bytes) (poison : Bool) (s : State) : State :=
  s.onStore fun m =>
    if 2 ^ 64 ≤ key then { m with cells := cellsPut m.cells key (if poison then zeroBytes b.length else b) }
    else { m with cells := cellsPut m.cells key b, poison := poisonAfter m.poison key b.length poison,
                  bad := badAfter m.bad key b.length, soft := badAfter m.soft key b.length }

/-- Write a range of whole lines of clean data at once. -/
def fill (key : Nat) (b : Bytes) (s : State) : State :=
  s.onStore fun m =>
    { m with cells := cellsFill m.cells key b,
             poison := m.poison.filter fun n => !decide (key ≤ n * 64 ∧ n * 64 + 64 ≤ key + b.length),
             bad := badAfter m.bad key b.length, soft := badAfter m.soft key b.length }

/-- Zero `len` bytes: the listed bytes of the range are dropped, and its whole lines are clean (R44, R171, R285). -/
def zeroRange (key len : Nat) (s : State) : State :=
  s.onStore fun m =>
    { m with cells := m.cells.filter fun c => !decide (key ≤ c.1 ∧ c.1 < key + len),
             poison := m.poison.filter fun n => !decide (key ≤ n * 64 ∧ n * 64 + 64 ≤ key + len),
             bad := badAfter m.bad key len, soft := badAfter m.soft key len }

/-- Whether any of `len` bytes at `key` lies in a line read as poisoned: marked, or stored uncorrectable (R196).
(DESIGN CHOICE, log entry 47) -/
def poisonedAt (s : State) (key len : Nat) : Bool :=
  (linesOf key len).any fun n => s.mem.poison.contains n || s.mem.bad.contains n

/-- A read meets the lines in error of its range (R196, R197); the boundary counts them and posts their events. -/
def noteRead (key len : Nat) (s : State) : State :=
  if s.mem.bad.isEmpty && s.mem.soft.isEmpty then s
  else s.onStore fun m => { m with met := m.met ++ (linesOf key len).filter fun n => m.bad.contains n || m.soft.contains n }

end State

/-! ### The recorder's buffer (R381) -/

/-- Bytes a buffered record will take in flash: header, stamp and body. -/
def BufRec.size (r : BufRec) : Nat := 16 + r.body.length

/-- Hand a record to the recorder; the buffer holds 256 KiB. A record that finds it full is dropped and counted. -/
def record (r : BufRec) (s : State) : State :=
  s.onEvr fun e =>
    if (e.buffer.map BufRec.size).sum + r.size ≤ 0x40000 then { e with buffer := e.buffer ++ [r] }
    else { e with dropped := sat32 e.dropped, droppedDue := e.droppedDue + 1 }

/-! ### Completions (R356, R358) -/

/-- Post a completion on the function itself. -/
def postCompletion (c : Cmd) (op : Nat) (st : Status) (aux result : Nat) (s : State) : State :=
  s.onHif c.fn fun h =>
    { h with outstanding := h.outstanding - 1,
             cplPending := h.cplPending ++ [⟨c.tag, st, BitVec.ofNat 8 op, BitVec.ofNat 16 aux, BitVec.ofNat 64 result⟩] }

/-- The partition re-enacts beats (R267, R269). -/
def TwinState.replaying (w : TwinState) : Bool := w.phase == .replaying || w.replayStatus == 1

/-- The beat in progress for a partition: the one it re-enacts, else the system's. -/
def State.beatOf (s : State) (p : Part) : Nat := if (s.part p).twin.replaying then (s.part p).twin.replayAt else s.sys.beat

/-- Complete a command. A re-enacted command whose completion was posted before the divergence posts none. A command of a function 0 that no longer manages has no completion (R352): it was counted in
LOST_CPL when management moved. -/
def complete (c : Cmd) (op : Nat) (st : Status) (aux result : Nat) (s : State) : State :=
  match c.fn with
  | .f0 q => if q = s.hub.managing then postCompletion c op st aux result s else s
  | .part p =>
    if (s.part p).twin.mute.contains (c.tag, BitVec.ofNat 8 op) then
      s.onTwin p fun w => { w with mute := w.mute.erase (c.tag, BitVec.ofNat 8 op) }
    else postCompletion c op st aux result s

/-- Complete with a status alone. (DEDUCED, log entry 12) -/
def done (c : Cmd) (op : Nat) (st : Status) (s : State) : State := complete c op st 0 0 s

/-! ### Events (R357, R377, R378) -/

/-- Free entries of the event ring, counting entries decided and not yet written. -/
def evRoom (h : HifSet) : Nat := 2 ^ h.evqSize.toNat % 2 ^ 32 - (fwd h.evqHead h.evProduced + h.evPending.length)

/-- The number of the recorder queue of a function (R380). -/
def queueOf : Fn → Nat
  | .f0 _ => 0
  | .part p => p.val + 1

/-- The OVERFLOW entry of a queue that lost events (R357). -/
def overflowEntry (h : HifSet) (beat : Nat) : Event := ⟨h.evSeq, beat, .overflow, .ok, .notice, 0, BitVec.ofNat 64 h.evLostPending⟩

/-- One entry into the queue: held while the queue is not enabled, or while entries so held still wait (up to 256), written
when there is room, else lost. After a loss, the OVERFLOW entry takes the first room. (DEDUCED, log entry 12) -/
def queueEvent (e : Event) (h : HifSet) : HifSet :=
  if !h.enabled || !h.evHeld.isEmpty then
    if h.evHeld.length < 256 then { h with evHeld := h.evHeld ++ [{ e with seq := h.evSeq }], evSeq := h.evSeq + 1 }
    else { h with evLost := sat32 h.evLost, evLostPending := h.evLostPending + 1 }
  else
    let need := if h.evLostPending = 0 then 1 else 2
    if need ≤ evRoom h then
      if h.evLostPending = 0 then
        { h with evPending := h.evPending ++ [{ e with seq := h.evSeq }], evSeq := h.evSeq + 1 }
      else
        { h with evPending := h.evPending ++ [overflowEntry h e.beat, { e with seq := h.evSeq + 1 }], evSeq := h.evSeq + 2, evLostPending := 0 }
    else { h with evLost := sat32 h.evLost, evLostPending := h.evLostPending + 1 }

/-- Move held events into the queue while there is room. -/
def flushHeld : Nat → HifSet → HifSet
  | 0, h => h
  | n + 1, h => match h.evHeld with
    | [] => h
    | e :: t => if 0 < evRoom h then flushHeld n { h with evHeld := t, evPending := h.evPending ++ [e] } else h

/-- Room has come to an enabled queue (R357): the held events go first, then the OVERFLOW entry of a loss. -/
def evRoomReturns (beat : Nat) (h : HifSet) : HifSet :=
  if !h.enabled then h
  else
    let h := flushHeld h.evHeld.length h
    if h.evHeld.isEmpty && decide (0 < h.evLostPending) && decide (0 < evRoom h) then
      { h with evPending := h.evPending ++ [overflowEntry h beat], evSeq := h.evSeq + 1, evLostPending := 0 }
    else h

/-- Post an event to the queue of `fn` and hand it to the recorder. (DEDUCED, log entry 12; DEDUCED, log entry 13) -/
def post (fn : Fn) (cls : EventClass) (st : Status) (sev : Severity) (source : Nat) (det : U64) (s : State) : State :=
  let e : Event := ⟨(s.hif fn).evSeq, s.sys.beat, cls, st, sev, BitVec.ofNat 32 source, det⟩
  record ⟨.event, sev, queueOf fn, e.bytes⟩ (s.onHif fn (queueEvent e))

/-- Post an event to function 0 of the managing port. (DEDUCED, log entry 13) -/
def postF0 (cls : EventClass) (st : Status) (sev : Severity) (source : Nat) (det : U64) (s : State) : State :=
  post s.f0 cls st sev source det s

/-- Post an event of the class that goes to the partition and to F0. -/
def postBoth (p : Part) (cls : EventClass) (st : Status) (sev : Severity) (source : Nat) (det : U64) (s : State) : State :=
  postF0 cls st sev source det (post (.part p) cls st sev source det s)

/-- A ROUND event of context `k`: SOURCE holds the context and the state after the event. (DEDUCED, log entry 13) -/
def postRound (p : Part) (k : Ctx) (st : Status) (sev : Severity) (kind value : Nat) (s : State) : State :=
  post (.part p) .round st sev (k.val ||| (s.ctx p k).phase.code <<< 8) (detail kind value) s

/-- A PARTITION event about no cluster. (DEDUCED, log entry 13) -/
def postPart (p : Part) (st : Status) (sev : Severity) (kind value : Nat) (s : State) : State :=
  postBoth p .partition st sev p.val (detail kind value) s

/-- A RECEIVE event is followed by its RECEIVE_LEN; with room for only one of them, neither is written (R378). -/
def postReceive (p : Part) (pos : Nat) (tag : U64) (len : Nat) (s : State) : State :=
  let h := s.hif (.part p)
  let room := if h.enabled then evRoom h - (if h.evLostPending = 0 then 0 else 1) else 256 - h.evHeld.length
  if 2 ≤ room then
    post (.part p) .receiveLen .ok .info pos (BitVec.ofNat 64 len) (post (.part p) .receive .ok .info pos tag s)
  else
    let e1 : Event := ⟨h.evSeq, s.sys.beat, .receive, .ok, .info, BitVec.ofNat 32 pos, tag⟩
    let e2 : Event := ⟨h.evSeq, s.sys.beat, .receiveLen, .ok, .info, BitVec.ofNat 32 pos, BitVec.ofNat 64 len⟩
    record ⟨.event, .info, queueOf (.part p), e2.bytes⟩ (record ⟨.event, .info, queueOf (.part p), e1.bytes⟩
      (s.onHif (.part p) fun x => { x with evLost := sat32 (sat32 x.evLost), evLostPending := x.evLostPending + 2 }))

/-- Count an access refused under R9. -/
def badAccess (fn : Fn) (s : State) : State := s.onHif fn fun h => { h with badAccess := sat32 h.badAccess }

/-- Count a doorbell or HEAD value discarded. (DEDUCED, log entry 84) -/
def dbDiscard (fn : Fn) (s : State) : State := s.onHif fn fun h => { h with dbDiscards := sat32 h.dbDiscards }

/-! ### General checks of a command (R358) -/

/-- A command of a partition function. `ok` says its operands lie in the ranges it states. An ABSENT partition's function
fetches nothing. (DEDUCED, log entry 29) -/
def partCommand (c : Cmd) (op : Nat) (ok : Bool) (body : Part → State → State) (s : State) : State :=
  match c.fn with
  | .f0 _ => postCompletion c op .invalidCommand 0 0 s
  | .part p =>
    if (s.part p).phase = .absent then s
    else if !ok then done c op .invalidCommand s
    else if (s.part p).phase = .removing then done c op .partitionGone s
    else if (s.part p).phase = .fenced then done c op .fenced s
    else body p s

/-- A reservation's bandwidth on both sub-ports of a port (R244, R274). -/
def PartResv.portTotal (r : PartResv) (q : Nat) : Nat := r.portBw.toList.getD (2 * q) 0 + r.portBw.toList.getD (2 * q + 1) 0

/-- A command of function 0 of the managing port. -/
def f0Command (c : Cmd) (op : Nat) (ok : Bool) (body : State → State) (s : State) : State :=
  match c.fn with
  | .part p => if (s.part p).phase = .absent then s else done c op .invalidCommand s
  | .f0 q =>
    if q ≠ s.hub.managing then postCompletion c op .invalidCommand 0 0 s
    else if !ok then done c op .invalidCommand s
    else body s

/-! ### Key slots (R292) -/

def slotAt (s : State) (i : Nat) : KeySlot := if h : i < 64 then s.key.slots[i] else {}
def onSlot (i : Nat) (f : KeySlot → KeySlot) (s : State) : State :=
  if h : i < 64 then s.onKey fun k => { k with slots := vupd k.slots ⟨i, h⟩ f } else s

/-- The slots of a partition (R291). -/
def rootSlot (p : Part) : Nat := 8 + 6 * p.val
def imageSlot (p : Part) : Nat := 9 + 6 * p.val
def xtsSlot (p : Part) : Nat := 10 + 6 * p.val
def transferSlot (p : Part) : Nat := 11 + 6 * p.val
def drbgSlot (p : Part) : Nat := 12 + 6 * p.val
def logSlot (p : Part) : Nat := 13 + 6 * p.val

end Sys2Proof.Machine
end

