-- ==== Sys2Proof/Machine/Memory.lean ====
section
/-! DEFINITION. Translation (R199 to R203), faults (R204 to R207), and the reads and writes of partition addresses that the
partition controller, release writes and BAR2 make. -/

namespace Sys2Proof.Machine

/-! ### Page table entries (R200) -/

def leafType (e : U64) : Nat := (e.extractLsb' 0 2).toNat
def leafBacking (e : U64) : Nat := (e.extractLsb' 2 2).toNat
def leafLarge (e : U64) : Bool := e.getLsbD 4
/-- Permission bit i of PERMS: 0 unit read, 1 unit write, 2 RXT place, 3 BAR, 4 release. -/
def leafPerm (e : U64) (i : Nat) : Bool := e.getLsbD (5 + i)
def leafHostOwned (e : U64) : Bool := e.getLsbD 10
def leafRetiring (e : U64) : Bool := e.getLsbD 11

/-- A leaf of SRAM page `page` of logical cluster `c` of die `d`. -/
def sramLeaf (d c page : Nat) (perms : BitVec 5) : U64 :=
  BitVec.ofNat 64 (2 ||| perms.toNat <<< 5 ||| d <<< 16 ||| c <<< 19 ||| page <<< 24)
/-- A leaf of LPDDR5X frame `frame` of `site`. -/
def dramLeaf (site frame : Nat) (large : Bool) (perms : BitVec 5) : U64 :=
  BitVec.ofNat 64 (2 ||| 1 <<< 2 ||| (if large then 16 else 0) ||| perms.toNat <<< 5 ||| site <<< 16 ||| frame <<< 19)

/-- PRT_PT_ROOT of the first table page. -/
def rootOf (pages : List (Nat × Nat)) : U64 := match pages with
  | (site, f) :: _ => BitVec.ofNat 64 (site <<< 40 ||| f * 2 ^ 16)
  | [] => 0

/-- An absent leaf with HOST_OWNED set. -/
def absentOwned : U64 := 0x400

/-- An entry that only corruption can produce (R200): a reserved TYPE or BACKING, a table at level 3, or a LARGE bit where it is
not allowed. `large` is whether the entry stands at level 2. -/
def leafMalformed (large : Bool) (e : U64) : Bool :=
  leafType e == 3 || leafType e == 1
    || (leafType e == 2 && (leafBacking e == 3 || leafLarge e != large || (large && leafBacking e != 1)))

def leafSite (e : U64) : Nat := (e.extractLsb' 16 3).toNat
def leafFrame (e : U64) : Nat := (e.extractLsb' 19 21).toNat
def sramLeafCluster (e : U64) : Fin 32 := (e.extractLsb' 19 5).toFin
def sramLeafPage (e : U64) : Nat := (e.extractLsb' 24 9).toNat

/-- The load window (R362). -/
def loadWindow (va : Nat) : Bool := decide (0xFFC0000000 ≤ va ∧ va ≤ 0xFFFFFFFFFF)

/-- The MEMORY_MAP record of the loaded image that holds an address. -/
def mapRecOf (img : Option Image) (va : Nat) : Option MapRec :=
  match img with
  | some i => i.memMap.find? fun r => decide (r.va ≤ va ∧ va < r.va + r.length)
  | none => none

namespace State

/-- The leaf of an address: an edited or installed one, or the absent HOST_OWNED leaf of the load window and of the BACKING 2
ranges (R201, R362). -/
def leafAt (s : State) (p : Part) (va : Nat) : Option U64 :=
  let m := (s.part p).mem
  match tfind m.largeLeaves (va / 2 ^ 25) with
  | some e => some e
  | none =>
    match tfind m.leaves (va / 2 ^ 16) with
    | some e => some e
    | none =>
      if loadWindow va then some absentOwned
      else match mapRecOf (s.part p).img.image va with
        | some r => if r.backing = 2 then some absentOwned else none
        | none => none

/-- The physical cluster of a logical cluster (R18), none where no cluster can provide it. -/
def physOf (s : State) (d : Die) (c : Cluster) : Option Nat :=
  let r : Fin 4 := ⟨c.val / 8, by omega⟩
  let n := ((s.dies[d]).regions[r]).map.log[(⟨c.val % 8, by omega⟩ : Fin 8)]
  if n.toNat ≤ 8 then some (9 * r.val + n.toNat) else none

/-- The key an address has under its leaf: a slice's or a site's, or host memory behind the partition's own port (R208). -/
def leafKey (s : State) (p : Part) (e : U64) (va : Nat) : Option Nat :=
  match leafBacking e with
  | 0 =>
    match s.physOf ((e.extractLsb' 16 3).toFin) (sramLeafCluster e) with
    | some ph => some (sramKey (e.extractLsb' 16 3).toNat ph (sramLeafPage e * 2 ^ 16 + va % 2 ^ 16))
    | none => none
  | 1 => some (dramKey (leafSite e) (leafFrame e * 2 ^ 16 + (if leafLarge e then va % 2 ^ 25 else va % 2 ^ 16)))
  | _ => some (hostKey (s.part p).resv.pciePort.val (e.toNat / 2 ^ 16 * 2 ^ 16 + va % 2 ^ 16))

end State

/-- Where a cluster's reserved area starts in its slice (R195). -/
def reservedBase : Nat := 0x01C00000

/-- A byte of the reserved area of a logical cluster (R185, R195). -/
def reservedKey (s : State) (d : Die) (c : Cluster) (off : Nat) : Option Nat :=
  (s.physOf d c).map fun n => sramKey d.val n (reservedBase + off)

/-! ### Page tables (R199, R201)

A level 0 table, level 1 tables by VA[39:35], level 2 tables by VA[39:30] and level 3 tables by VA[39:25]. The upper tables
stand at 256 bytes each in the first pages, the level 3 tables at 4 KiB each in the pages after them.
(DESIGN CHOICE, log entry 103) -/

/-- The numbers VA[39:25] under which something is mapped. -/
def PartMem.numbers (m : PartMem) : List Nat := (m.tableNums ++ tkeys m.largeLeaves).foldl insertSet []
def PartMem.level2 (m : PartMem) : List Nat := (m.numbers.map (· / 32)).foldl insertSet []
def PartMem.level1 (m : PartMem) : List Nat := (m.level2.map (· / 32)).foldl insertSet []

/-- The upper tables, in the order of their places: level and number. -/
def PartMem.upper (m : PartMem) : List (Nat × Nat) := (0, 0) :: m.level1.map (1, ·) ++ m.level2.map (2, ·)

/-- Pages of the upper tables, and of all tables. -/
def PartMem.upperPages (m : PartMem) : Nat := (m.upper.length + 255) / 256
def PartMem.pageCount (m : PartMem) : Nat := m.upperPages + (m.tableNums.length + 15) / 16

/-- The page, by its place in `tablePages`, and the offset within it of a table. -/
def PartMem.tableSlot (m : PartMem) (level n : Nat) : Option (Nat × Nat) :=
  if level = 3 then (m.tableNums.findIdx? (· == n)).map fun i => (m.upperPages + i / 16, i % 16 * 4096)
  else (m.upper.findIdx? (· == (level, n))).map fun i => (i / 256, i % 256 * 256)

/-- The site and the byte offset of a table. -/
def PartMem.tablePlace (m : PartMem) (level n : Nat) : Option (Nat × Nat) :=
  (m.tableSlot level n).bind fun (i, off) => (m.tablePages[i]?).map fun (site, frame) => (site, frame * 2 ^ 16 + off)

/-- The address bits below the index of a level, and the entries of its tables (R199). -/
def levelShift (level : Nat) : Nat := [35, 30, 25, 16].getD level 16
def levelSize (level : Nat) : Nat := if level = 3 then 512 else 32

/-- The table of a level that a walk of an address reads. -/
def tableOf (level va : Nat) : Nat := va / 2 ^ levelShift level / levelSize level

/-- An entry that names a table (R200). -/
def tableEntry (site off : Nat) : U64 := BitVec.ofNat 64 (1 ||| 1 <<< 2 ||| site <<< 16 ||| (off / 256) <<< 19)

namespace State

/-- The entry of an address at a level. -/
def walkEntry (s : State) (p : Part) (level va : Nat) : U64 :=
  let m := (s.part p).mem
  let below : U64 := match m.tablePlace (level + 1) (va / 2 ^ levelShift level) with
    | some (site, off) => tableEntry site off
    | none => 0
  if level = 3 then (match tfind m.largeLeaves (va / 2 ^ 25) with
    | some _ => 0
    | none => (s.leafAt p va).getD 0)
  else if level = 2 then (tfind m.largeLeaves (va / 2 ^ 25)).getD below
  else below

/-- The bytes of a table: its entries, little-endian (R5, R200). -/
def tableBytes (s : State) (p : Part) (level n : Nat) : Bytes :=
  (List.range (levelSize level)).flatMap fun i =>
    leBytes 8 (s.walkEntry p level ((n * levelSize level + i) * 2 ^ levelShift level)).toNat

/-- Write a table to its place. -/
def putTable (p : Part) (t : Nat × Nat) (s : State) : State :=
  match (s.part p).mem.tablePlace t.1 t.2 with
  | some (site, off) => s.fill (dramKey site off) (s.tableBytes p t.1 t.2)
  | none => s

/-- Write the level 3 entry of an address. -/
def putEntry (p : Part) (va : Nat) (s : State) : State :=
  match (s.part p).mem.tablePlace 3 (va / 2 ^ 25) with
  | some (site, off) => s.store (dramKey site (off + va / 2 ^ 16 % 512 * 8)) (leBytes 8 (s.walkEntry p 3 va).toNat) false
  | none => s

/-- Write every table. -/
def putTables (p : Part) (s : State) : State :=
  let m := (s.part p).mem
  forAll (m.upper ++ m.tableNums.map (3, ·)) (putTable p) s

/-- The memory line that holds the entry of an address at a level. -/
def entryLine (s : State) (p : Part) (va level : Nat) : Option Nat :=
  ((s.part p).mem.tablePlace level (tableOf level va)).map fun (site, off) =>
    lineOf (dramKey site (off + va / 2 ^ levelShift level % levelSize level * 8))

/-- The first level at which a walk meets an uncorrectable entry (R200, R204). -/
def badLevel (s : State) (p : Part) (va : Nat) : Option Nat :=
  match s.mem.bad with
  | [] => none
  | _ => (List.range 4).find? fun level => match s.entryLine p va level with
    | some n => s.mem.bad.contains n
    | none => false

/-- A walk that meets an uncorrectable entry (R200, R204). -/
def entryBad (s : State) (p : Part) (va : Nat) : Bool := (s.badLevel p va).isSome

/-- Whether a LARGE leaf covers an address. -/
def largeAt (s : State) (p : Part) (va : Nat) : Bool := (tfind (s.part p).mem.largeLeaves (va / 2 ^ 25)).isSome

/-- Translation of an access that needs permission bit `perm` (R199, R204): the key, or the cause of the fault. -/
def translate (s : State) (p : Part) (va perm : Nat) : Except Status Nat :=
  if 2 ^ 40 ≤ va then .error .pageFault
  else if s.entryBad p va then .error .uncorrectableMemory
  else match s.leafAt p va with
    | none => .error .pageFault
    | some e =>
      if leafMalformed (s.largeAt p va) e then .error .uncorrectableMemory
      else if leafType e ≠ 2 then .error .pageFault
      else if !leafPerm e perm then .error .accessDenied
      else match s.leafKey p e va with
        | some k => .ok k
        | none => .error .uncorrectableMemory

end State

/-- The pages of a range, as page numbers. -/
def pagesOf (va len : Nat) : List Nat :=
  if len = 0 then [] else (List.range ((va + len - 1) / 2 ^ 16 - va / 2 ^ 16 + 1)).map (· + va / 2 ^ 16)

/-- A length cut one byte past the address space, where the fault is met in any case. -/
def boundLen (va len : Nat) : Nat := min len (2 ^ 40 + 1 - min va (2 ^ 40))

/-- The first page of a range whose access fails, with the address at which it is met and the cause. -/
def firstFault (s : State) (p : Part) (va len perm : Nat) : Option (Nat × Status) :=
  (pagesOf va (boundLen va len)).findSome? fun n =>
    match s.translate p (max va (n * 2 ^ 16)) perm with
    | .error e => some (max va (n * 2 ^ 16), e)
    | .ok _ => none

/-- A physical address range cut at page borders, as (address, length) pieces. -/
def pieces : Nat → Nat → Nat → List (Nat × Nat)
  | 0, _, _ => []
  | fuel + 1, va, len =>
    if len = 0 then []
    else
      let n := min len (2 ^ 16 - va % 2 ^ 16)
      (va, n) :: pieces fuel (va + n) (len - n)

def pageSplit (va len : Nat) : List (Nat × Nat) := pieces (len / 2 ^ 16 + 2) va len

/-- The bytes of a readable range; lines read as poisoned give zeros (R376). -/
def readVA (s : State) (p : Part) (va len perm : Nat) : Bytes :=
  (pageSplit va len).flatMap fun (a, n) =>
    match s.translate p a perm with
    | .ok k => if s.poisonedAt k n then
        (List.range n).map fun i => if s.poisonedAt (k + i) 1 then 0 else s.byteAt (k + i)
      else s.bytesAt k n
    | .error _ => zeroBytes n

/-- Whether any byte of a range lies in a poisoned line. (DESIGN CHOICE, log entry 47) -/
def poisonVA (s : State) (p : Part) (va len perm : Nat) : Bool :=
  (pageSplit va len).any fun (a, n) => match s.translate p a perm with
    | .ok k => s.poisonedAt k n
    | .error _ => false

/-- The lines in error that the read of a range meets. -/
def noteReadVA (p : Part) (va len perm : Nat) (s : State) : State :=
  if s.mem.bad.isEmpty && s.mem.soft.isEmpty then s
  else (pageSplit va len).foldl (fun t (a, n) => match s.translate p a perm with
    | .ok k => t.noteRead k n
    | .error _ => t) s

/-- Write bytes to a range all of whose pages translate. -/
def writeVA (p : Part) (va : Nat) (b : Bytes) (perm : Nat) (poison : Bool) (s : State) : State :=
  (pageSplit va b.length).foldl (fun t (a, n) =>
    match s.translate p a perm with
    | .ok k => t.store k ((b.drop (a - va)).take n) poison
    | .error _ => t) s

/-- Zero a range, page by page. -/
def zeroVA (p : Part) (va len perm : Nat) (s : State) : State :=
  (pageSplit va len).foldl (fun t (a, n) =>
    match s.translate p a perm with
    | .ok k => t.zeroRange k n
    | .error _ => t) s

/-! ### Translation caches (R203) -/

/-- The caches: region r of die d, Recel port q, the PCIe function. -/
inductive XCache where
  | region (d : Die) (r : Region)
  | port (q : RPort)
  | pcie

def XCache.code : XCache → Nat
  | .region d r => d.val * 4 + r.val
  | .port q => 32 + q.val
  | .pcie => 40

/-- Entries a partition has in the cache. -/
def XCache.size : XCache → Nat
  | .region _ _ => 2048
  | .port _ => 128
  | .pcie => 512

/-- The number under which a cache keeps the translation of a page: one entry for each 64 KiB or 32 MiB leaf. -/
def cacheKey (s : State) (p : Part) (page : Nat) : Nat :=
  if s.largeAt p (page * 2 ^ 16) then 2 ^ 31 + page / 512 else page

/-- Note the walk of one page: one not cached is walked and counted, and cached when the walk ends in a leaf; the oldest entry
gives way. A table found malformed is noted for rebuilding (R204). -/
def noteWalk (s : State) (p : Part) (c : XCache) (n : Nat) (m : PartMem) : PartMem :=
  let va := n * 2 ^ 16
  let key := c.code * 2 ^ 32 + cacheKey s p n
  if m.cached.contains key then m
  else
    let m := { m with xlatMisses := sat64 m.xlatMisses }
    match s.badLevel p va, s.leafAt p va with
    | some level, _ => { m with badTables := if m.badTables.contains (level, tableOf level va) then m.badTables
                                             else m.badTables ++ [(level, tableOf level va)] }
    | none, some e =>
      if leafMalformed (s.largeAt p va) e then
        let level := if s.largeAt p va then 2 else 3
        { m with badTables := if m.badTables.contains (level, tableOf level va) then m.badTables
                              else m.badTables ++ [(level, tableOf level va)] }
      else if leafType e ≠ 2 then m
      else
        let l := key :: m.cached
        let mine := l.filter fun j => j / 2 ^ 32 == c.code
        { m with cached := if c.size < mine.length then l.filter (fun j => some j != mine.getLast?) else l }
    | none, none => m

/-- Note the walks that an access of a range costs (R203). -/
def noteWalks (p : Part) (c : XCache) (va len : Nat) (s : State) : State :=
  s.onMem p fun m => (pagesOf va len).foldl (fun m n => noteWalk s p c n m) m

/-- Drop the cached translations of one page. -/
def dropCached (p : Part) (page : Nat) (s : State) : State :=
  s.onMem p fun m => { m with cached := m.cached.filter fun j => j % 2 ^ 32 != page && j % 2 ^ 32 != 2 ^ 31 + page / 512 }

/-! ### Faults (R205, R206) -/

/-- Free entries of the fault ring; one not enabled counts as full. -/
def fltRoom (h : HifSet) : Nat :=
  if h.enabled then 2 ^ h.fltqSize.toNat - (fwd h.fltqHead h.fltProduced + h.fltPending.length) else 0

def nextId (n : Nat) : Nat := if n = 2 ^ 32 - 1 then 1 else n + 1

/-- Whether the agent waits on an entry for the page. (DEDUCED, log entry 62) -/
def agentWaits (m : PartMem) (a : FaultAgent) (page : Nat) : Bool :=
  m.faults.any fun f => f.waits && f.agent == a && f.page == page

/-- Whether the agent waits on any entry. -/
def agentWaitsAny (m : PartMem) (a : FaultAgent) : Bool := m.faults.any fun f => f.waits && f.agent == a

/-- Post a fault. The answer says whether the agent waits: an agent whose entry could be neither posted nor held does not. -/
def postFault (p : Part) (va : Nat) (agent access : Nat) (cause : Status) (resume : Bool) (source : Nat) (who : FaultAgent)
    (s : State) : State × Bool :=
  let m := (s.part p).mem
  let h := (s.part p).hif
  let page := va / 2 ^ 16
  if resume && agentWaits m who page then (s, true)
  else if !resume && m.notedPages.contains (s.sys.beat, page) then (s, false)
  else
    let e : FaultEntry := ⟨BitVec.ofNat 64 va, s.sys.beat, m.nextFaultId, BitVec.ofNat 8 agent, BitVec.ofNat 8 access, cause,
      resume, BitVec.ofNat 32 source⟩
    let noted := if resume then m.notedPages else m.notedPages ++ [(s.sys.beat, page)]
    let rec_ : FaultRec := ⟨m.nextFaultId, page, who, resume, h.fltProduced + BitVec.ofNat 32 h.fltPending.length⟩
    if 0 < fltRoom h && m.heldFaults.isEmpty then
      (s.onPart p fun x => { x with
        hif := { h with fltPending := h.fltPending ++ [e] },
        mem := { m with nextFaultId := nextId m.nextFaultId, faults := m.faults ++ [rec_], notedPages := noted,
                        faultsPosted := sat32 m.faultsPosted } }, resume)
    else if m.heldFaults.length < 64 then
      (s.onMem p fun m => { m with nextFaultId := nextId m.nextFaultId, faults := m.faults ++ [rec_], notedPages := noted,
                                   heldFaults := m.heldFaults ++ [e] }, resume)
    else
      let t := s.onMem p fun m => { m with faultsLost := sat32 m.faultsLost, notedPages := noted }
      (if m.faultsLost = 0 then postPart p .ok .warning 5 1 t else t, false)

/-- A fault of the partition controller's operand read: AGENT 5, ACCESS 0, no RESUME_NEEDED (R204, R205). -/
def operandFault (p : Part) (va access : Nat) (cause : Status) (s : State) : State :=
  (postFault p va 5 access cause false 0 .none s).1

/-- The partition controller reads the operand of a command: unit-read permission on every page; the walks are those of
region 0 of the lead die. A re-enacted command reads what the log holds (R268). -/
def readOperand (p : Part) (va len : Nat) (s : State) : State × Except Status Bytes :=
  let s := match s.leadDie p with
    | some d => noteWalks p (.region d 0) va len s
    | none => s
  match (s.part p).twin.operand with
  | some b => (s, if b.length < len then .error .pageFault else .ok (b.take len))
  | none => match firstFault s p va len 0 with
    | some (a, e) => (operandFault p a 0 e s, .error e)
    | none => (noteReadVA p va len 0 s, .ok (readVA s p va len 0))

/-- No release write is made: a field replay makes none (R269), and the writes of beats before the divergence have been made
(R268). -/
def TwinState.keepsSlots (w : TwinState) : Bool := w.replaying && (w.replayStatus == 1 || decide (w.replayAt ≤ w.replayStop))

/-- Where the release write of a range goes on: at the page at which it stopped, else at its start. -/
def writeFrom (c : RoundCtx) (va len : Nat) : Nat := match c.writeAt with
  | some a => if va < a ∧ a < va + len then a else va
  | none => va

/-- A release write of a range (R43, R204): `f` makes it from one address up to another. It stops at the first faulting page,
waits there with RESUME_NEEDED and resumes there. Answers whether the write ended. While the context waits on an entry, nothing
is written. -/
def releaseRange (p : Part) (k : Ctx) (va len : Nat) (f : Nat → Nat → State → State) (s : State) : State × Bool :=
  if (s.part p).twin.keepsSlots then (s, true)
  else if agentWaitsAny (s.part p).mem (.slot k) then (s, false)
  else
    let at_ := writeFrom (s.ctx p k) va len
    let s := noteWalks p .pcie at_ (va + len - at_) s
    match firstFault s p at_ (va + len - at_) 4 with
    | none => (State.onCtx p k (fun c => { c with writeAt := none }) (f at_ (va + len) s), true)
    | some (a, e) =>
      ((postFault p a 4 5 e true k.val (.slot k) (State.onCtx p k (fun c => { c with writeAt := some a }) (f at_ a s))).1, false)

def releaseWrite (p : Part) (k : Ctx) (va : Nat) (b : Bytes) (s : State) : State × Bool :=
  releaseRange p k va b.length (fun x y => writeVA p x ((b.drop (x - va)).take (y - x)) 4 false) s

/-- The payload of a slot overwritten with zeros, as a release write. -/
def releaseZero (p : Part) (k : Ctx) (va len : Nat) (s : State) : State × Bool :=
  releaseRange p k va len (fun x y => zeroVA p x (y - x) 4) s

/-! ### Pools (R198, R214) -/

/-- LPDDR5X pages per site (chapter 10). -/
def sitePages : Nat := 1953125

/-- The LPDDR5X pages a partition's leaves and tables occupy. -/
def usedPages (m : PartMem) : List (Nat × Nat) :=
  m.tablePages ++ (m.leaves.filterMap fun (_, e) =>
      if leafType e = 2 ∧ leafBacking e = 1 then some (leafSite e, leafFrame e) else none)
    ++ m.largeLeaves.flatMap fun (_, e) => (List.range 512).map fun i => (leafSite e, leafFrame e + i)

/-- Whether a page of a site may be handed out: neither retired nor to be retired, the site not FAILED. -/
def pageGood (s : State) (n f : Nat) : Bool :=
  if h : n < 8 then !(s.mem.sites[n]).retired.contains f && !(s.mem.sites[n]).retiring.contains f && !(s.mem.sites[n]).failed
    && decide (f < sitePages) else false

/-- The lowest free run of `count` pages of site `n` from a multiple of `count` on, not in `used`; `fuel` tries. -/
def findFrame (s : State) (used : List (Nat × Nat)) (n count : Nat) : Nat → Nat → Option Nat
  | 0, _ => none
  | fuel + 1, f =>
    if (List.range count).all fun i => pageGood s n (f + i) && !used.contains (n, f + i) then some f
    else findFrame s used n count fuel (f + count)

/-- A free page of a site. -/
def freePage (s : State) (used : List (Nat × Nat)) (n : Nat) : Option Nat :=
  findFrame s used n 1 (used.length
    + (if h : n < 8 then (s.mem.sites[n]).retired.length + (s.mem.sites[n]).retiring.length else 0) + 1) 0

/-- Pages in the partition's LPDDR5X pool. -/
def poolPages (s : State) (p : Part) : Nat :=
  ((s.diesOf p).map fun d => if (s.mem.sites[d]).failed then 0
    else sitePages - (s.mem.sites[d]).retired.length - (s.mem.sites[d]).retiring.length).sum

/-- 64 KiB chunks of a message in the unexpected buffer (R240). -/
def chunksOf (n : Nat) : Nat := (n + 65535) / 65536

/-- Chunks of the partition's unexpected buffer in use: by messages that are complete and by those still arriving. -/
def unexpUsed (s : State) (p : Part) : Nat :=
  (((s.part p).rxt.unexp.map fun m => chunksOf m.payload.length).sum)
    + (s.rxt.conns.map fun c => if c.2.part = p then
        (c.2.msgs.map fun m => if m.2.buffer = .unexpected then chunksOf m.2.stored.length else 0).sum else 0).sum

/-- PRT_POOL_DRAM_FREE: a chunk of the unexpected buffer takes one page. (DESIGN CHOICE, log entry 186) -/
def poolDramFree (s : State) (p : Part) : Nat :=
  poolPages s p - ((usedPages (s.part p).mem).filter fun x => pageGood s x.1 x.2).length - unexpUsed s p

/-- SRAM pages mapped by the partition. -/
def sramUsed (m : PartMem) : Nat := (m.leaves.filter fun (_, e) => leafType e == 2 && leafBacking e == 0).length

/-- PRT_POOL_SRAM_FREE. -/
def poolSramFree (s : State) (p : Part) : Nat := (s.diesOf p).length * 32 * 448 - sramUsed (s.part p).mem

end Sys2Proof.Machine
end

