-- ==== Sys2Proof/Machine/Crypto.lean ====
section
/-! DEFINITION. The standard functions the manual names: SHA-256 (FIPS 180-4), HMAC and HKDF (RFC 2104, RFC 5869), AES-256
with counter mode and GCM (FIPS 197, SP 800-38D), AES key wrap with padding (SP 800-38F), CTR_DRBG's block cipher
derivation (SP 800-90A), and ECDSA and ECDH on P-256 (FIPS 186-5, SP 800-56A, RFC 6979). -/

namespace Sys2Proof.Crypto

open Sys2Proof.Machine

/-! ### SHA-256 -/

/-- The round constants of FIPS 180-4: constant t stands in bits 32t to 32t + 31. -/
def shaConstants : Nat := 0xC67178F2BEF9A3F7A4506CEB90BEFFFA8CC7020884C8781478A5636F748F82EE682E6FF35B9CCA4F4ED8AA4A391C0CB334B0BCB52748774C1E376C0819A4C116 * 2 ^ 1536 +
  0x106AA070F40E3585D6990624D192E819C76C51A3C24B8B70A81A664BA2BFE8A192722C8581C2C92E766A0ABB650A735453380D134D2C6DFC2E1B213827B70A85 * 2 ^ 1024 +
  0x1429296706CA6351D5A79147C6E00BF3BF597FC7B00327C8A831C66D983E515276F988DA5CB0A9DC4A7484AA2DE92C6F240CA1CC0FC19DC6EFBE4786E49B69C1 * 2 ^ 512 +
  0xC19BF1749BDC06A780DEB1FE72BE5D74550C7DC3243185BE12835B01D807AA98AB1C5ED5923F82A459F111F13956C25BE9B5DBA5B5C0FBCF71374491428A2F98

/-- The chaining value, most significant word first. -/
def shaStart : Nat := 0x6A09E667BB67AE853C6EF372A54FF53A510E527F9B05688C1F83D9AB5BE0CD19

/-- The word of 32 bits at place `i` of a number, counted from the least significant. -/
def wordAt (x i : Nat) : Nat := (x >>> (32 * i)) % 4294967296

/-- The word written twice: its bits from n upward are the word rotated right by n. -/
def twice (x : Nat) : Nat := x * 4294967297

/-- The exclusive or of three rotations of a word. -/
def rot3 (x i j k : Nat) : Nat := let d := twice x; (d >>> i ^^^ d >>> j ^^^ d >>> k) % 4294967296

/-- The exclusive or of two rotations and a shift of a word. -/
def rot2 (x i j k : Nat) : Nat := let d := twice x; (d >>> i ^^^ d >>> j) % 4294967296 ^^^ x >>> k

/-- The message words from number `t` on, with the round on each; `w` holds the sixteen words before, newest first. The rounds run
on the last four values of the working variables a and e, newest first: the other six are older values of these two. -/
def shaRounds : Nat → Nat → List Nat → List Nat → List Nat → List Nat × List Nat
  | 0, _, _, a, e => (a, e)
  | n + 1, t, w, a, e =>
    let x := w.getD 15 0
    let y := (x + rot2 (w.getD 14 0) 7 18 3 + w.getD 6 0 + rot2 (w.getD 1 0) 17 19 10) % 4294967296
    let e1 := e.getD 0 0
    let a1 := a.getD 0 0
    let sum := e.getD 3 0 + rot3 e1 6 11 25 + (e.getD 2 0 ^^^ (e1 &&& (e.getD 1 0 ^^^ e.getD 2 0))) + wordAt shaConstants t + x
    let most := (a1 &&& a.getD 1 0) ||| (a.getD 2 0 &&& (a1 ||| a.getD 1 0))
    shaRounds n (t + 1) ((y :: w).take 16)
      ((sum + rot3 a1 2 13 22 + most) % 4294967296 :: a.take 3) ((a.getD 3 0 + sum) % 4294967296 :: e.take 3)

/-- One block of 64 bytes enters the chaining value. -/
def shaStep (v : Nat) (block : Bytes) : Nat :=
  let w := (List.range 16).map fun i => beNat ((block.drop (60 - 4 * i)).take 4)
  let old := (List.range 8).map fun i => wordAt v (7 - i)
  let (a, e) := shaRounds 64 0 w (old.take 4) (old.drop 4)
  (old.zipWith (fun x y => (x + y) % 4294967296) (a ++ e)).foldl (fun x y => x * 4294967296 + y) 0

def shaBlocks : Nat → Nat → Bytes → Nat
  | 0, v, _ => v
  | n + 1, v, b => shaBlocks n (shaStep v (b.take 64)) (b.drop 64)

/-- SHA-256 of a byte string; the digest's first byte is the most significant of the number. (PRESUMED, log entry 25) -/
def sha256 (m : Bytes) : U256 :=
  let padded := m ++ [0x80] ++ zeroBytes ((119 - m.length % 64) % 64) ++ beBytes 8 (8 * m.length)
  BitVec.ofNat 256 (shaBlocks (padded.length / 64) shaStart padded)

/-- The 32 bytes of a digest, first byte first. -/
def bytes256 (x : U256) : Bytes := beBytes 32 x.toNat
/-- The number of 32 bytes, first byte most significant. -/
def of256 (b : Bytes) : U256 := BitVec.ofNat 256 (beNat (b.take 32))
def bytes512 (x : U512) : Bytes := beBytes 64 x.toNat
def of512 (b : Bytes) : U512 := BitVec.ofNat 512 (beNat (b.take 64))
/-- The first 128 bits of a digest. -/
def first128 (x : U256) : U128 := x.extractLsb' 128 128

/-- SHA-256 of a public key (x then y). (DEDUCED, log entry 73) -/
def keyHash (k : U512) : U256 := sha256 (bytes512 k)

def xorBytes (a b : Bytes) : Bytes := a.zipWith (· ^^^ ·) b

/-- HMAC-SHA-256. -/
def hmac (key msg : Bytes) : U256 :=
  let k := if 64 < key.length then bytes256 (sha256 key) else key
  let k := k ++ zeroBytes (64 - k.length)
  sha256 (k.map (· ^^^ 0x5C) ++ bytes256 (sha256 (k.map (· ^^^ 0x36) ++ msg)))

/-- HKDF-Extract. -/
def hkdfExtract (salt ikm : Bytes) : U256 := hmac salt ikm

/-- HKDF-Expand to 32-byte blocks: T(1) … T(n) joined. -/
def hkdfBlocks (prk info : Bytes) : Nat → Nat → Bytes → Bytes
  | 0, _, _ => []
  | n + 1, i, t =>
    let t' := bytes256 (hmac prk (t ++ info ++ [BitVec.ofNat 8 i]))
    t' ++ hkdfBlocks prk info n (i + 1) t'

/-- HKDF-Expand to `len` bytes. -/
def hkdfExpand (prk info : Bytes) (len : Nat) : Bytes := (hkdfBlocks prk info ((len + 31) / 32) 1 []).take len

/-! ### AES-256

A block is a number of 128 bits, its first byte most significant. -/

/-- The S-box of FIPS 197: the value of byte x stands in bits 8x to 8x + 7. -/
def sboxTable : Nat := 0x16BB54B00F2D99416842E6BF0D89A18CDF2855CEE9871E9B948ED9691198F8E19E1DC186B95735610EF6034866B53E708A8BBD4B1F74DDE8C6B4A61C2E2578BA * 2 ^ 1536 +
  0x08AE7A65EAF4566CA94ED58D6D37C8E779E4959162ACD3C25C2406490A3A32E0DB0B5EDE14B8EE4688902A22DC4F816073195D643D7EA7C41744975FEC130CCD * 2 ^ 1024 +
  0xD2F3FF1021DAB6BCF5389D928F40A351A89F3C507F02F94585334D43FBAAEFD0CF584C4A39BECB6A5BB1FC20ED00D153842FE329B3D63B52A05A6E1B1A2C8309 * 2 ^ 512 +
  0x75B227EBE28012079A059618C323C7041531D871F1E5A534CCF73F362693FDB7C072A49CAFA2D4ADF04759FA7DC982CA76ABD7FE2B670130C56F6BF27B777C63

/-- The inverse S-box, likewise. -/
def invSboxTable : Nat := 0x7D0C2155631469E126D677BA7E042B17619953833CBBEBC8B0F52AAE4D3BE0A0EF9CC9939F7AE52D0D4AB519A97F51605FEC8027591012B131C7078833A8DD1F * 2 ^ 1536 +
  0xF45ACD78FEC0DB9A2079D2C64B3E56FC1BBE18AA0E62B76F89C5291D711AF1476EDF751CE837F9E28535ADE72274AC9673E6B4F0CECFF297EADC674F4111913A * 2 ^ 1024 +
  0x6B8A130103BDAFC1020F3FCA8F1E2CD00645B3B80558E4F70AD3BC8C00ABD890849D8DA75746155EDAB9EDFD5048706C92B6655DCC5CA4D41698688664F6F872 * 2 ^ 512 +
  0x25D18B6D49A25B76B224D92866A12E084EC3FA420B954CEE3D23C2A632947B54CBE9DEC444438E3487FF2F9B8239E37CFBD7F3819EA340BF38A53630D56A0952

/-- A table's value for each of the `n` bytes of a number. -/
def subBytes (table : Nat) : Nat → Nat → Nat
  | 0, _ => 0
  | n + 1, x => subBytes table n (x / 256) * 256 + table >>> (8 * (x % 256)) % 256

/-- Key schedule: 60 words, newest first, from the eight key words in that order. -/
def aesExpand : Nat → Nat → Nat → List Nat → List Nat
  | 0, _, _, w => w
  | n + 1, i, rc, w =>
    let t := w.headD 0
    let t := if i % 8 = 0 then subBytes sboxTable 4 (t * 256 % 4294967296 + t / 16777216) ^^^ (rc * 16777216)
      else if i % 8 = 4 then subBytes sboxTable 4 t else t
    aesExpand n (i + 1) (if i % 8 = 0 then rc * 2 else rc) ((w.getD 7 0 ^^^ t) :: w)

/-- The 15 round keys of a 256-bit key. -/
def roundKeys (key : U256) : List Nat :=
  let w := (aesExpand 52 8 1 ((List.range 8).map fun i => key.toNat >>> (32 * (7 - i)) % 4294967296).reverse).reverse
  (List.range 15).map fun r => ((w.drop (4 * r)).take 4).foldl (fun a x => a * 4294967296 + x) 0

/-- The block rotated left by `n` columns of four bytes. -/
def rotCols (n x : Nat) : Nat := (x * 340282366920938463463374607431768211457) >>> (128 - 32 * n) % 2 ^ 128

/-- ShiftRows, row r by `step * r` columns; step 3 is the inverse. -/
def shiftRows (step x : Nat) : Nat :=
  (x &&& 0xFF000000FF000000FF000000FF000000) ^^^ (rotCols step x &&& 0x00FF000000FF000000FF000000FF0000)
    ^^^ (rotCols 2 x &&& 0x0000FF000000FF000000FF000000FF00) ^^^ (rotCols (4 - step) x &&& 0x000000FF000000FF000000FF000000FF)

/-- Each byte times x modulo x^8 + x^4 + x^3 + x + 1. -/
def xtimes (x : Nat) : Nat :=
  (x &&& 0x7F7F7F7F7F7F7F7F7F7F7F7F7F7F7F7F) * 2 ^^^ (x >>> 7 &&& 0x01010101010101010101010101010101) * 27

/-- Each column rotated by one byte, the second byte coming first. -/
def rotBytes (x : Nat) : Nat :=
  (x &&& 0x00FFFFFF00FFFFFF00FFFFFF00FFFFFF) * 256 ^^^ (x >>> 24 &&& 0x000000FF000000FF000000FF000000FF)

/-- MixColumns: 2, 3, 1, 1. -/
def mixCols (x : Nat) : Nat :=
  let y := rotBytes x
  let z := rotBytes y
  xtimes x ^^^ xtimes y ^^^ y ^^^ z ^^^ rotBytes z

/-- The inverse of MixColumns: 14, 11, 13, 9. -/
def invMixCols (x : Nat) : Nat :=
  let y := xtimes (xtimes (x ^^^ rotBytes (rotBytes x)))
  mixCols (x ^^^ y)

def aesRounds : List Nat → Nat → Nat
  | [], x => x
  | [k], x => shiftRows 1 (subBytes sboxTable 16 x) ^^^ k
  | k :: ks, x => aesRounds ks (mixCols (shiftRows 1 (subBytes sboxTable 16 x)) ^^^ k)

/-- AES-256 encryption of one block of 16 bytes. (PRESUMED, log entry 25) -/
def aes (key : U256) (block : Bytes) : Bytes :=
  match roundKeys key with
  | [] => block
  | k :: ks => beBytes 16 (aesRounds ks (beNat block ^^^ k))

def aesInvRounds : List Nat → Nat → Nat
  | [], x => x
  | [k], x => subBytes invSboxTable 16 (shiftRows 3 x) ^^^ k
  | k :: ks, x => aesInvRounds ks (invMixCols (subBytes invSboxTable 16 (shiftRows 3 x) ^^^ k))

/-- AES-256 decryption of one block. -/
def aesInv (key : U256) (block : Bytes) : Bytes :=
  match (roundKeys key).reverse with
  | [] => block
  | k :: ks => beBytes 16 (aesInvRounds ks (beNat block ^^^ k))

/-- `n` blocks of key stream: block i is AES of the counter block `ctr i`. -/
def ctrStream (key : U256) (ctr : Nat → Bytes) (n : Nat) : Bytes := (List.range n).flatMap fun i => aes key (ctr i)

/-! ### XTS (IEEE 1619) -/

/-- The next tweak: a product by the primitive element, of numbers whose first byte is least significant. -/
def tweakNext (x : Nat) : Nat := x * 2 % 2 ^ 128 ^^^ (x >>> 127) * 0x87

/-- AES-256-XTS over the whole blocks of a data unit. -/
def xtsBlocks (key : U256) : Nat → Nat → Bytes → Bytes
  | 0, _, _ => []
  | n + 1, tw, b =>
    let mask := leBytes 16 tw
    xorBytes (aes key (xorBytes (b.take 16) mask)) mask ++ xtsBlocks key n (tweakNext tw) (b.drop 16)

/-- The data key, the tweak key, the number of the data unit, and its plain bytes. (PRESUMED, log entry 25) -/
def xts (key tweakKey : U256) (number : Nat) (unit : Bytes) : Bytes :=
  xtsBlocks key (unit.length / 16) (leNat (aes tweakKey (leBytes 16 number))) unit

/-! ### GCM -/

/-- Product in GF(2^128) in the bit order of SP 800-38D, of numbers below 2^128; bit 0 of the standard is the most
significant bit here. -/
def ghashMul : Nat → Nat → Nat → Nat
  | 0, _, _ => 0
  | n + 1, x, v => v * (x >>> n % 2) ^^^ ghashMul n x (v >>> 1 ^^^ v % 2 * (0xE1 * 2 ^ 120))

def ghash (h : Nat) (b : Bytes) : Nat :=
  (List.range (b.length / 16)).foldl (fun y i => ghashMul 128 (y ^^^ beNat ((b.drop (16 * i)).take 16)) h) 0

def pad16 (b : Bytes) : Bytes := b ++ zeroBytes ((16 - b.length % 16) % 16)

/-- AES-256-GCM with a 12-byte IV: ciphertext (or plaintext) and tag over the ciphertext `c`. -/
def gcmCrypt (key : U256) (iv m : Bytes) : Bytes :=
  xorBytes m (ctrStream key (fun i => iv ++ beBytes 4 (i + 2)) ((m.length + 15) / 16))

/-- (PRESUMED, log entry 25) -/
def gcmTag (key : U256) (iv aad c : Bytes) : U128 :=
  let s := ghash (beNat (aes key (zeroBytes 16))) (pad16 aad ++ pad16 c ++ beBytes 8 (8 * aad.length) ++ beBytes 8 (8 * c.length))
  BitVec.ofNat 128 (s ^^^ beNat (aes key (iv ++ beBytes 4 1)))

/-! ### Key wrap with padding (SP 800-38F) -/

/-- One pass of six over the registers: A and the semiblocks. -/
def kwPass (key : U256) (n : Nat) : Nat → Nat → Bytes → List Bytes → Bytes × List Bytes
  | 0, _, a, r => (a, r)
  | k + 1, t, a, r =>
    let i := n - (k + 1)
    let b := aes key (a ++ r.getD i [])
    kwPass key n k (t + 1) (xorBytes (b.take 8) (beBytes 8 t)) (r.set i (b.drop 8))

def kwPasses (key : U256) (n : Nat) : Nat → Nat → Bytes → List Bytes → Bytes
  | 0, _, a, r => a ++ r.flatten
  | j + 1, t, a, r =>
    let (a', r') := kwPass key n n t a r
    kwPasses key n j (t + n) a' r'

/-- AES-KWP wrap of more than eight bytes. -/
def kwp (key : U256) (m : Bytes) : Bytes :=
  let p := m ++ zeroBytes ((8 - m.length % 8) % 8)
  let n := p.length / 8
  kwPasses key n 6 1 ([0xA6, 0x59, 0x59, 0xA6] ++ beBytes 4 m.length) ((List.range n).map fun i => (p.drop (8 * i)).take 8)

/-! ### P-256 -/

def pP : Nat := 2 ^ 256 - 2 ^ 224 + 2 ^ 192 + 2 ^ 96 - 1
def pN : Nat := 0xFFFFFFFF00000000FFFFFFFFFFFFFFFFBCE6FAADA7179E84F3B9CAC2FC632551
def pB : Nat := 0x5AC635D8AA3A93E7B3EBBD55769886BC651D06B0CC53B0F63BCE3C3E27D2604B
def pGx : Nat := 0x6B17D1F2E12C4247F8BCE6E563A440F277037D812DEB33A0F4A13945D898C296
def pGy : Nat := 0x4FE342E2FE1A7F9B8EE7EB4A7C0F9E162BCE33576B315ECECBB6406837BF51F5

/-- Modular power, `fuel` bits of exponent. -/
def powMod (m : Nat) : Nat → Nat → Nat → Nat
  | 0, _, _ => 1 % m
  | fuel + 1, b, e =>
    let h := powMod m fuel (b * b % m) (e / 2)
    if e % 2 = 1 then h * b % m else h

/-- Inverse modulo a prime. -/
def invMod (m a : Nat) : Nat := powMod m (Nat.log2 m + 1) (a % m) (m - 2)

/-- A point of the curve; none is the point at infinity. -/
abbrev Point := Option (Nat × Nat)

def subP (a b : Nat) : Nat := (a + pP - b % pP) % pP

def padd : Point → Point → Point
  | none, q => q
  | p, none => p
  | some (x1, y1), some (x2, y2) =>
    if x1 = x2 ∧ (y1 + y2) % pP = 0 then none
    else
      let l := if x1 = x2 then (3 * x1 * x1 + (pP - 3)) * invMod pP (2 * y1) % pP
        else subP y2 y1 * invMod pP (subP x2 x1) % pP
      let x3 := subP (subP (l * l % pP) x1) x2
      some (x3, subP (l * subP x1 x3 % pP) y1)

/-! Scalar multiples are formed in Jacobian coordinates: (X, Y, Z) stands for (X / Z², Y / Z³), Z = 0 for infinity. -/

def jdouble : Nat × Nat × Nat → Nat × Nat × Nat
  | (x, y, z) =>
    let d := z * z % pP
    let g := y * y % pP
    let b := x * g % pP
    let a := 3 * subP x d * (x + d) % pP
    let x3 := subP (a * a % pP) (8 * b)
    (x3, subP (a * subP (4 * b) x3 % pP) (8 * g * g), 2 * y * z % pP)

def jadd : Nat × Nat × Nat → Nat × Nat × Nat → Nat × Nat × Nat
  | (x1, y1, z1), (x2, y2, z2) =>
    if z1 = 0 then (x2, y2, z2)
    else if z2 = 0 then (x1, y1, z1)
    else
      let d1 := z1 * z1 % pP
      let d2 := z2 * z2 % pP
      let u := x1 * d2 % pP
      let v := y1 * d2 * z2 % pP
      let h := subP (x2 * d1 % pP) u
      let r := subP (y2 * d1 * z1 % pP) v
      if h = 0 then (if r = 0 then jdouble (x1, y1, z1) else (1, 1, 0))
      else
        let h2 := h * h % pP
        let h3 := h2 * h % pP
        let uh := u * h2 % pP
        let x3 := subP (subP (r * r % pP) h3) (2 * uh)
        (x3, subP (r * subP uh x3 % pP) (v * h3), h * z1 * z2 % pP)

def jmul : Nat → Nat → Nat × Nat × Nat → Nat × Nat × Nat
  | 0, _, _ => (1, 1, 0)
  | fuel + 1, k, p =>
    let h := jdouble (jmul fuel (k / 2) p)
    if k % 2 = 1 then jadd h p else h

/-- Scalar multiple, `fuel` bits. -/
def pmul (fuel k : Nat) : Point → Point
  | none => none
  | some (x, y) =>
    let r := jmul fuel k (x, y, 1)
    if r.2.2 = 0 then none
    else
      let w := invMod pP r.2.2
      let w2 := w * w % pP
      some (r.1 * w2 % pP, r.2.1 * w2 * w % pP)

def pG : Point := some (pGx, pGy)

/-- The public key of a private scalar. -/
def publicKey (d : Nat) : U512 :=
  match pmul 256 d pG with
  | some (x, y) => BitVec.ofNat 512 (x * 2 ^ 256 + y)
  | none => 0

def keyX (k : U512) : Nat := k.toNat / 2 ^ 256
def keyY (k : U512) : Nat := k.toNat % 2 ^ 256

/-- A key is a point of the curve. -/
def onCurve (k : U512) : Bool :=
  let x := keyX k
  let y := keyY k
  decide (x < pP ∧ y < pP ∧ y * y % pP = (x * x * x + (pP - 3) * x + pB) % pP)

/-- ECDSA verification over a digest: signature r then s. (PRESUMED, log entry 25) -/
def verify (key : U512) (digest : U256) (sig : U512) : Bool :=
  let r := keyX sig
  let s := keyY sig
  if onCurve key ∧ 0 < r ∧ r < pN ∧ 0 < s ∧ s < pN then
    let w := invMod pN s
    match padd (pmul 256 (digest.toNat * w % pN) pG) (pmul 256 (r * w % pN) (some (keyX key, keyY key))) with
    | some (x, _) => x % pN = r
    | none => false
  else false

/-- Verification over a message. -/
def verifyMsg (key : U512) (m : Bytes) (sig : U512) : Bool := verify key (sha256 m) sig

/-- The candidates of RFC 6979, retried while out of range. -/
def detLoop : Nat → Bytes → Bytes → Nat
  | 0, _, _ => 1
  | n + 1, k, v =>
    let v := bytes256 (hmac k v)
    let t := beNat v
    if 0 < t ∧ t < pN then t
    else
      let k := bytes256 (hmac k (v ++ [0]))
      detLoop n k (bytes256 (hmac k v))

/-- The deterministic nonce of RFC 6979. -/
def detNonce (d : Nat) (digest : U256) : Nat :=
  let x := beBytes 32 d
  let h := beBytes 32 (digest.toNat % pN)
  let v := List.replicate 32 (1 : Byte)
  let k := bytes256 (hmac (zeroBytes 32) (v ++ [0] ++ x ++ h))
  let v := bytes256 (hmac k v)
  let k := bytes256 (hmac k (v ++ [1] ++ x ++ h))
  detLoop 8 k (bytes256 (hmac k v))

/-- Deterministic ECDSA of a digest. -/
def sign (d : Nat) (digest : U256) : U512 :=
  let k := detNonce d digest
  match pmul 256 k pG with
  | some (x, _) =>
    let r := x % pN
    BitVec.ofNat 512 (r * 2 ^ 256 + invMod pN k * (digest.toNat + r * d) % pN)
  | none => 0

/-- The x coordinate of d × Q, 32 bytes big-endian; none when Q is no point of the curve. (DESIGN CHOICE, log entry 26) -/
def ecdh (d : Nat) (q : U512) : Option U256 :=
  if onCurve q then
    match pmul 256 d (some (keyX q, keyY q)) with
    | some (x, _) => some (BitVec.ofNat 256 x)
    | none => none
  else none

end Sys2Proof.Crypto
end

