-- ==== Sys2Proof/Machine/Operands.lean ====
section
/-! DEFINITION. The structures commands read: the policy block with its mode and release parameters (R28, R49, R66, R67, R93,
R139), their ranges (check 3 of R29), the fit of a policy to the image (R418), payload lengths (R149), contribution tags
(R222, R239), and object headers (R91). -/

namespace Sys2Proof.Machine

/-- A field lies in a range. -/
def inRange (lo hi n : Nat) : Bool := decide (lo ≤ n ∧ n ≤ hi)

def ceilDiv (a b : Nat) : Nat := (a + b - 1) / b

/-- Bit length. -/
def bitLen (n : Nat) : Nat := if n = 0 then 0 else Nat.log2 n + 1

/-- The least power of two at least n. -/
def nextPow2 (n : Nat) : Nat := if n ≤ 1 then 1 else 2 ^ bitLen (n - 1)

/-! ### Noise bounds (R103) -/

/-- A(d). -/
def noiseStep (d : Nat) : Nat := if d ≤ 2 then 4 else if d ≤ 5 then 3 else if d ≤ 9 then 2 else 1

/-- x ⊕ y, in quarter bits; every result saturates at 255. -/
def noiseAdd (x y : Nat) : Nat := min 255 (max x y + noiseStep (max x y - min x y))

/-- ⌈4 · log2 n⌉. -/
def quarterLog (n : Nat) : Nat := if n ≤ 1 then 0 else bitLen (n ^ 4 - 1)

/-- ⌊4 · log2 n⌋. -/
def quarterLogFloor (n : Nat) : Nat := Nat.log2 (n ^ 4)

/-! ### The policy block (R28) -/

def Mode.code : Mode → Nat
  | .masked => 0 | .shared => 1 | .encrypted => 2

def Mode.ofCode : Nat → Option Mode
  | 0 => some .masked | 1 => some .shared | 2 => some .encrypted | _ => none

def policyBytes : Nat := 416

/-- The fields of a policy block whose MODE is a value of R28. -/
def Policy.parse (b : Bytes) : Option Policy :=
  match Mode.ofCode (fieldLE b 6 1) with
  | none => none
  | some m => some
    { mode := m, twinRelease := (fieldLE b 7 1).testBit 0, inputLog := (fieldLE b 7 1).testBit 1,
      roundId := fieldLE b 8 8, stretchId := fieldLE b 0x10 4, stretchBase := fieldLE b 0x18 8, stretchLen := fieldLE b 0x20 8,
      minCohort := fieldLE b 0x28 4, maxCohort := fieldLE b 0x2C 4, deadlineBeats := fieldLE b 0x30 4,
      recoveryBeats := fieldLE b 0x34 4, finalizeBeats := fieldLE b 0x38 4, chitinHash := Crypto.of256 (fieldB b 0x40 32),
      modeParams := fieldB b 0x60 64, releaseParams := fieldB b 0xA0 128, signerKey := Crypto.of512 (fieldB b 0x120 64),
      signature := Crypto.of512 (fieldB b 0x160 64) }

namespace Policy

/-! Masked mode (R49). -/
def segLen (p : Policy) : Nat := 2 ^ fieldLE p.modeParams 0 1
def circulant (p : Policy) : Bool := fieldLE p.modeParams 1 1 == 1
def degree (p : Policy) : Nat := fieldLE p.modeParams 2 2
def rosterLen (p : Policy) : Nat := fieldLE p.modeParams 4 4
def groupSize (p : Policy) : Nat := fieldLE p.modeParams 8 1
def groupRank (p : Policy) : Nat := fieldLE p.modeParams 9 1
def maskConn (p : Policy) : Nat := fieldLE p.modeParams 0xC 4
/-- S, the segment count. -/
def segments (p : Policy) : Nat := ceilDiv p.stretchLen p.segLen

def maskedOk (p : Policy) : Bool :=
  let b := p.modeParams
  inRange 10 24 (fieldLE b 0 1) && inRange 0 1 (fieldLE b 1 1)
    && (if p.circulant then p.degree % 2 == 0 && inRange 2 256 p.degree && decide (p.degree < p.rosterLen) else p.degree == 0)
    && inRange p.maxCohort 16777216 p.rosterLen && (p.circulant || decide (p.rosterLen ≤ 65536))
    && inRange 1 16 p.groupSize && decide (p.groupRank < p.groupSize) && zerosAt b 0xA 2
    && (p.groupSize == 1 || decide (p.maskConn < 2 ^ 24)) && zerosAt b 0x10 48 && decide (p.segments ≤ 65535)

/-- Roster neighbours (R49). -/
def neighbour (p : Policy) (i j : Nat) : Bool :=
  i != j && (!p.circulant ||
    let d := (j + p.rosterLen - i % p.rosterLen) % p.rosterLen
    inRange 1 (p.degree / 2) d || inRange 1 (p.degree / 2) (p.rosterLen - d))

/-- Words of segment g (R50). -/
def segWords (p : Policy) (g : Nat) : Nat :=
  if g + 1 = p.segments then p.stretchLen - (p.segments - 1) * p.segLen else p.segLen

/-! Shared mode (R66, R67). -/
def parties (p : Policy) : Nat := fieldLE p.modeParams 0 1
def partyIndex (p : Policy) : Nat := fieldLE p.modeParams 1 1
def circuit (p : Policy) : Nat := fieldLE p.modeParams 2 1
def bits (p : Policy) : Nat := fieldLE p.modeParams 3 1
def verifyBeats (p : Policy) : Nat := fieldLE p.modeParams 4 4
def normBound (p : Policy) : Nat := fieldLE p.modeParams 8 8
def shareConn (p : Policy) : Nat := fieldLE p.modeParams 0x10 4

/-- m, the wire length. -/
def wireLen (p : Policy) : Nat :=
  match p.circuit with
  | 1 => p.stretchLen * p.bits
  | 2 => p.stretchLen * p.bits + bitLen p.normBound
  | _ => p.stretchLen
/-- L, the gadget-call count. -/
def gadgets (p : Policy) : Nat :=
  match p.circuit with
  | 1 => p.stretchLen * p.bits
  | 2 => p.stretchLen * p.bits + bitLen p.normBound + p.stretchLen
  | _ => p.stretchLen
/-- D, the domain size. -/
def domain (p : Policy) : Nat := nextPow2 (p.gadgets + 1)
/-- 2D + 2, the proof length. -/
def proofLen (p : Policy) : Nat := 2 * p.domain + 2

def sharedOk (p : Policy) : Bool :=
  inRange 2 4 p.parties && decide (p.partyIndex < p.parties) && inRange 1 3 p.circuit
    && (if p.circuit = 3 then p.bits == 0 else inRange 1 32 p.bits) && inRange 8 4096 p.verifyBeats
    && (if p.circuit = 2 then inRange 1 (2 ^ 62 - 1) p.normBound else p.normBound == 0)
    && decide (p.shareConn < 2 ^ 24) && zerosAt p.modeParams 0x14 44
    && (match p.circuit with
        | 3 => inRange 2 (2 ^ 22 - 1) p.stretchLen
        | 2 => decide (p.gadgets ≤ 2 ^ 22 - 1) && decide (p.stretchLen * 4 ^ (p.bits - 1) ≤ 2 ^ 62)
        | _ => decide (p.gadgets ≤ 2 ^ 22 - 1))

/-! Encrypted mode (R93). -/
def combine (p : Policy) : Bool := fieldLE p.modeParams 0 1 == 1
def paramSet (p : Policy) : Nat := fieldLE p.modeParams 1 1
def level (p : Policy) : Nat := fieldLE p.modeParams 2 1
def encNtt (p : Policy) : Bool := (fieldLE p.modeParams 3 1).testBit 0
def shamir (p : Policy) : Bool := (fieldLE p.modeParams 3 1).testBit 1
def maxInNoise (p : Policy) : Nat := fieldLE p.modeParams 4 1
def floodBits (p : Policy) : Nat := fieldLE p.modeParams 5 1
def threshold (p : Policy) : Nat := fieldLE p.modeParams 6 1
def keysetId (p : Policy) : Nat := fieldLE p.modeParams 8 8
def ctCount (p : Policy) : Nat := fieldLE p.modeParams 0x10 4
def sourceVA (p : Policy) : Nat := fieldLE p.modeParams 0x18 8
def sourceDigest (p : Policy) : U256 := Crypto.of256 (fieldB p.modeParams 0x20 32)

/-- Slots of a ciphertext: N for BFV, N/2 for CKKS. -/
def slotsOf (r : RingSet) : Nat := if r.ckks then 2 ^ (r.logN - 1) else 2 ^ r.logN

/-- The ranges of R93 and R94 check 3; those of LEVEL and CT_COUNT need the parameter set, and a set that does not exist is
left to check 6. -/
def encryptedOk (p : Policy) (rings : List RingSet) : Bool :=
  let b := p.modeParams
  inRange 0 1 (fieldLE b 0 1) && inRange 0 7 p.paramSet && decide (fieldLE b 3 1 < 4) && (p.combine || !p.shamir)
    && (match rings[p.paramSet]? with
        | some r => decide (p.level < r.q.length) && p.ctCount == ceilDiv p.stretchLen (slotsOf r)
        | none => true)
    && zerosAt b 7 1 && zerosAt b 0x14 4
    && (if p.combine then decide (p.level ≤ 3) && p.maxInNoise == 0 && p.floodBits == 0 && inRange 1 64 p.threshold
          && p.threshold == p.minCohort && decide (p.maxCohort ≤ 64) && (p.shamir || p.maxCohort == p.threshold)
        else inRange 0 60 p.floodBits && p.threshold == 0 && p.sourceVA == 0 && zerosAt b 0x20 32)

/-! Release parameters (R139). -/
def format (p : Policy) : Nat := fieldLE p.releaseParams 0 1
def decodeF (p : Policy) : Nat := fieldLE p.releaseParams 1 1
def stepClip (p : Policy) : Bool := (fieldLE p.releaseParams 2 1).testBit 0
def stepNoise (p : Policy) : Bool := (fieldLE p.releaseParams 2 1).testBit 1
def stepStats (p : Policy) : Bool := (fieldLE p.releaseParams 2 1).testBit 2
def stepOpt (p : Policy) : Bool := (fieldLE p.releaseParams 2 1).testBit 3
def seqOrder (p : Policy) : Bool := fieldLE p.releaseParams 3 1 == 1
def runLen (p : Policy) : Nat := if fieldLE p.releaseParams 4 2 = 0 then 32 else fieldLE p.releaseParams 4 2
def nonfiniteRelease (p : Policy) : Bool := fieldLE p.releaseParams 6 1 == 1
def omitAgg (p : Policy) : Bool := (fieldLE p.releaseParams 7 1).testBit 0
def clipNorm (p : Policy) : U64 := BitVec.ofNat 64 (fieldLE p.releaseParams 8 8)
def sigmaNum (p : Policy) : Nat := fieldLE p.releaseParams 0x10 8
def sigmaDen (p : Policy) : Nat := fieldLE p.releaseParams 0x18 4
def gscaleMode (p : Policy) : Nat := fieldLE p.releaseParams 0x1C 1
def statG (p : Policy) : Nat := fieldLE p.releaseParams 0x1D 1
def optimizer (p : Policy) : Nat := fieldLE p.releaseParams 0x1E 1
def outF (p : Policy) : Nat := fieldLE p.releaseParams 0x1F 1
def gscale (p : Policy) : U64 := BitVec.ofNat 64 (fieldLE p.releaseParams 0x20 8)
def optInVA (p : Policy) : Nat := fieldLE p.releaseParams 0x28 8
def optStep (p : Policy) : Nat := fieldLE p.releaseParams 0x30 4
def lr (p : Policy) : U32 := BitVec.ofNat 32 (fieldLE p.releaseParams 0x34 4)
def beta1 (p : Policy) : U32 := BitVec.ofNat 32 (fieldLE p.releaseParams 0x38 4)
def beta2 (p : Policy) : U32 := BitVec.ofNat 32 (fieldLE p.releaseParams 0x3C 4)
def epsilon (p : Policy) : U32 := BitVec.ofNat 32 (fieldLE p.releaseParams 0x40 4)

/-- An encrypted SUM round. -/
def isSum (p : Policy) : Bool := p.mode == .encrypted && !p.combine

def finite64 (x : U64) : Bool := (x.extractLsb' 52 11).toNat != 2047
def finite32 (x : U32) : Bool := (x.extractLsb' 23 8).toNat != 255
/-- FP32 in [0, 1). -/
def unit32 (x : U32) : Bool := decide (x.toNat < 0x3F800000) || x == 0x80000000

/-- The ranges of R139. In an encrypted SUM round FORMAT, STEPS, DECODE_F and the noise fields are judged, and every other
field is zero (R140). -/
def releaseOk (p : Policy) : Bool :=
  let b := p.releaseParams
  [0x01, 0x02, 0x03, 0x04, 0x05, 0x10].contains p.format && inRange 0 31 p.decodeF && decide (fieldLE b 2 1 < 16)
    && inRange 0 1 (fieldLE b 3 1) && (fieldLE b 4 2 == 0 || fieldLE b 4 2 == 1 || inRange 4 256 (fieldLE b 4 2))
    && inRange 0 1 (fieldLE b 6 1) && decide (fieldLE b 7 1 < 2)
    && (if p.stepClip then finite64 p.clipNorm && inRange 1 (2 ^ 63 - 1) p.clipNorm.toNat else p.clipNorm == 0)
    && (if p.stepNoise || p.isSum then inRange 1 (2 ^ 32 - 1) p.sigmaDen && inRange p.sigmaDen (2 ^ 62) p.sigmaNum
        else p.sigmaNum == 0 && p.sigmaDen == 0)
    && (if p.stepStats then inRange 5 36 p.statG && decide (ceilDiv p.stretchLen (2 ^ p.statG) ≤ 65536) else p.statG == 0)
    && (if p.format = 0x05 then inRange 0 31 p.outF else p.outF == 0)
    && (if p.isSum then p.gscaleMode == 0 && p.gscale == 0 && zerosAt b 3 5
        else inRange 0 1 p.gscaleMode && finite64 p.gscale && p.gscale.toNat % 2 ^ 63 != 0)
    && (if p.stepOpt then
          inRange 0 2 p.optimizer && p.optInVA % 64 == 0 && finite32 p.lr
            && (match p.optimizer with
                | 0 => p.beta1 == 0 && p.optStep == 0 && p.beta2 == 0 && p.epsilon == 0
                | 1 => unit32 p.beta1 && p.optStep == 0 && p.beta2 == 0 && p.epsilon == 0
                | _ => unit32 p.beta1 && inRange 1 (2 ^ 31 - 1) p.optStep && unit32 p.beta2
                        && inRange 1 0x7F7FFFFF p.epsilon.toNat)
        else p.optimizer == 0 && p.optInVA == 0 && zerosAt b 0x30 20)
    && zerosAt b 0x44 60

/-- Check 3 of R29 on the block's bytes: the policy when every range and reserved field is right. -/
def check3 (b : Bytes) (rings : List RingSet) : Option Policy :=
  match Policy.parse b with
  | none => none
  | some p =>
    if b.length == policyBytes && fieldLE b 0 4 == 0x50584E57 && fieldLE b 4 2 == 1 && decide (fieldLE b 7 1 < 4)
        && p.roundId != 0 && zerosAt b 0x14 4 && zerosAt b 0x3C 4 && inRange 1 68719476736 p.stretchLen
        && inRange 1 16777216 p.minCohort && inRange p.minCohort 16777216 p.maxCohort && inRange 1 (2 ^ 32 - 1) p.deadlineBeats
        && inRange 1 (2 ^ 32 - 1) p.recoveryBeats && inRange 1 (2 ^ 32 - 1) p.finalizeBeats && p.releaseOk
        && (match p.mode with
            | .masked => p.maskedOk
            | .shared => p.sharedOk
            | .encrypted => p.encryptedOk rings)
    then some p else none

/-! ### Lengths -/

end Policy

/-- The sections of a payload (R149). -/
inductive PayloadPart where
  | aggregate | optimizer | statistics
  deriving DecidableEq, Repr

namespace Policy

/-- Bytes per element of a FORMAT (R147). -/
def formatBytes (p : Policy) : Nat :=
  match p.format with
  | 0x02 => 8 | 0x03 => 2 | 0x04 => 2 | _ => 4

def pad64 (n : Nat) : Nat := ceilDiv n 64 * 64

/-- BODY_BYTES of an object of the set (R91). -/
def bodyBytes (r : RingSet) (parts level : Nat) : Nat := parts * (level + 1) * 2 ^ r.logN * 4

/-- Arrays of optimizer state (R146). -/
def optArrays (p : Policy) : Nat := p.optimizer + 1

/-- The sections of the payload of a round other than a SUM round, in order, each with its bytes before padding (R149). -/
def sections (p : Policy) : List (PayloadPart × Nat) :=
  (if p.omitAgg then [] else [(.aggregate, p.stretchLen * p.formatBytes)])
    ++ (if p.stepOpt then [(.optimizer, 4 * p.stretchLen * p.optArrays)] else [])
    ++ (if p.stepStats then [(.statistics, 48 * ceilDiv p.stretchLen (2 ^ p.statG))] else [])

/-- The payload length (R149). -/
def payloadLen (p : Policy) (rings : List RingSet) : Nat :=
  if p.isSum then
    match rings[p.paramSet]? with
    | some r => p.ctCount * (64 + bodyBytes r 2 p.level)
    | none => 0
  else (p.sections.map fun x => pad64 x.2).sum

/-- The bytes of staging that a policy's enabled steps need beside the payload (R140, R418): the spec gives no figure, so it is
free where a step of RELEASE_PARAMS is enabled, and none where no step is. (DESIGN CHOICE, log entry 158) -/
def tallyNeed (p : Policy) : Nat := if fieldLE p.releaseParams 2 1 = 0 then 0 else Config.tallyStaging p.releaseParams p.stretchLen

/-- The largest message of the round's mode (R50, R70, R95): what one slot of MODE_STAGE holds. -/
def largestMsg (p : Policy) (rings : List RingSet) : Nat :=
  match p.mode with
  | .masked => 16 + 4 * p.segWords 0
  | .shared => 48 + 8 * (p.wireLen + p.proofLen)
  | .encrypted => match rings[p.paramSet]? with
    | some r => 80 + bodyBytes r (if p.combine then 1 else 2) p.level
    | none => 80

/-- What MODE_LIMIT bounds (R167). -/
def limitOf (p : Policy) : Nat :=
  match p.mode with
  | .masked => p.rosterLen
  | .shared => p.gadgets
  | .encrypted => p.ctCount

/-- Accumulator bytes of the round (R44). -/
def accBytes (p : Policy) (rings : List RingSet) : Nat :=
  match p.mode with
  | .masked => 4 * p.stretchLen
  | .shared => 8 * p.stretchLen
  | .encrypted => match rings[p.paramSet]? with
    | some r => p.ctCount * (64 + bodyBytes r 2 p.level)
    | none => 0

/-- A ROUND_LAYOUT record fits the policy (R418). -/
def fits (p : Policy) (rings : List RingSet) (r : LayoutRec) : Bool :=
  r.mode == p.mode && decide (p.stretchLen ≤ r.maxStretch) && decide (p.payloadLen rings + p.tallyNeed ≤ r.stageBytes)
    && decide (p.largestMsg rings ≤ r.modeStage) && decide (p.limitOf ≤ r.modeLimit)

/-- The layout part of check 6 (R418). -/
def layoutsAllow (p : Policy) (i : Image) : Bool :=
  let big := i.layouts.filter fun r => r.mode == p.mode && decide (p.stretchLen ≤ r.maxStretch)
  big.isEmpty || big.any (p.fits i.rings)

/-- KIND of the contributions' tag (R50, R70, R95). -/
def tagKind (p : Policy) : Nat :=
  match p.mode with
  | .masked => 1
  | .shared => 2
  | .encrypted => if p.combine then 4 else 3

/-- The number of messages of a complete contribution: S, 1 or C. -/
def messages (p : Policy) : Nat :=
  match p.mode with
  | .masked => p.segments
  | .shared => 1
  | .encrypted => p.ctCount

end Policy

/-- The ledger key of a signer (R42). -/
def signerId (k : U512) : U128 := Crypto.first128 (Crypto.keyHash k)

/-! ### Contribution tags (R222): kind, contributor index, low halves of STRETCH_ID and ROUND_ID -/

def tagOf (kind contrib stretch round : Nat) : U64 :=
  BitVec.ofNat 64 (kind <<< 56 ||| (contrib % 2 ^ 24) <<< 32 ||| (stretch % 2 ^ 16) <<< 16 ||| round % 2 ^ 16)
def tagKindOf (t : U64) : Nat := t.toNat / 2 ^ 56
def tagContrib (t : U64) : Nat := t.toNat / 2 ^ 32 % 2 ^ 24
def tagStretch (t : U64) : Nat := t.toNat / 2 ^ 16 % 2 ^ 16
def tagRound (t : U64) : Nat := t.toNat % 2 ^ 16

/-- The tag, apart from its contributor, that the pool entry of a round takes (R239). -/
def poolMatches (p : Policy) (t : U64) : Bool :=
  tagKindOf t == p.tagKind && tagStretch t == p.stretchId % 2 ^ 16 && tagRound t == p.roundId % 2 ^ 16

/-! ### Object headers (R91) -/

/-- CRC-32C (reflected polynomial 0x82F63B78), bit by bit. -/
def crcByte : Nat → U32 → U32
  | 0, c => c
  | n + 1, c => crcByte n (if c.getLsbD 0 then (c >>> 1) ^^^ 0x82F63B78 else c >>> 1)

def crc32c (b : Bytes) : U32 := ~~~(b.foldl (fun c x => crcByte 8 (c ^^^ x.setWidth 32)) 0xFFFFFFFF)

/-- The fields of an object header. -/
structure ObjHeader where
  fmt : Nat
  ckks : Bool
  logN : Nat
  level : Nat
  parts : Nat
  noise : Nat
  scale : Nat
  keyset : Nat
  ntt : Bool
  poisoned : Bool
  paramSet : Nat
  bodyBytes : Nat
  deriving DecidableEq, Repr

/-- The 64 bytes of a header, with its CHECK. -/
def ObjHeader.bytes (h : ObjHeader) : Bytes :=
  let b := leBytes 1 h.fmt ++ leBytes 1 (if h.ckks then 1 else 0) ++ leBytes 1 h.logN ++ leBytes 1 h.level ++ leBytes 1 h.parts
    ++ leBytes 1 h.noise ++ leBytes 2 h.scale ++ leBytes 8 h.keyset
    ++ leBytes 1 ((if h.ntt then 1 else 0) + if h.poisoned then 2 else 0) ++ leBytes 1 h.paramSet ++ zeroBytes 6
    ++ leBytes 8 h.bodyBytes ++ zeroBytes 28
  b ++ leBytes 4 (crc32c b).toNat

/-- Parse a header; none where CHECK fails, FORMAT is invalid or a reserved byte is set (R92). -/
def ObjHeader.parse (b : Bytes) : Option ObjHeader :=
  if fieldLE b 0x3C 4 == (crc32c (b.take 0x3C)).toNat && inRange 1 4 (fieldLE b 0 1) && zerosAt b 0x12 6 && zerosAt b 0x20 28
      && decide (fieldLE b 0x10 1 < 4) && decide (fieldLE b 1 1 < 2)
  then some ⟨fieldLE b 0 1, fieldLE b 1 1 == 1, fieldLE b 2 1, fieldLE b 3 1, fieldLE b 4 1, fieldLE b 5 1, fieldLE b 6 2,
    fieldLE b 8 8, (fieldLE b 0x10 1).testBit 0, (fieldLE b 0x10 1).testBit 1, fieldLE b 0x11 1, fieldLE b 0x18 8⟩
  else none

end Sys2Proof.Machine
end

