-- ==== Sys2Proof/WellFormed.lean ====
section
/-! DEFINITION. Well-formedness of a command as syntax: the field values the beat instruction set calls invalid (R183, R184,
R187), and the shapes that lists of measurements must have. -/

namespace Sys2Proof

/-- A stepped field stays within its file over all repetitions (R183). -/
def stepOk (stepped : Bool) (start : Nat) (rep : BitVec 12) (limit : Nat) : Bool :=
  !stepped || decide (start + rep.toNat ≤ limit)

def VFmt.wf (f : VFmt) : Bool :=
  decide (f.mod.toNat ≤ 16) && stepOk (f.step.getLsbD 0) f.vd.toNat f.rep 255 && stepOk (f.step.getLsbD 1) f.va.toNat f.rep 255
    && stepOk (f.step.getLsbD 2) f.vb.toNat f.rep 255 && stepOk (f.step.getLsbD 3) f.tile.toNat f.rep 63

def MFmt.wf (f : MFmt) : Bool :=
  decide (f.mod.toNat ≤ 16) && stepOk (f.step.getLsbD 0) f.vd.toNat f.rep 255 && stepOk (f.step.getLsbD 3) f.tile.toNat f.rep 63

def OFmt.wf (f : OFmt) : Bool := decide (f.mod.toNat ≤ 16)

/-- Measurements come as one value per source. -/
def BoundaryInputs.wf (m : BoundaryInputs) : Bool :=
  m.dieDraw.length == 8 && m.siteDraw.length == 8 && m.laneDraw.length == 8

def WindowSample.wf (w : WindowSample) : Bool := w.bits.length == 32 && w.trims.length == 32

/-- Well-formed commands. -/
def Instr.wf : Instr → Bool
  | .vadd _ f | .vsub _ f | .vneg _ f | .vmov _ f | .vsplat _ f | .vmul _ f | .vmuls _ f | .vred _ f | .tacc _ f
  | .tmac _ f | .tmacs _ f | .tread _ f | .tpois _ f => f.wf
  | .ld _ f | .st _ f => f.wf && f.mod == 0
  | .tld _ f | .tst _ f => f.wf
  | .nstage _ f | .istage _ f | .nttl _ f | .inttl _ f | .ctAdd _ f | .ctSub _ f | .ctAddp _ f | .ctMulp _ f | .ctMul _ f
  | .ctRot _ f | .ctConj _ f | .ctRescale _ f | .ctDrop _ f | .ctNtt _ f | .ctIntt _ f | .ctSlotsum _ f | .molt _ f
  | .moltEx _ f | .ctFlood _ f | .ctCombine _ f | .vshare _ f | .vcheck _ f => f.wf
  | .autol _ f => f.wf && f.p24.getLsbD 0
  | .loop _ f => decide (1 ≤ f.imm.toNat ∧ f.imm.toNat < 2 ^ 32)
  | .beatBoundary m => m.wf
  | .entropyWindowEnd w => w.wf
  | .energyCalibration c => c.dieDraw.length == 8
  | _ => true

end Sys2Proof
end

