-- ==== Sys2Proof/Machine/ImageChecks.lean ====
section
/-! DEFINITION. The chitin image: its parsing with the format check of PART_LOAD (R163 to R168, check 3 of R170), the checks
of its parameter sets (R85 to R87, R112, R115, R117), of its programs (check 8: R181, R182, R187, R190, R195), and its
schedule budget (R155). -/

namespace Sys2Proof.Machine

/-! ### Sections (R164, R165) -/

/-- An entry of the section table. -/
structure Section where
  typ : Nat
  die : Nat
  job : Nat
  offset : Nat
  length : Nat
  deriving DecidableEq, Repr

/-- PRT_IMG_FAIL's section number for a failure of no section. -/
def noSection : Nat := 0x3FF

def sectionAt (b : Bytes) (i : Nat) : Option Section :=
  let e := fieldB b (0x100 + 32 * i) 32
  if zerosAt e 4 4 && zerosAt e 0x18 8 then
    some ⟨fieldLE e 0 2, fieldLE e 2 1, fieldLE e 3 1, fieldLE e 8 8, fieldLE e 16 8⟩
  else none

/-- The number of an image's section of a type, die and job. -/
def sectionNumber (b : Bytes) (typ die job : Nat) : Nat :=
  ((List.range (fieldLE b 0x1A 2)).find? fun i => match sectionAt b i with
    | some s => s.typ == typ && s.die == die && s.job == job
    | none => false).getD noSection

/-- DIE and JOB of a section type (R165). -/
def sectionKeyOk (dies jobs : Nat) (s : Section) : Bool :=
  if inRange 1 7 s.typ then s.die == 0xFF && s.job == 0xFF
  else if s.typ = 8 then decide (s.die < dies) && s.job == 0xFF
  else s.typ == 9 && decide (s.die < dies) && decide (s.job < jobs)

/-- The header ranges of R164. -/
def headerOk (b : Bytes) : Bool :=
  let n := fieldLE b 0x10 1
  let per := fieldLE b 0x1C 4
  fieldLE b 0 4 == 0x4E544843 && fieldLE b 4 2 == 1 && fieldLE b 6 2 == 256 && fieldLE b 8 8 == b.length
    && inRange 1 8 n && inRange 0 7 (fieldLE b 0x11 1) && inRange 1 7 (fieldLE b 0x12 1) && inRange 1 4 (fieldLE b 0x13 1)
    && inRange 1 2400 (fieldLE b 0x18 2) && inRange 1 512 (fieldLE b 0x1A 2) && inRange 1024 65536 per && nextPow2 per == per
    && decide (fieldLE b 0x20 4 < per) && zerosAt b 0x24 12 && zerosAt b (0x30 + 4 * n) (32 - 4 * n) && zerosAt b 0x90 112
    && decide (0x100 + 32 * fieldLE b 0x1A 2 + 128 ≤ b.length)

/-- Records of a section: its bytes cut into `n` byte pieces; none where its length is no multiple. -/
def records (sb : Bytes) (n : Nat) : Option (List Bytes) :=
  if sb.length % n = 0 then some ((List.range (sb.length / n)).map fun i => fieldB sb (n * i) n) else none

def words32 (b : Bytes) (off n : Nat) : List Nat := (List.range n).map fun i => fieldLE b (off + 4 * i) 4

/-- A ring parameter set record (R166). -/
def parseRing (b : Bytes) : Option RingSet :=
  let n := fieldLE b 2 1
  let k := fieldLE b 3 1
  if inRange 0 1 (fieldLE b 0 1) && inRange 12 17 (fieldLE b 1 1) && inRange 1 64 n && decide (k ≤ 16) && zerosAt b 0xD 3
      && zerosAt b (0x10 + n) (64 - n) && zerosAt b (0x50 + 4 * n) (256 - 4 * n) && zerosAt b (0x150 + 4 * k) (64 - 4 * k)
      && zerosAt b (0x190 + 4 * n) (256 - 4 * n) && zerosAt b (0x290 + 4 * k) (64 - 4 * k) && zerosAt b 0x2D0 48
      && (fieldLE b 0 1 == 0 || fieldLE b 4 4 == 0) then
    some ⟨fieldLE b 0 1 == 1, fieldLE b 1 1, words32 b 0x50 n, words32 b 0x150 k, fieldLE b 4 4, fieldLE b 8 1, fieldLE b 9 1,
      fieldLE b 10 1, fieldLE b 11 1, fieldLE b 12 1, (List.range n).map fun i => fieldLE b (0x10 + i) 1, words32 b 0x190 n,
      words32 b 0x290 k⟩
  else none

/-- A molt parameter set record (R111); a set reserved byte is kept as an impossible outer set, for check 7. -/
def parseMolt (b : Bytes) : MoltSet :=
  ⟨fieldLE b 0 1, if zerosAt b 0x1C 36 then fieldLE b 1 1 else 255, fieldLE b 2 2, fieldLE b 4 4, fieldLE b 8 4, fieldLE b 0xC 4,
    fieldLE b 0x10 4, fieldLE b 0x14 1, fieldLE b 0x15 1, fieldLE b 0x16 1, fieldLE b 0x17 1, fieldLE b 0x18 1, fieldLE b 0x19 1,
    fieldLE b 0x1A 2⟩

def signed16 (n : Nat) : Int := if n < 2 ^ 15 then n else (n : Int) - 2 ^ 16

/-- Table group records (R115). A record whose PREC or K_OUT is out of range, or that the section cuts short, ends the parse and is
refused by check 7; a set reserved byte, or padding that is not zero, is kept as an absent molt set. -/
def parseGroups : Nat → Bytes → List TableGroup
  | 0, _ => []
  | fuel + 1, b =>
    if b.isEmpty then []
    else
      let p := fieldLE b 1 1
      let k := fieldLE b 2 1
      if inRange 1 7 p && inRange 1 4 k then
        let n := k * 2 ^ p
        let len := ceilDiv (16 + 2 * n) 16 * 16
        if b.length < len then [⟨255, p, k, 0, []⟩]
        else ⟨if zerosAt b 3 5 && zerosAt b (16 + 2 * n) (len - 16 - 2 * n) then fieldLE b 0 1 else 255, p, k, fieldLE b 8 8,
          (List.range n).map fun i => signed16 (fieldLE b (16 + 2 * i) 2)⟩ :: parseGroups fuel (b.drop len)
      else [⟨255, p, k, 0, []⟩]

/-- A modulus-table entry (R179); its KIND is judged with the rest of it by check 8 (R181). -/
def parseModEntry (b : Bytes) : Option ModEntry :=
  if zerosAt b 15 1 then
    some ⟨fieldLE b 0 8, fieldLE b 8 5, fieldLE b 13 1, fieldLE b 14 1⟩
  else none

/-- A MEMORY_MAP record (R167, R201, R362): ranges inside the address space and outside the load window, no RXT place or BAR
permission on host pages, SRAM on a cluster of CLUSTER_USE. -/
def parseMap (use : List U32) (b : Bytes) : Option MapRec :=
  let va := fieldLE b 0 8
  let len := fieldLE b 8 8
  let back := fieldLE b 0x10 1
  let die := fieldLE b 0x11 1
  let cl := fieldLE b 0x12 1
  let perms := fieldLE b 0x13 1
  if va % 2 ^ 16 = 0 ∧ len % 2 ^ 16 = 0 ∧ 0 < len ∧ va + len ≤ 0xFFC0000000 ∧ back ≤ 2 ∧ perms < 32 ∧ zerosAt b 0x14 12
      ∧ (back = 2 → perms / 4 % 4 = 0) ∧ (back = 0 → (use.getD die 0).getLsbD cl = true ∧ cl < 32) then
    some ⟨va, len, back, die, cl, BitVec.ofNat 5 perms⟩
  else none

/-- A ROUND_LAYOUT record (R167). -/
def parseLayout (jobs : Nat) (b : Bytes) : Option LayoutRec :=
  match Mode.ofCode (fieldLE b 0 1) with
  | some m =>
    if decide (fieldLE b 1 1 < 16) && inRange 0 1 (fieldLE b 2 1) && decide (fieldLE b 3 1 < jobs) && zerosAt b 4 4
        && zerosAt b 0x38 8 then
      some ⟨m, BitVec.ofNat 4 (fieldLE b 1 1), fieldLE b 2 1, fieldLE b 3 1, fieldLE b 8 8, fieldLE b 0x10 8, fieldLE b 0x18 8,
        fieldLE b 0x20 8, fieldLE b 0x28 8, fieldLE b 0x30 8⟩
    else none
  | none => none

/-- Each context stands in at most one record per mode. -/
def layoutsDistinct : List LayoutRec → Bool
  | [] => true
  | r :: t => (t.all fun q => q.mode != r.mode || q.contexts &&& r.contexts == 0) && layoutsDistinct t

/-- A JOBS record (R168); QUANTUM is ignored for a single job. -/
def parseJob (jobs : Nat) (b : Bytes) : Option JobRec :=
  if inRange 1 65536 (fieldLE b 0 4) && (jobs == 1 || inRange 1 1048576 (fieldLE b 4 4)) && zerosAt b 8 8 then
    some ⟨fieldLE b 0 4, fieldLE b 4 4⟩
  else none

/-- A PROGRAMS section (R168). -/
def parsePrograms (b : Bytes) : Option DiePrograms :=
  let n := fieldLE b 0 4
  let base := 64 + 64 * n
  let w := (b.length - base) / 16
  let dir := (List.range n).map fun i => (List.range 8).map fun u =>
    (fieldLE b (64 + 64 * i + 8 * u) 4, fieldLE b (64 + 64 * i + 8 * u + 4) 4)
  if inRange 1 1048575 n && zerosAt b 4 60 && decide (base ≤ b.length) && (b.length - base) % 16 == 0
      && dir.all (fun e => e.all fun sc => decide (sc.1 + sc.2 ≤ w)) then
    some ⟨dir, (List.range w).map fun i => BitVec.ofNat 128 (fieldLE b (base + 16 * i) 16)⟩
  else none

/-- A SCHEDULE entry (R168); `progs` is the program count of its die. -/
def parseEntry (progs : Nat) (b : Bytes) : Option SchedEntry :=
  let refs := (List.range 32).map fun j => fieldLE b (16 + 4 * j) 4
  if zerosAt b 0xC 4 && decide (fieldLE b 0xA 2 < 2) && refs.all (fun r => decide (r = 0xFFFFF ∨ r < progs)) then
    some ⟨fieldLE b 0 4, fieldLE b 4 4, fieldLE b 8 2, fieldLE b 0xA 2 == 1,
      refs.map fun r => if r = 0xFFFFF then none else some r⟩
  else none

/-- Sections stand on multiples of 64 between the table and the signature block, apart from each other, with zero gaps
(R163); `after` is where the next may begin. The number of the first section out of place, if any; a gap that is not zero
concerns no section. -/
def misplaced (b : Bytes) (limit : Nat) : Nat → List (Nat × Section) → Option Nat
  | after, [] => if zerosAt b after (limit - after) then none else some noSection
  | after, (i, s) :: t =>
    if s.offset % 64 ≠ 0 ∨ s.offset < after ∨ limit < s.offset + s.length then some i
    else if !zerosAt b after (s.offset - after) then some noSection
    else misplaced b limit (s.offset + s.length) t

/-- Insertion by OFFSET. -/
def insertSection (s : Nat × Section) : List (Nat × Section) → List (Nat × Section)
  | [] => [s]
  | t :: l => if s.2.offset ≤ t.2.offset then s :: t :: l else t :: insertSection s l

/-- Parse and judge an image (check 3 of R170): the image, or the index of the section at fault. -/
def parseImage (b : Bytes) : Except Nat Image := do
  if !headerOk b then throw noSection
  let dies := fieldLE b 0x10 1
  let jobs := fieldLE b 0x13 1
  let use := (List.range dies).map fun i => BitVec.ofNat 32 (fieldLE b (0x30 + 4 * i) 4)
  let n := fieldLE b 0x1A 2
  let secs ← (List.range n).mapM fun i => match sectionAt b i with
    | some s => if sectionKeyOk dies jobs s then Except.ok s else throw i
    | none => throw i
  let keys := secs.map fun s => (s.typ, s.die, s.job)
  if let some i := (List.range n).find? fun i => (keys.take i).any fun k => keys[i]? == some k then throw i
  if let some i := misplaced b (b.length - 128) (0x100 + 32 * n) (((List.range n).zip secs).foldr insertSection []) then throw i
  let find (t d j : Nat) : Option (Nat × Bytes) :=
    match secs.findIdx? fun s => s.typ == t && s.die == d && s.job == j with
    | some i => match secs[i]? with
      | some s => some (i, fieldB b s.offset s.length)
      | none => none
    | none => none
  let need (t d j : Nat) : Except Nat (Nat × Bytes) := match find t d j with
    | some x => .ok x
    | none => .error noSection
  let parseAll {α : Type} (x : Nat × Bytes) (size most : Nat) (f : Bytes → Option α) : Except Nat (List α) :=
    match records x.2 size with
    | some rs => if rs.length ≤ most then match rs.mapM f with
        | some l => .ok l
        | none => .error x.1
      else .error x.1
    | none => .error x.1
  let rings ← match find 1 0xFF 0xFF with
    | some x => parseAll x 768 8 parseRing
    | none => if (fieldLE b 0x12 1).testBit 2 then throw noSection else pure []
  let molts ← match find 2 0xFF 0xFF with
    | some x => parseAll x 64 2 (some ∘ parseMolt)
    | none => pure []
  let groups ← match find 3 0xFF 0xFF with
    | some x => if molts.isEmpty then throw x.1 else
        let g := parseGroups (x.2.length + 1) x.2
        if g.length ≤ 16 then pure g else throw x.1
    | none => pure []
  let mt ← need 4 0xFF 0xFF
  let mods ← parseAll mt 16 128 parseModEntry
  if mods.length ≠ 128 then throw mt.1
  let mm ← need 5 0xFF 0xFF
  let maps ← parseAll mm 32 (2 ^ 30) (parseMap use)
  let lo ← need 6 0xFF 0xFF
  let layouts ← parseAll lo 64 (2 ^ 30) (parseLayout jobs)
  if !layoutsDistinct layouts then throw lo.1
  let jb ← need 7 0xFF 0xFF
  let jobRecs ← parseAll jb 16 4 (parseJob jobs)
  if jobRecs.length ≠ jobs then throw jb.1
  let progs ← (List.range dies).mapM fun d => do
    let x ← need 8 d 0xFF
    match parsePrograms x.2 with
      | some p => pure p
      | none => throw x.1
  let scheds ← (List.range dies).mapM fun d => (List.range jobs).mapM fun j => do
    let x ← need 9 d j
    let l ← parseAll x 144 65536 (parseEntry ((progs[d]?.map (·.dir.length)).getD 0))
    if some l.length = (jobRecs[j]?.map (·.cycleLen)) then pure l else throw x.1
  pure { imageBytes := b.length, dieCount := dies, minOp := fieldLE b 0x11 1, modes := BitVec.ofNat 3 (fieldLE b 0x12 1),
         beatPeriodMin := fieldLE b 0x14 4, powerBudget := fieldLE b 0x18 2, swapPeriod := fieldLE b 0x1C 4,
         swapPhase := fieldLE b 0x20 4, clusterUse := use, policySignerHash := Crypto.of256 (fieldB b 0x50 32),
         rings := rings, molts := molts, groups := groups, modtab := (List.range 8).map fun u => (mods.drop (16 * u)).take 16,
         memMap := maps, layouts := layouts, jobs := jobRecs, programs := progs, schedules := scheds,
         measurement := Crypto.sha256 (b.take (b.length - 128)) }

/-! ### Parameter sets (check 7) -/

/-- Trial division. -/
def isPrime (n : Nat) : Bool := decide (2 ≤ n) && (List.range (Nat.sqrt n - 1)).all fun i => n % (i + 2) != 0

/-- ψ is a primitive 2N-th root of unity modulo the prime q. -/
def rootOk (q n psi : Nat) : Bool := Crypto.powMod q 32 psi n == q - 1

/-- The bit-length limits of R87 by LOG_N. -/
def sizeLimit : Nat → Nat
  | 12 => 109 | 13 => 218 | 14 => 438 | 15 => 881 | 16 => 1762 | _ => 3524

def primeOk (n q psi : Nat) : Bool :=
  isPrime q && decide (2 ^ 24 < q ∧ q < 2 ^ 32) && q % (2 * n) == 1 && rootOk q n psi

/-- R86 and R87. -/
def ringOk (r : RingSet) : Bool :=
  let n := 2 ^ r.logN
  let all := r.q ++ r.p
  (all.zip (r.psiQ ++ r.psiP)).all (fun x => primeOk n x.1 x.2) && decide all.Nodup
    && (r.ckks || (isPrime r.t && inRange 2 (2 ^ 31 - 1) r.t && r.t % (2 * n) == 1 && !all.contains r.t))
    && ((List.range r.q.length).all fun l =>
        decide ((r.budget.getD l 0 : Int) ≤ 4 * ((((r.q.take (l + 1)).map fun q => bitLen q - 1).sum : Nat) - 1 : Int)))
    && decide ((all.map bitLen).sum ≤ sizeLimit r.logN)

/-- R111 and R112. -/
def moltOk (rings : List RingSet) (m : MoltSet) : Bool :=
  let n := 2 ^ m.logNm
  match rings[m.outerSet]? with
  | none => false
  | some r =>
    inRange 11 12 m.logNm && m.lweN % 2 == 0 && inRange 256 1024 m.lweN && inRange 1 31 m.brLog && inRange 1 4 m.brDigits
      && decide (m.brDigits * m.brLog ≤ 62) && decide (m.outLevel < r.q.length) && decide (m.outNb ≤ r.budget.getD m.outLevel 0)
      && inRange 1 16 m.waveDepth && (r.ckks || m.outScale == 0)
      && [(m.primeA, m.psiA), (m.primeB, m.psiB)].all (fun x => isPrime x.1 && decide (2 ^ 30 < x.1 ∧ x.1 < 2 ^ 31)
          && x.1 % (2 * n) == 1 && rootOk x.1 n x.2 && !(r.q ++ r.p).contains x.1)
      && m.primeA != m.primeB && !r.p.isEmpty

/-- R115. -/
def groupOk (molts : List MoltSet) (g : TableGroup) : Bool :=
  match molts[g.moltSet]? with
  | none => false
  | some m => inRange 1 7 g.prec && inRange 1 4 g.kOut && decide (g.outMult < m.primeA * m.primeB)
      && decide (g.prec + Nat.log2 (nextPow2 g.kOut) + 1 ≤ m.logNm)

/-- Bytes the groups take in a table store (R116, R117). -/
def storeBytes (i : Image) : Nat :=
  (i.groups.map fun g => match i.molts[g.moltSet]? with
    | some m => 8 * 2 ^ m.logNm
    | none => 0).sum

def outersDistinct (l : List MoltSet) : Bool := decide (l.map (·.outerSet)).Nodup

/-- Check 7 of R170: the type of the section at fault, and the status. -/
def check7 (i : Image) : Nat × Status :=
  if !i.rings.all ringOk then (1, .policyRefused)
  else if !(i.molts.all (moltOk i.rings) && outersDistinct i.molts) then (2, .policyRefused)
  else if !i.groups.all (groupOk i.molts) then (3, .policyRefused)
  else if 262144 < storeBytes i then (3, .capacity)
  else (0, .ok)

/-! ### Programs (check 8) -/

/-- The partition-independent unit used to decode program words. -/
def anyUnit : UnitId := ⟨0, 0, 0, 0⟩

def decodeWord (w : U128) : Option Instr := decodeBeat anyUnit w

def goldilocks : Nat := 2 ^ 64 - 2 ^ 32 + 1

/-- An entry is consistent under R179. -/
def modEntryOk (e : ModEntry) : Bool :=
  match e.kind with
  | 0 => e == {}
  | 1 => inRange 25 32 e.shift && bitLen e.modulus == e.shift && e.recip == 2 ^ (2 * e.shift) / e.modulus
  | 2 => e == ⟨2 ^ 32, 0, 32, 2⟩
  | _ => e == ⟨goldilocks, 0, 64, 3⟩

/-- The modulus-table part of check 8 (R181), with the roles of R180. -/
def modtabOk (i : Image) : Bool :=
  i.modtab.all (fun t => t.all modEntryOk
      && (!i.modes.getLsbD 0 || (t.getD 10 {}).kind == 2) && (!i.modes.getLsbD 1 || (t.getD 11 {}).kind == 3)
      && ((List.range i.molts.length).all fun k => match i.molts[k]? with
          | some m => (t.getD (12 + 2 * k) {}).modulus == m.primeA && (t.getD (13 + 2 * k) {}).modulus == m.primeB
          | none => true))
    && i.rings.all fun r => (List.range (r.q ++ r.p).length).all fun b =>
        (((i.modtab.getD (b % 8) []).take 10).any fun e => e.kind == 1 && e.modulus == (r.q ++ r.p).getD b 0)

/-- The MOD field of a word, where its format has one. -/
def modOf : Instr → Option Nat
  | .vadd _ f | .vsub _ f | .vneg _ f | .vmov _ f | .vsplat _ f | .vmul _ f | .vmuls _ f | .vred _ f | .tacc _ f
  | .tmac _ f | .tmacs _ f | .tread _ f | .tpois _ f => some f.mod.toNat
  | .tld _ f | .tst _ f => some f.mod.toNat
  | .nstage _ f | .istage _ f | .nttl _ f | .inttl _ f | .autol _ f | .ctAdd _ f | .ctSub _ f | .ctAddp _ f | .ctMulp _ f
  | .ctMul _ f | .ctRot _ f | .ctConj _ f | .ctRescale _ f | .ctDrop _ f | .ctNtt _ f | .ctIntt _ f | .ctSlotsum _ f | .molt _ f
  | .moltEx _ f | .ctFlood _ f | .ctCombine _ f | .vshare _ f | .vcheck _ f => some f.mod.toNat
  | .msel _ f => some (f.imm.toNat % 16)
  | _ => none

/-- Whether a unit's modulus table has an entry for the word (R183, R184: no MOD or MSEL names a KIND 0 entry). -/
def modKindOk (tab : List ModEntry) (i : Instr) : Bool :=
  match modOf i with
  | some m => m == 16 || (tab.getD m {}).kind != 0
  | none => true

/-- Whether a word is a cluster operation (O format). -/
def isClusterOp (w : U128) : Bool := inRange 0x30 0x49 (w.extractLsb' 0 8).toNat

/-- Loop bodies end inside the program and inside every enclosing body, nested at most 4 deep (R187). `open_` lists the last
words of the open bodies, innermost first. -/
def loopsOk : Nat → List Nat → List U128 → Bool
  | _, _, [] => true
  | pos, open_, w :: t =>
    let open_ := open_.filter fun e => decide (pos ≤ e)
    match decodeWord w with
    | some (.loop _ f) | some (.loopx _ f) =>
      let last := pos + f.body.toNat
      decide (f.body.toNat ≤ t.length) && decide (open_.length < 4) && open_.all (fun e => decide (last ≤ e))
        && loopsOk (pos + 1) (if f.body.toNat = 0 then open_ else last :: open_) t
    | _ => loopsOk (pos + 1) open_ t

/-- The words of one unit of a program. -/
def unitWords (p : DiePrograms) (prog u : Nat) : List U128 :=
  match (p.dir[prog]?).bind (·[u]?) with
  | some (st, n) => (p.words.drop st).take n
  | none => []

/-- The programs a schedule names on a die for a cluster. -/
def clusterProgs (i : Image) (die c : Nat) : List Nat :=
  (((i.schedules.getD die []).flatMap fun l => l.filterMap fun e => (e.refs.getD c none)).foldl insertSet [])

/-- B(OPx) of R155, with frequency 0.70 + 0.15·x GHz; period in 0.8 ns, T_SOFT in 0.1 µs. -/
def schedBudget (period tSoft op : Nat) : Nat := (period * 8 - 16000 - tSoft * 1000) * (70 + 15 * op) / 1000

/-- The largest CYCLES an image declares. (DESIGN CHOICE, log entry 139) -/
def maxCycles (i : Image) : Nat :=
  (i.schedules.flatMap fun d => d.flatMap fun l => l.map (·.cycles)).foldl max 0

/-- A die's words decode and are valid, and its programs agree (R182, R183, R187, R190). -/
def programsOk (i : Image) (p : DiePrograms) : Bool :=
  p.words.all (fun w => match decodeWord w with
    | some ins => ins.wf
    | none => false)
  && ((List.range p.dir.length).all fun g =>
      ((List.range 8).all fun u =>
        let ws := unitWords p g u
        loopsOk 0 [] ws && ws.all fun w => match decodeWord w with
          | some ins => modKindOk (i.modtab.getD u []) ins
          | none => false)
      && ((List.range 8).all fun u => (unitWords p g u).filter isClusterOp == (unitWords p g 0).filter isClusterOp))

/-- The programs of each cluster of image die `d` fit the program area, and the lead die's clusters 0 to 3 run no molt (R195). -/
def programAreaOk (i : Image) (d : Nat) : Bool :=
  (List.range 32).all fun c =>
    let p := i.programs.getD d ⟨[], []⟩
    let progs := clusterProgs i d c
    decide (16 * ((progs.map fun g => ((List.range 8).map fun u => (unitWords p g u).length).sum).sum) ≤ 448 * 1024)
      && (d != 0 || decide (4 ≤ c) || progs.all fun g => (List.range 8).all fun u => (unitWords p g u).all fun w =>
            (w.extractLsb' 0 8).toNat != 0x44 && (w.extractLsb' 0 8).toNat != 0x45)

/-- A job's schedule on a die fits the budget of R155 and the journal. -/
def scheduleOk (i : Image) (period tSoft : Nat) (l : List SchedEntry) : Bool :=
  l.all fun e => decide (e.cycles ≤ schedBudget period tSoft i.minOp) && decide (e.journalKib ≤ 1024)

/-- Check 8 of R170: the type, die and job of the section at fault, type 0 where none is; nothing where the check passes.
(DESIGN CHOICE, log entry 139) -/
def check8 (i : Image) (period tSoft : Nat) : Option (Nat × Nat × Nat) :=
  if !modtabOk i then some (4, 0xFF, 0xFF)
  else if let some d := (List.range i.dieCount).find? fun d => !programsOk i (i.programs.getD d ⟨[], []⟩) then some (8, d, 0xFF)
  else if period < i.beatPeriodMin then some (0, 0, 0)
  else if let some x := ((List.range i.dieCount).flatMap fun d => (List.range i.jobs.length).map fun j => (d, j)).find? fun x =>
      !scheduleOk i period tSoft ((i.schedules.getD x.1 []).getD x.2 []) then some (9, x.1, x.2)
  else ((List.range i.dieCount).find? fun d => !programAreaOk i d).map fun d => (8, d, 0xFF)

end Sys2Proof.Machine
end

