-- ==== Sys2Proof/Machine/Shared.lean ====
section
/-! DEFINITION. Operations several families share: the abort of a cluster's beat (R158), wake events (R339), entry to
DEGRADED, emergencies (R343), the end of a quiescent test (R389), idleness (R279), and the gates of register writes
(R281, R346, R348, R352). -/

namespace Sys2Proof.Machine

/-! ### Operand registers (R175, R178) -/

/-- What register `i` holds after a context was loaded that does not carry it: nothing states it (R175). -/
def deadReg (n i : Nat) : VReg := { words := Vector.ofFn fun l : Fin 32 => Config.deadWord n i l.val, poison := Config.deadPoison n i }
def UnitRegs.reg (w : UnitRegs) (i : Nat) : VReg := (tfind w.v i).getD (match w.dead with
  | some n => deadReg n i
  | none => {})

/-! ### Aborting a beat (R158) -/

/-- Undo a journal: the old byte of every address written, newest first, and the old marks. (DEDUCED, log entry 54) -/
def undoJournal (r : ClusterRun) (s : State) : State :=
  s.onStore fun m =>
    { m with cells := r.journal.foldl (fun l (k, b) => cellPut l k b) m.cells,
             poison := r.journalPoison.foldl (fun l (n, b) => if b then insertSet l n else l.filter (· != n)) m.poison }

/-- A unit whose beat aborted holds the state of its last commit (R131, R178). -/
def UnitState.reverted (u : UnitState) : UnitState :=
  { u with work := u.base, loops := [], wait := .none, asyncs := [], fpRanges := [], tilesWritten := [] }

/-- A context without what an aborted beat added to it. (DEDUCED, log entry 54) -/
def RoundCtx.without (c : RoundCtx) (d : CtxDelta) : RoundCtx :=
  { c with
    tal := { c.tal with
      saturated := c.tal.saturated - d.saturated, samples := c.tal.samples - d.samples,
      samplerRetry := c.tal.samplerRetry - d.retry,
      cover := (d.cover.foldl List.erase c.tal.cover.reverse).reverse },
    shared := { c.shared with expandBytes := c.shared.expandBytes - d.expand },
    release := { c.release with nextIndex := vupd c.release.nextIndex d.kind (· - d.indices) } }

/-- The cluster's beat aborts: its journal restores the lines it wrote, its units' state reverts, and CANCEL becomes due for
its XMIT messages (R243). -/
def abortCluster (d : Die) (c : Cluster) (s : State) : State :=
  let r := s.cluster d c
  if r.running && !r.aborted then
    let s := match (s.dies[d]).owner with
      | some p => forAll r.deltas (fun e => State.onCtx p e.ctx (RoundCtx.without · e)) s
      | none => s
    let s := forAll r.sent (fun m => State.onConn m.1 fun x => { x with cancelDue := x.cancelDue ++ [m.2] }) s
    forAll (List.finRange 8) (fun u => State.onUnit d c u UnitState.reverted)
      (State.onCluster d c (fun x =>
        { x with aborted := true, journal := [], journalPoison := [], journalLines := [], sent := [], deltas := [] })
        (undoJournal r s))
  else s

/-- Every cluster of the die aborts its beat. -/
def abortDie (d : Die) (s : State) : State := forAll (List.finRange 32) (abortCluster d) s

/-- The cluster aborts with BEAT_OVERRUN (R159); the boundary counts it. -/
def overrunCluster (d : Die) (c : Cluster) (s : State) : State :=
  let r := s.cluster d c
  if r.running && !r.aborted then abortCluster d c (State.onCluster d c (fun x => { x with overrun := true }) s) else s

/-! ### Partitions -/

/-- A context that R39 counts as FREE: an aborting one is not. -/
def RoundCtx.isFree (c : RoundCtx) : Bool := c.phase == .free && !c.aborting

/-- A context that a round can take: FREE, and claimed by no accepted ROUND_OPEN (R30). -/
def RoundCtx.claimable (c : RoundCtx) : Bool := c.isFree && c.claim.isNone

/-- All four contexts are FREE (R39); a claimed one counts as in use (R30). -/
def PartState.allFree (x : PartState) : Bool := x.ctxs.toList.all RoundCtx.claimable

/-- Idle for P1 and for the quiescent tests (R279). -/
def PartState.idleForTests (x : PartState) : Bool :=
  match x.phase with
  | .absent => true
  | .idle => true
  | .loaded => x.allFree
  | _ => false

def State.exists_ (s : State) (p : Part) : Bool := (s.part p).phase != .absent

/-- The partition that owns a die. -/
def State.ownerOf (s : State) (d : Die) : Option Part := (s.dies[d]).owner

/-- Entry to DEGRADED at the next boundary: only a LOADED partition has that way out of its state (R279).
(DEDUCED, log entry 104) -/
def degradeSoon (p : Part) (s : State) : State :=
  when ((s.part p).phase == .loaded) (State.onPart p fun x => { x with degradeDue := true }) s

/-! ### Wake events (R339) -/

/-- A wake event: it cancels an entry at the coming boundary, and starts the exit from a power state. (DEDUCED, log entry 69) -/
def wake (s : State) : State :=
  s.onPwr fun w => { w with wakeSeen := true, exiting := w.exiting || w.state != .p0 }

/-! ### Quiescent tests (R388, R389) -/

/-- RESULT of a test. -/
def testResult (verdict test failing first : Nat) : Nat :=
  verdict ||| test <<< 8 ||| failing % 2 ^ 16 <<< 16 ||| first % 2 ^ 32 <<< 32

/-- The target is back in service: the link at its trained capacity, the port out of loopback (R388). -/
def restoreTarget (r : TestRun) (s : State) : State :=
  if r.test = 3 then s.onHub fun b => { b with links := vall b.links fun q l =>
    if q.val = r.target ∧ l.width ≠ 0 then { l with inL0 := true, holdLink := false } else l }
  else if r.test = 4 then { s with ports := vall s.ports fun q x => if q.val = r.target then { x with looped := false } else x }
  else s

/-- The test ends: its target is restored, and its completion, TST_LAST_RESULT and its TEST record follow. -/
def finishTest (r : TestRun) (result : Nat) (s : State) : State :=
  let s := restoreTarget r s
  let body := leBytes 1 r.test ++ leBytes 1 r.die ++ leBytes 2 r.target ++ leBytes 4 0 ++ leBytes 8 r.arg ++ leBytes 8 result
  let s := record ⟨.test, if result % 256 = 0 then .info else .error, 0, body⟩ s
  complete r.cmd 0x04 .ok 0 result
    { s with tst := { running := none, last := r.test, lastStatus := .ok, lastResult := BitVec.ofNat 64 result } }

/-- An emergency hold or a tamper aborts a running test with VERDICT 2. -/
def abortTest (s : State) : State :=
  match s.tst.running with
  | some r => finishTest r (testResult 2 r.test 0 0) s
  | none => s

/-! ### Emergencies (R343) -/

/-- The number a die has in PWR_EMERG and in CLOCK_POWER events: four bits; the manual gives H, the ninth of the other dies,
no number there. -/
def emergencyDie (d : AnyDie) : Nat := if d.val < 16 then d.val else Config.openField 0 % 16

/-- The die's compute clock is stopped: its PLL has failed (R332), its rail droops, or a THERMAL emergency gates it (R343). -/
def clockOff (s : State) (d : Die) : Bool := (s.dies[d]).clockStopped || s.pwr.emThermal

/-- Entry to an emergency: one event, a wake, and the end of a running test. -/
def enterEmergency (e : Emergency) (die : Nat) (s : State) : State :=
  let active := match e with
    | .thermal => s.pwr.emThermal
    | .supply => s.pwr.emSupply
    | .clock => s.pwr.emClock
  if active then s
  else
    let s := s.onPwr fun w => match e with
      | .thermal => { w with emThermal := true, emDie := BitVec.ofNat 4 die, flow := 255 }
      | .supply => { w with emSupply := true }
      | .clock => { w with emClock := true }
    abortTest (wake (postF0 .clockPower .ok .critical die (detail 1 0) s))

/-- Exit from an emergency. -/
def leaveEmergency (e : Emergency) (s : State) : State :=
  let active := match e with
    | .thermal => s.pwr.emThermal
    | .supply => s.pwr.emSupply
    | .clock => s.pwr.emClock
  if !active then s
  else
    let s := s.onPwr fun w => match e with
      | .thermal => { w with emThermal := false }
      | .supply => { w with emSupply := false, vrAlert := false, railsBad := [] }
      | .clock => { w with emClock := false }
    postF0 .clockPower .ok .info s.pwr.emDie.toNat (detail 2 0) s

/-! ### The input log (R265, R266) -/

/-- Whether the partition keeps a log: while bound, and while a round of its has INPUT_LOG set. -/
def PartState.bound (x : PartState) : Bool :=
  match x.twin.phase with
  | .unbound => false
  | .binding => false
  | _ => true

def PartState.logs (x : PartState) : Bool :=
  !x.twin.logStopped && x.twin.replayStatus != 1 && (x.bound || x.ctxs.toList.any fun c => !c.isFree && c.policy.inputLog)

/-- The log ring: LOG_VA and LOG_BYTES of TWIN_BIND while bound, else PRT_LOG_VA and PRT_LOG_BYTES. -/
def PartState.logRing (x : PartState) : Nat × Nat :=
  match x.bound, x.twin.bind with
  | true, some b => (b.logVA.toNat, b.logBytes.toNat)
  | _, _ => (x.twin.logVA.toNat, x.twin.logBytes.toNat)

def LogRec.size (r : LogRec) : Nat := (32 + r.body.length + 63) / 64 * 64
def LogRec.bytes (r : LogRec) : Bytes :=
  let b := leBytes 4 r.body.length ++ leBytes 1 r.kind ++ zeroBytes 3 ++ leBytes 8 r.beat ++ leBytes 8 r.seq
    ++ leBytes 8 r.aux ++ r.body
  b ++ zeroBytes (r.size - b.length)

/-- A device write to partition addresses that no permission guards: the log and the checkpoint store. -/
def deviceWrite (p : Part) (va : Nat) (b : Bytes) (s : State) : State :=
  (pageSplit va b.length).foldl (fun t (a, n) =>
    match s.leafAt p a with
    | some e => if leafType e = 2 then match s.leafKey p e a with
        | some k => t.store k ((b.drop (a - va)).take n) false
        | none => t else t
    | none => t) s

/-- Device reads of partition addresses that no permission guards. -/
def deviceRead (s : State) (p : Part) (va len : Nat) : Bytes :=
  (pageSplit va len).flatMap fun (a, n) => match s.leafAt p a with
    | some e => if leafType e = 2 then match s.leafKey p e a with
        | some k => s.bytesAt k n
        | none => zeroBytes n else zeroBytes n
    | none => zeroBytes n

/-- Write one log record of a beat; a log without room stops, with an event. -/
def logRecordAt (p : Part) (beat kind aux : Nat) (body : Bytes) (s : State) : State :=
  let x := s.part p
  if !x.logs then s
  else
    let (va, len) := x.logRing
    let r : LogRec := ⟨kind, beat, x.twin.logHead, aux, body⟩
    if x.twin.logUsed + r.size ≤ len then
      let used := x.twin.logUsed + r.size
      let start := x.twin.logOff
      let b := r.bytes
      let s := State.onTwin p (fun w =>
        { w with logHead := w.logHead + 1, logUsed := used, logOff := (start + r.size) % len, records := w.records ++ [r] }) s
      deviceWrite p va (b.drop (len - start)) (deviceWrite p (va + start) (b.take (len - start)) s)
    else postPart p .ok .warning 4 0 (State.onTwin p (fun w => { w with logStopped := true }) s)

def logRecord (p : Part) (kind aux : Nat) (body : Bytes) (s : State) : State := logRecordAt p s.sys.beat kind aux body s

/-! ### Gates of register accesses -/

/-- Accesses to a function's BARs reach it: Memory Space Enable is set (R348), and the function is exposed (R281).
(DEDUCED, log entry 88) -/
def barOpen (s : State) (fn : Fn) : Bool :=
  (s.configOf fn).memSpace && match fn with
    | .f0 _ => true
    | .part p => s.exists_ p

/-- A register write on function 0 of port `q` that only the managing port's host may make (R352). (DEDUCED, log entry 88) -/
def f0Write (q : PciePort) (f : State → State) (s : State) : State :=
  if barOpen s (.f0 q) && q == s.hub.managing then f s else s

/-- Toxel or a recovery image runs: every block of BAR0 answers (R395). (DEDUCED, log entry 88) -/
def booted (s : State) : Bool := s.key.stage == .running || s.key.stage == .recovered

/-- A write to a block that reads zero and discards writes until then. (DEDUCED, log entry 88) -/
def f0WriteBooted (q : PciePort) (f : State → State) (s : State) : State := if booted s then f0Write q f s else s

/-- Whether an insecure IDE stream closes the partition's BARs (R282). -/
def ideHeld (s : State) (p : Part) : Bool :=
  (s.part p).resv.requireIde && !(s.hub.links[(s.part p).resv.pciePort]).ideSecure

/-- A register or BAR write on a partition's function. (DEDUCED, log entry 88) -/
def partWrite (p : Part) (f : State → State) (s : State) : State :=
  if barOpen s (.part p) && !ideHeld s p then f s else s

/-- A write to a host-interface register of a function: it belongs to the function on either port. (DEDUCED, log entry 88) -/
def hifWrite (fn : Fn) (f : State → State) (s : State) : State :=
  match fn with
  | .f0 _ => if barOpen s fn then f s else s
  | .part p => partWrite p f s

end Sys2Proof.Machine
end

