-- ==== Sys2Proof/Machine/HostIf.lean ====
section
/-! DEFINITION. The host interface (chapter 17): rings, doorbells and the index page, ingest-ring enables, BAR2, the mapping
window (R202), the configuration space and the management claim. -/

namespace Sys2Proof.Machine

/-! ### Doorbells and HEAD registers (R355) -/

/-- A doorbell value is accepted. (DEDUCED, log entry 84) -/
def doorbellOk (old consumed v : U32) (k : Nat) : Bool := decide (fwd old v < 2 ^ 31 ∧ fwd consumed v ≤ 2 ^ k)

/-- A HEAD value is accepted. (DEDUCED, log entry 84) -/
def headOk (old produced v : U32) : Bool := decide (fwd old v ≤ fwd old produced)

/-- Bytes the host wrote to its own memory before it rang. (DESIGN CHOICE, log entry 132) -/
def hostWrites (fn : Fn) (l : List HostWrite) (s : State) : State :=
  forAll l (fun w s => s.store (hostKey (s.portOf fn).val w.addr.toNat) w.data false) s

def writeCmdqDb (fn : Fn) (v : U32) (s : State) : State :=
  let s := wake s
  let h := s.hif fn
  if h.enabled && doorbellOk h.cmdqDb h.cmdConsumed v h.cmdqSize.toNat then s.onHif fn fun h => { h with cmdqDb := v }
  else dbDiscard fn s

/-- R355: the command doorbell; in P1 to P4 it is a wake event too. (DESIGN CHOICE, log entry 132) -/
def execHifCmdqDb (fn : Fn) (value : U32) (writes : List HostWrite) (s : State) : Out :=
  .next (hifWrite fn (writeCmdqDb fn value) (hostWrites fn writes s))

def writeCplqHead (fn : Fn) (v : U32) (s : State) : State :=
  let h := s.hif fn
  if h.enabled && headOk h.cplqHead h.cplProduced v then s.onHif fn fun h => { h with cplqHead := v } else dbDiscard fn s

def execHifCplqHead (fn : Fn) (value : U32) (s : State) : Out := .next (hifWrite fn (writeCplqHead fn value) s)

def writeEvqHead (fn : Fn) (v : U32) (s : State) : State :=
  let h := s.hif fn
  if h.enabled && headOk h.evqHead h.evProduced v then
    s.onHif fn fun h => evRoomReturns s.sys.beat { h with evqHead := v }
  else dbDiscard fn s

/-- R355, R357: events consumed; room that returns takes the waiting entries. -/
def execHifEvqHead (fn : Fn) (value : U32) (s : State) : Out := .next (hifWrite fn (writeEvqHead fn value) s)

/-- Function 0 has no fault queue. Plain entries that the host has consumed are forgotten (R207). -/
def writeFltqHead (fn : Fn) (v : U32) (s : State) : State :=
  match fn with
  | .f0 _ => s
  | .part p =>
    let h := s.hif fn
    if h.enabled && headOk h.fltqHead h.fltProduced v then
      State.onMem p (fun m =>
          { m with faults := m.faults.filter fun f =>
                     f.waits || decide (fwd v f.index < 2 ^ 31) || m.heldFaults.any fun e => e.id == f.id })
        (s.onHif fn fun h => { h with fltqHead := v })
    else dbDiscard fn s

def execHifFltqHead (fn : Fn) (value : U32) (s : State) : Out := .next (hifWrite fn (writeFltqHead fn value) s)

/-- HIF_CTRL.ENABLE is set or cleared (R354); it takes effect at the boundary. -/
def writeHifCtrl (fn : Fn) (on : Bool) (s : State) : State :=
  s.onHif fn fun h => if on then { h with enable := true, enableReq := true }
    else { h with enable := false, enableReq := false, disableReq := true }

def execHifEnable (fn : Fn) (s : State) : Out := .next (hifWrite fn (writeHifCtrl fn true) s)
def execHifDisable (fn : Fn) (s : State) : Out := .next (hifWrite fn (writeHifCtrl fn false) s)

/-! ### The rings at the boundary (R353 to R356) -/

/-- The function's own device-initiated TLPs can go out: its bus-master bit, its link and its IDE stream (R282, R348). -/
def canDma (s : State) (fn : Fn) : Bool :=
  let c := s.configOf fn
  c.busMaster && !c.d3hot && (s.hub.links[s.portOf fn]).inL0 && match fn with
    | .f0 _ => true
    | .part p => s.exists_ p && !ideHeld s p

def isPart : Fn → Bool
  | .f0 _ => false
  | .part _ => true

/-- The ring configuration passes (R354). -/
def ringsOk (fn : Fn) (h : HifSet) : Bool :=
  let aligned (b : U64) : Bool := b.toNat % 4096 == 0
  let size (k : U32) : Bool := inRange 6 16 k.toNat
  aligned h.cmdqBase && aligned h.cplqBase && aligned h.evqBase && h.idxBase.toNat % 64 == 0 && size h.cmdqSize
    && size h.cplqSize && size h.evqSize && (!isPart fn || (aligned h.fltqBase && size h.fltqSize))

/-- Step 9: a disable takes effect once every fetched command has completed, and an enable is judged; one that follows a disable
waits for it. (DEDUCED, log entry 193) -/
def hifEnableCheck (fn : Fn) (s : State) : State :=
  s.onHif fn fun h =>
    let drained := h.outstanding == 0 && h.cplPending.isEmpty
    let h := if h.disableReq && (!h.enabled || drained) then { h with enabled := false, disableReq := false } else h
    let h := if h.enableReq && (!s.hub.toxel || h.disableReq) then h
      else if h.enableReq && !h.enabled then
        if ringsOk fn h then
          { h with enableReq := false, enabled := true, fetchError := false, fetchStalled := false,
                   lastStatus := .ok, cmdqDb := 0, cplqHead := 0, evqHead := 0, fltqHead := 0, cmdConsumed := 0,
                   cplProduced := 0, evProduced := 0, fltProduced := 0, idxShown := none }
        else { h with enableReq := false, lastStatus := .invalidCommand }
      else { h with enableReq := false }
    evRoomReturns s.sys.beat h

/-- Position of a completion's command among the fetched ones. -/
def fetchPos (l : List (U32 × U8)) (c : Completion) : Nat := (l.findIdx? (· == (c.tag, c.opcode))).getD l.length

/-- Insert by fetch position, stably. (DEDUCED, log entry 89) -/
def insertCpl (l : List (U32 × U8)) (c : Completion) : List Completion → List Completion
  | [] => [c]
  | d :: t => if fetchPos l d ≤ fetchPos l c then d :: insertCpl l c t else c :: d :: t

/-- The completions of a boundary in fetch order. (DEDUCED, log entry 89) -/
def cplOrder (l : List (U32 × U8)) (cs : List Completion) : List Completion := cs.foldl (fun a c => insertCpl l c a) []

/-- Write ring entries from index `i` on. -/
def putEntries (q : Nat) (base : U64) (k size : Nat) : U32 → List Bytes → State → State
  | _, [], s => s
  | i, b :: t, s => putEntries q base k size (i + 1) t (s.store (hostKey q (base.toNat + size * (i.toNat % 2 ^ k))) b false)

/-- Write the entries decided so far, then the index page if one of its values changed (R353, R368). (DEDUCED, log entry 89) -/
def flushRings (fn : Fn) (s : State) : State :=
  let h := s.hif fn
  if !(h.enabled && canDma s fn) then s
  else
    let q := (s.portOf fn).val
    let cs := cplOrder (s.fetchedOf fn) h.cplPending
    let s := putEntries q h.cplqBase h.cplqSize.toNat 16 h.cplProduced (cs.map Completion.bytes) s
    let s := putEntries q h.evqBase h.evqSize.toNat 32 h.evProduced (h.evPending.map Event.bytes) s
    let s := putEntries q h.fltqBase h.fltqSize.toNat 32 h.fltProduced (h.fltPending.map FaultEntry.bytes) s
    let s := s.onFetched fn fun l => cs.foldl (fun l c => l.erase (c.tag, c.opcode)) l
    let h' := { h with cplPending := [], evPending := [], fltPending := [],
                       cplProduced := h.cplProduced + BitVec.ofNat 32 cs.length,
                       evProduced := h.evProduced + BitVec.ofNat 32 h.evPending.length,
                       fltProduced := h.fltProduced + BitVec.ofNat 32 h.fltPending.length }
    let now := (h'.cmdConsumed, h'.cplProduced, h'.evProduced, h'.fltProduced)
    let s := s.onHif fn fun _ => { h' with idxShown := some now }
    if h.idxShown = some now then s
    else s.store (hostKey q h.idxBase.toNat) (indexPage now.1 now.2.1 now.2.2.1 now.2.2.2 s.sys.beat) false

/-- The operand ranges a command's entry names in partition memory, for the COMMAND record (R265). (DEDUCED, log entry 83) -/
def operandRanges : Instr → List (Nat × Nat)
  | .partLoad _ va n => if inRange 1 (2 ^ 30) n.toNat then [(va.toNat, n.toNat)] else []
  | .roundOpen _ va _ _ _ => [(va.toNat, policyBytes)]
  | .roundUnmask _ _ va n => if inRange 1 65536 n.toNat then [(va.toNat, 48 * n.toNat)] else []
  | _ => []

/-- Fetch one entry: the command is recorded, a malformed one completes with INVALID_COMMAND, as does every command of a
function 0 that does not manage (R352, R358). (DEDUCED, log entry 83) -/
def fetchOne (fn : Fn) (s : State) : State :=
  let h := s.hif fn
  let q := (s.portOf fn).val
  let b := s.bytesAt (hostKey q (h.cmdqBase.toNat + 64 * (h.cmdConsumed.toNat % 2 ^ h.cmdqSize.toNat))) 64
  let tag : U32 := BitVec.ofNat 32 (fieldLE b 4 4)
  let op : U8 := b.getD 0 0
  let s := s.onHif fn fun h => { h with cmdConsumed := h.cmdConsumed + 1, outstanding := h.outstanding + 1 }
  let s := s.onFetched fn fun l => l ++ [(tag, op)]
  let i := decodeEntry fn b
  let s := match fn, i with
    | .part p, some c => logRecord p 2 h.cmdConsumed.toNat (b ++ (operandRanges c).flatMap fun (va, n) =>
        if (firstFault s p va n 0).isSome then [] else readVA s p va n 0) s
    | _, _ => s
  if i.isNone || (!isPart fn && fn != s.f0) then postCompletion ⟨fn, tag⟩ op.toNat .invalidCommand 0 0 s else s

/-- Fetch up to `n` commands, stopping at the limits of R355. -/
def fetchSome (fn : Fn) : Nat → State → State
  | 0, s =>
    let h := s.hif fn
    s.onHif fn fun h' => { h' with fetchStalled := fwd h.cmdConsumed h.cmdqDb != 0 }
  | n + 1, s =>
    let h := s.hif fn
    let held := h.outstanding + h.cplPending.length
    if fwd h.cmdConsumed h.cmdqDb = 0 then s.onHif fn fun h => { h with fetchStalled := false }
    else if 256 ≤ h.outstanding ∨ 2 ^ h.cplqSize.toNat ≤ fwd h.cplqHead h.cplProduced + held then
      s.onHif fn fun h => { h with fetchStalled := true }
    else fetchSome fn n (fetchOne fn s)

/-- Step 9 for one function. A command read that ends in a PCIe error stops the function's fetching.
(DESIGN CHOICE, log entry 11; DEDUCED, log entry 83) -/
def fetchCommands (fn : Fn) (failed : Bool) (s : State) : State :=
  let h := s.hif fn
  let present := match fn with
    | .f0 _ => true
    | .part p => s.exists_ p && (s.part p).phase != .removing
  if !(s.hub.toxel && h.enable && h.enabled && !h.disableReq && !h.fetchError && present && canDma s fn && s.pwr.state == .p0 && !s.pwr.exiting) then s
  else if fwd h.cmdConsumed h.cmdqDb = 0 then s.onHif fn fun h => { h with fetchStalled := false }
  else if failed then
    post fn (if isPart fn then .partition else .port) .ok .error (Config.openField 4) (detail (Config.openField 5) 0)
      (s.onHif fn fun h => { h with fetchError := true })
  else fetchSome fn 64 s

/-! ### Ingest rings (R364) -/

/-- Write of ING_CFG. -/
def writeIngCfg (p : Part) (r : Fin 4) (v : U32) (s : State) : State :=
  State.onPart p (fun x => { x with ingest := vupd x.ingest r fun i =>
    let on := v.getLsbD 16
    let bits := if i.enabled then i.cfg &&& 0x00001F1F else v &&& 0x00001F1F
    { i with cfg := bits ||| (if on then 0x00010000 else 0), enableReq := on && !i.enabled } }) s

def execIngEnable (p : Part) (r : Fin 4) (cfg : U32) (s : State) : Out := .next (partWrite p (writeIngCfg p r cfg) s)

def Ingest.logEntries (i : Ingest) : Nat := (i.cfg.extractLsb' 0 5).toNat
def Ingest.logEntryBytes (i : Ingest) : Nat := (i.cfg.extractLsb' 8 5).toNat
def Ingest.bytes (i : Ingest) : Nat := 2 ^ (i.logEntries + i.logEntryBytes)

/-- A page an ingest ring may lie in. -/
def ingestPageOk (s : State) (p : Part) (n : Nat) : Bool :=
  match s.leafAt p (n * 2 ^ 16) with
  | some e => leafType e == 2 && leafBacking e < 2 && leafPerm e 0 && leafPerm e 3
  | none => false

/-- The check of an enable at the boundary. -/
def ingCheck (s : State) (p : Part) (i : Ingest) : Status :=
  if !(inRange 4 16 i.logEntries && inRange 7 28 i.logEntryBytes && i.va.toNat % 2 ^ 16 == 0) then .invalidCommand
  else if i.va.toNat + i.bytes ≤ 2 ^ 40 ∧ (pagesOf i.va.toNat i.bytes).all (ingestPageOk s p) then .ok
  else .accessDenied

def ingBoundary (p : Part) (s : State) : State :=
  forAll (List.finRange 4) (fun r s =>
    let i := (s.part p).ingest[r]
    let put (j : Ingest) : State := State.onPart p (fun x => { x with ingest := vput x.ingest r j }) s
    if i.enableReq then
      match ingCheck s p i with
      | .ok => put { i with enableReq := false, enabled := true, lastStatus := .ok, db := 0, consumed := 0, taken := 0, freed := [] }
      | e => put { i with enableReq := false, lastStatus := e }
    else if i.enabled && !i.cfg.getLsbD 16 then put { i with enabled := false }
    else s) s

/-! ### BAR2 (R363, R376) -/

/-- A byte as of the last boundary: what a running cluster wrote this beat does not show. -/
def committedByte (s : State) (key : Nat) : Byte :=
  match s.clusters.findSome? fun (_, r) => if r.running then
      (r.journal.findSome? fun (k, b) => if k = key then some b else none) else none with
  | some b => b
  | none => s.byteAt key

def committedPoison (s : State) (line : Nat) : Bool :=
  match s.clusters.findSome? fun (_, r) => if r.running then
      (r.journalPoison.findSome? fun (n, b) => if n = line then some b else none) else none with
  | some b => b
  | none => s.mem.poison.contains line || s.mem.bad.contains line

/-- A byte as BAR2 and the ingest sequencer see it: the committed one, overlaid with the BAR2 writes received since.
(DEDUCED, log entry 101) -/
def viewByte (s : State) (p : Part) (key : Nat) : Byte :=
  (s.part p).bar2Writes.foldl (fun x (k, b, _) => if k ≤ key ∧ key < k + b.length then b.getD (key - k) 0 else x)
    (committedByte s key)

def viewPoison (s : State) (p : Part) (key : Nat) : Bool :=
  (s.part p).bar2Writes.foldl (fun x (k, b, ep) =>
    let lines := linesOf k b.length
    if lines.contains (lineOf key) then
      ep || (x && !decide (k ≤ lineOf key * 64 ∧ lineOf key * 64 + 64 ≤ k + b.length))
    else x) (committedPoison s (lineOf key))

/-- Bytes of a range through a permission, with poisoned lines as zeros; none where a page does not translate. -/
def viewVA (s : State) (p : Part) (va len perm : Nat) : Bytes :=
  (pageSplit va len).flatMap fun (a, n) => match s.translate p a perm with
    | .ok k => (List.range n).map fun i => if viewPoison s p (k + i) then 0 else viewByte s p (k + i)
    | .error _ => zeroBytes n

/-- Pages of a registered key-set deny BAR and RXT placement writes (R99). (DEDUCED, log entry 60) -/
def keysetPage (s : State) (p : Part) (va : Nat) : Bool :=
  (s.part p).keysets.toList.any fun k => k.registered && decide (k.va.toNat / 2 ^ 16 ≤ va / 2 ^ 16)
    && decide (va / 2 ^ 16 ≤ (k.va.toNat + 4096 * k.blocks - 1) / 2 ^ 16)

/-- A BAR2 fault: no agent waits (R204, R205). (DEDUCED, log entry 60) -/
def barFault (p : Part) (va access : Nat) (cause : Status) (s : State) : State :=
  (postFault p va 3 access cause false ((s.part p).resv.pciePort.val ||| (p.val + 1) <<< 1) .none s).1

/-- A partition address of a BAR2 offset. -/
def barVA (s : State) (p : Part) (offset : U64) : Nat := (s.part p).bar2Base.toNat + offset.toNat

/-- The address lies in the payload of a slot whose header is EMPTY or FILLING: what is read there is unspecified (R43).
(DEDUCED, log entry 144) -/
def unreadySlot (s : State) (p : Part) (a : Nat) : Bool :=
  (s.part p).ctxs.toList.any fun c => c.phase != .free && (c.header.state == .empty || c.header.state == .filling)
    && decide (c.slotVA + 64 ≤ a ∧ a < c.slotVA + c.slotBytes)

/-- After a tamper under main power, which erases the memory key, a fenced partition's LPDDR5X pages read as zeros (R289). -/
def barZero (s : State) (p : Part) (a : Nat) : Bool :=
  (s.part p).phase == .fenced && !(slotAt s (xtsSlot p)).valid && match s.translate p a 3 with
    | .ok k => decide (2 ^ 40 ≤ k)
    | .error _ => false

/-- The bytes a BAR2 read gives, with free ones in such payloads. (DEDUCED, log entry 144) -/
def barBytes (p : Part) (va len : Nat) (s : State) : State :=
  let b := (viewVA s p va len 3).zipIdx.map fun (x, i) => if barZero s p (va + i) then 0 else x
  if (List.range len).any fun i => unreadySlot s p (va + i) then
    { s with draws := s.draws + 1
             answer := b.zipIdx.map fun (x, i) => if unreadySlot s p (va + i) then Config.freeByte s.draws i else x }
  else { s with answer := b }

/-- R363: a BAR2 read; a faulting page reads as zeros, a poisoned line as zeros with EP. -/
def execBar2Read (p : Part) (offset : U64) (len : Nat) (s : State) : Out :=
  .next (if !(s.configOf (.part p)).memSpace then { s with answer := [], answerPoison := false }
    else if !s.exists_ p || ideHeld s p then { s with answer := zeroBytes len, answerPoison := false }
    else
      let va := barVA s p offset
      let s := noteWalks p .pcie va len s
      let s := (pagesOf va len).foldl (fun s n =>
        let a := max va (n * 2 ^ 16)
        match s.translate p a 3 with
        | .error e => barFault p a 3 e s
        | .ok _ => s) s
      { barBytes p va len (noteReadVA p va len 3 s) with
               answerPoison := (pageSplit va len).any fun (a, n) => match s.translate p a 3 with
                 | .ok k => (List.range n).any fun i => viewPoison s p (k + i)
                 | .error _ => false })

/-- A BAR2 write that a ring lost (R366). -/
def ringLoss (p : Part) (va : Nat) (s : State) : State :=
  let f (i : Ingest) : Ingest :=
    if i.enabled && decide (i.va.toNat ≤ va ∧ va < i.va.toNat + i.bytes) then { i with lost := sat32 i.lost } else i
  State.onPart p (fun x => { x with ingest := vall x.ingest fun _ i => f i }) s

/-- One page's piece of a BAR2 write. -/
def bar2Piece (p : Part) (a : Nat) (b : Bytes) (ep : Bool) (s : State) : State :=
  match (if keysetPage s p a then Except.error .accessDenied else s.translate p a 3) with
  | .error e => ringLoss p a (barFault p a 4 e s)
  | .ok k => State.onPart p (fun x => { x with bar2Writes := x.bar2Writes ++ [(k, b, ep)] }) s

/-- R363: a BAR2 write is kept on arrival; beats see it from the next boundary. -/
def execBar2Write (p : Part) (offset : U64) (data : Bytes) (ep : Bool) (s : State) : Out :=
  .next (partWrite p (fun s =>
    let va := barVA s p offset
    (pageSplit va data.length).foldl (fun s (a, n) => bar2Piece p a ((data.drop (a - va)).take n) ep s)
      (noteWalks p .pcie va data.length s)) s)

/-- The boundary hands the BAR2 writes of the beat to the memory. (DEDUCED, log entry 35) -/
def applyBar2 (p : Part) (s : State) : State :=
  let l := (s.part p).bar2Writes
  forAll l (fun (k, b, ep) => State.store k (if ep then zeroBytes b.length else b) ep)
    (State.onPart p (fun x => { x with bar2Writes := [] }) s)

/-- R9: an access of the wrong width or alignment. -/
def execBadRegisterAccess (fn : Fn) (write : Bool) (s : State) : Out :=
  .next (if barOpen s fn then badAccess fn (if write then s else { s with answer := zeroBytes 8, answerPoison := false }) else s)

/-! ### The mapping window (R202, R362) -/

/-- A write of PRT_MAP_CTRL. -/
def writeMapCtrl (p : Part) (v : U32) (s : State) : State :=
  State.onMem p (fun m =>
    if !v.getLsbD 0 && !v.getLsbD 1 then m
    else match m.mapPending with
      | some _ => { m with mapLast := .busy }
      | none => { m with mapPending := some ⟨v, m.mapVA, m.mapEntry⟩ }) s

def execMapSet (p : Part) (ctrl : U32) (s : State) : Out := .next (partWrite p (writeMapCtrl p ctrl) s)
def execMapClear (p : Part) (ctrl : U32) (s : State) : Out := .next (partWrite p (writeMapCtrl p ctrl) s)

/-- The permissions the host may give a leaf: those of the record without RXT place and BAR; in the load window unit read
alone. -/
def mapPermsOk (s : State) (p : Part) (va : Nat) (e : U64) : Bool :=
  let perms := e.extractLsb' 5 5
  if loadWindow va then perms == 1
  else match mapRecOf (s.part p).img.image va with
    | some r => (perms &&& ~~~r.perms) == 0 && !perms.getLsbD 2 && !perms.getLsbD 3
    | none => false

/-- The judgement of a latched edit. -/
def mapJudge (s : State) (p : Part) (m : MapEdit) : Status :=
  let owned := match s.leafAt p m.va.toNat with
    | some e => leafHostOwned e
    | none => false
  if m.ctrl.getLsbD 0 && m.ctrl.getLsbD 1 then .invalidCommand
  else if m.va.toNat % 2 ^ 16 != 0 || decide (2 ^ 40 ≤ m.va.toNat) || !owned then .accessDenied
  else if m.ctrl.getLsbD 0 && !(leafType m.entry == 2 && leafBacking m.entry == 2 && !leafLarge m.entry && leafHostOwned m.entry
      && !leafRetiring m.entry && m.entry.extractLsb' 12 4 == 0 && mapPermsOk s p m.va.toNat m.entry) then .invalidCommand
  else .ok

/-- Step 9: the latched edit is judged and carried out. -/
def mapBoundary (p : Part) (s : State) : State :=
  match (s.part p).mem.mapPending with
  | none => s
  | some m =>
    let page := m.va.toNat / 2 ^ 16
    match mapJudge s p m with
    | .ok => dropCached p page (State.putEntry p m.va.toNat (State.onMem p (fun x =>
        { x with mapPending := none, mapLast := .ok,
                 leaves := if m.ctrl.getLsbD 0 then tput x.leaves page m.entry else tdel x.leaves page }) s))
    | e => State.onMem p (fun x => { x with mapPending := none, mapLast := e }) s

/-! ### Held fault entries (R206) -/

/-- Post held entries, oldest first, while the queue has room. -/
def postHeld (p : Part) : Nat → State → State
  | 0, s => s
  | n + 1, s =>
    let x := s.part p
    match x.mem.heldFaults with
    | [] => s
    | e :: t =>
      if 0 < fltRoom x.hif then
        let i := x.hif.fltProduced + BitVec.ofNat 32 x.hif.fltPending.length
        postHeld p n (State.onMem p
          (fun m =>
            { m with heldFaults := t, faultsPosted := sat32 m.faultsPosted,
                     faults := m.faults.map fun f => if f.id == e.id then { f with index := i } else f })
          (State.onHif (.part p) (fun h => { h with fltPending := h.fltPending ++ [e] }) s))
      else s

def execFaultEntryDeferredPost (p : Part) (s : State) : Out := .next (postHeld p 64 s)

/-! ### Configuration space and management (R346, R348, R352) -/

/-- R348: the bits of a function's configuration space that the device acts on. -/
def execConfigWrite (q : PciePort) (f : Fin 9) (w : ConfigBits) (s : State) : Out :=
  let c : FnConfig := ⟨w.busMaster, w.memSpace, w.d3hot, w.relaxed⟩
  .next (s.onHub fun h => { h with fnConfig := vupd h.fnConfig q fun v => vput v f c })

/-- R282: the link's IDE stream enters or leaves the Secure state. (DEDUCED, log entry 76) -/
def execIdeStreamChange (q : PciePort) (secure : Bool) (s : State) : Out :=
  .next (s.onHub fun h => { h with links := vupd h.links q fun l => { l with ideSecure := secure } })

/-- R348: the link has been out of L0 for more than 1 ms. -/
def execLinkHoldTimeout (q : PciePort) (s : State) : Out :=
  .next (s.onHub fun h => { h with links := vupd h.links q fun l => if l.inL0 then l else { l with holdLink := true } })

/-- 100 ms in units of 0.8 ns. (DEDUCED, log entry 82) -/
def claimWait : Nat := 125000000

/-- A write of HUB_MGR_CLAIM. (DEDUCED, log entry 82) -/
def writeClaim (q : PciePort) (v : U32) (s : State) : State :=
  if !v.getLsbD 0 then s
  else
    let l := s.hub.links[s.hub.managing]
    s.onHub fun h =>
      if q = h.managing then { h with lastClaim := .invalidCommand }
      else if !l.inL0 && decide (l.outSince + claimWait ≤ s.sys.now) then { h with lastClaim := .ok, claimDue := true }
      else { h with lastClaim := .notReady }

def execHubMgrClaim (q : PciePort) (value : U32) (s : State) : Out :=
  .next (if barOpen s (.f0 q) then writeClaim q value s else s)

/-- An accepted claim moves management at the boundary; the old port's unfinished commands lose their completions.
(DEDUCED, log entry 82) -/
def claimBoundary (s : State) : State :=
  if !s.hub.claimDue then s
  else
    let old := s.hub.managing
    let h := s.hub.f0[old]
    s.onHub fun b =>
      { b with managing := if old = 0 then 1 else 0, claimDue := false,
               lostCpl := min (b.lostCpl + h.outstanding + h.cplPending.length) 0xFFFF,
               f0Fetched := vput b.f0Fetched old [],
               f0 := vput b.f0 old { h with outstanding := 0, cplPending := [], enable := false, enabled := false, enableReq := false, disableReq := false } }

end Sys2Proof.Machine
end

