-- ==== Sys2Proof/Machine/Power.lean ====
section
/-! DEFINITION. Clocks, operating points and power (chapter 16): the reference PLL, the compute PLLs, the sequencer and the
governor, soft start, power states, heat and emergencies. -/

namespace Sys2Proof.Machine

/-! ### The reference tick (R327, R328, R330) -/

/-- The clock input is lost (R328): a LOCKED loop holds over, an ACQUIRING one runs free. With a failed oscillator the loss
of a LOCKED loop's input is a clock emergency (R330). -/
def refInputLost (meanOffset : U32) (s : State) : State :=
  match s.clk.ref with
  | .locked =>
    let s := s.onClk fun c => { c with ref := .holdover, inputValid := false, holdoverOffset := meanOffset,
                                        holdoverSince := s.sys.now, lockLosses := sat32 c.lockLosses }
    when s.clk.xoFail (enterEmergency .clock 0) (postF0 .clockPower .ok .warning 0 (detail 3 0) s)
  | .acquiring => s.onClk fun c => { c with ref := .freeRun, inputValid := false }
  | _ => s.onClk fun c => { c with inputValid := false }

/-- The event of a loop that leaves HOLDOVER (R328). -/
def postHoldoverExit : State → State := postF0 .clockPower .ok .warning 0 (detail 4 0)

/-- A free-running loop whose input may be recovered starts to acquire; one that may not recover runs free (R327). -/
def refSelect (s : State) : State :=
  let free := !s.clk.recover || s.sys.master
  let s := when (free && s.clk.ref == .holdover) postHoldoverExit s
  s.onClk fun c =>
    if free then { c with ref := .freeRun }
    else if c.ref == .freeRun && c.inputValid then { c with ref := .acquiring } else c

/-- Write of CLK_CTRL: RECOVER and FORCE_HOLDOVER; a forced loop treats its input as invalid. -/
def writeClkCtrl (v : U32) (s : State) : State :=
  let s := s.onClk fun c => { c with recover := v.getLsbD 0, forceHoldover := v.getLsbD 1 }
  let s := if s.clk.forceHoldover && s.clk.inputValid then refInputLost s.clk.freqOffset s else s
  refSelect s

/-- R328. -/
def execRefInputInvalid (meanOffset : U32) (s : State) : Out := .next (refInputLost meanOffset s)

/-- R327: ACQUIRING becomes LOCKED once the output has kept to the input for 2 s. -/
def execRefLockAchieved (s : State) : Out :=
  .next (if s.clk.ref = .acquiring ∧ s.clk.inputValid then s.onClk fun c => { c with ref := .locked } else s)

/-- R328: the input has been valid for 10 s. -/
def execHoldoverExit (s : State) : Out :=
  .next (if s.clk.ref = .holdover ∧ s.clk.inputValid then
      postHoldoverExit (s.onClk fun c => { c with ref := .acquiring })
    else s)

/-- Whether the window shows the oscillator failed (R330). -/
def xoBad (c : ClockSample) (linkUp : Bool) : Bool :=
  let ref := c.refA || c.refB
  let refOff := (c.refA && c.xoOffA) || (c.refB && c.xoOffB)
  if linkUp && ref then c.xoOffRecovered && refOff
  else if linkUp then c.xoOffRecovered
  else ref && refOff

/-- The reference of a port is seen or missed (R330). -/
def notePcieRef (q : PciePort) (present : Bool) (s : State) : State :=
  let was := (s.hub.links[q]).refPresent
  let s := s.onHub fun h => { h with links := vupd h.links q fun l => { l with refPresent := present } }
  when (was && !present) (postF0 .clockPower .ok .warning 0 (detail (Config.openField 1) q.val)) s

/-- R330: the clock monitor's window of 1 ms. -/
def execClockMonitorWindow (c : ClockSample) (s : State) : Out :=
  let linkUp := (s.sub s.sys.clockPort s.sys.clockSub).linkUp
  let s := s.onClk fun k => { k with freqOffset := c.freqOffset, lane := c.lane }
  let valid := linkUp && c.recoveredInRange && !s.clk.forceHoldover
  let s := if s.clk.inputValid && !valid then refInputLost c.freqOffset s
    else s.onClk fun k => { k with inputValid := valid }
  let s := refSelect s
  let s := notePcieRef 1 c.refB (notePcieRef 0 c.refA s)
  .next (if xoBad c linkUp then
      if s.clk.xoFail then s
      else
        let locked := s.clk.ref == .locked
        let s := postF0 .clockPower .ok .warning 0 (detail (Config.openField 2) 0) (s.onClk fun k => { k with xoFail := true })
        if locked then s else enterEmergency .clock 0 s
    else if s.pwr.emClock then s
    else s.onClk fun k => { k with xoFail := false })

/-! ### Compute PLLs (R332) -/

/-- R332: a running PLL is compared with the reference. -/
def execPllCheck (t : PllTarget) (ok : Bool) (s : State) : Out :=
  .next (if ok then s
    else match t with
      | .die d =>
        if (s.clk.plls[d]).dieFailed then s
        else abortDie d (State.onDie d (fun x => { x with clockStopped := true })
          (s.onClk fun c => { c with plls := vupd c.plls d fun p => { p with lost := true } }))
      | .mem k => enterEmergency .clock (8 + k.val) (s.onClk fun c => { c with memFailed := vput c.memFailed k true })
      | .link k => enterEmergency .clock (12 + k.val) (s.onClk fun c => { c with linkFailed := vput c.linkFailed k true }))

/-- R332: at the boundary the die runs from the other PLL; if that one does not lock either, the die has failed and its
partition enters DEGRADED. -/
def execPllFailover (d : Die) (otherLocks : Bool) (s : State) : Out :=
  .next (if !(s.clk.plls[d]).lost then s
    else if otherLocks then
      postF0 .clockPower .ok .warning d.val (detail 5 0)
        (State.onDie d (fun x => { x with clockStopped := false })
          (s.onClk fun c => { c with plls := vupd c.plls d fun p => { p with onQ := !p.onQ, oneFailed := true, lost := false } }))
    else
      let s := s.onClk fun c =>
        { c with plls := vupd c.plls d fun p => { p with oneFailed := true, dieFailed := true, lost := false } }
      let s := State.onDie d (fun x => { x with unusable := true }) s
      match s.ownerOf d with
      | some p => degradeSoon p s
      | none => s)

/-! ### Operating points (R331, R333, R334) -/

/-- Voltage of an operating point in mV, and its frequency in units of 10 MHz. -/
def opMillivolt (x : Nat) : Nat := [500, 520, 550, 580, 620, 660, 700, 750].getD x 750
def opFreq (x : Nat) : Nat := 70 + 15 * x

/-- t_V of a change, in units of 0.8 ns. (DEDUCED, log entry 67) -/
def rampTime (x y : Nat) : Nat := (max (opMillivolt x) (opMillivolt y) - min (opMillivolt x) (opMillivolt y)) * 125 + 3750

/-- The time a PLL takes to lock, 20 µs, in units of 0.8 ns. (DEDUCED, log entry 67) -/
def pllLockTime : Nat := 25000

/-- The read-back lies within ±10 mV of a point's voltage. -/
def voltageAt (mv x : Nat) : Bool := decide (mv ≤ opMillivolt x + 10 ∧ opMillivolt x ≤ mv + 10)

/-- R334: the regulator's answer to the request in progress. (DEDUCED, log entry 67) -/
def execAvsReadback (d : Die) (ack : Bool) (millivolt : Nat) (s : State) : Out :=
  let o := s.pwr.ops[d]
  let put (f : DieOp → DieOp) (s : State) : State := s.onPwr fun w => { w with ops := vupd w.ops d f }
  let fail := postF0 .clockPower .ok .warning d.val (detail 6 0)
  .next (if o.raiseDue then
      if ack && voltageAt millivolt o.target then put (fun o => { o with millivolt := millivolt, avsFails := 0 }) s
      else fail (put (fun o =>
        if 2 ≤ o.avsFails then
          { o with avsFails := 0, cap := some o.current, target := o.current, raiseDue := false, transition := false }
        else { o with avsFails := o.avsFails + 1 }) s)
    else if o.millivolt = opMillivolt o.current then s
    else if ack && voltageAt millivolt o.current then put (fun o => { o with millivolt := opMillivolt o.current }) s
    else fail s)

/-- Dies with one operating point: that of the first. -/
def opOf (s : State) (ds : List Die) : DieOp := match ds.head? with
  | some d => s.pwr.ops[d]
  | none => {}

/-- The floor of a partition: MIN_OP of its image; and its ceiling, with the caps of R334. -/
def floorOf (s : State) (p : Part) : Nat := match (s.part p).img.image with
  | some i => i.minOp
  | none => 0
def ceilingOf (s : State) (p : Part) : Nat :=
  (s.diesOf p).foldl (fun c d => match (s.pwr.ops[d]).cap with
    | some k => min c k
    | none => c) (max (s.part p).opMax (floorOf s p))

/-- The dies go one step lower: the standby already runs at the lower frequency, and the voltage follows. -/
def lowerDies (ds : List Die) (s : State) : State :=
  forAll ds (fun d s => s.onPwr fun w => { w with ops := vupd w.ops d fun o =>
    { o with current := o.current - 1, target := o.current - 1, busyUntil := s.sys.now + max pllLockTime (rampTime o.current (o.current - 1)) } }) s

/-- A raise to `y` is requested. -/
def raiseDies (ds : List Die) (y : Nat) (s : State) : State :=
  forAll ds (fun d s => s.onPwr fun w => { w with ops := vupd w.ops d fun o =>
    { o with target := y, raiseDue := true, transition := true, avsFails := 0,
             busyUntil := s.sys.now + max pllLockTime (rampTime o.current y) } }) s

/-- The highest point not above `y` whose ramp fits the beat less 1.6 µs (R333). -/
def reachable (period x : Nat) : Nat → Nat
  | 0 => x
  | y + 1 => if y + 1 ≤ x then x else if rampTime x (y + 1) + 2000 ≤ period then y + 1 else reachable period x y

/-- A requested raise whose voltages have been read back, and whose standby has locked, switches. All dies of a partition
share one operating point, so they switch together. (DEDUCED, log entry 67) -/
def finishRaise (ds : List Die) (s : State) : State :=
  if ds.all fun d => voltageAt (s.pwr.ops[d]).millivolt (s.pwr.ops[d]).target && decide ((s.pwr.ops[d]).busyUntil ≤ s.sys.now) then
    forAll ds (fun d s => s.onPwr fun w => { w with ops := vupd w.ops d fun o =>
      { o with current := o.target, raiseDue := false, transition := false, busyUntil := s.sys.now + pllLockTime } }) s
  else s

/-- The reading R336 takes of a die: 100 °C when fewer than 8 sensors are valid (R340). -/
def tjFor (s : State) (d : Die) : Int :=
  let t := s.pwr.tj[(⟨d.val, by omega⟩ : Fin 17)]
  if t.valid < 8 then 400 else t.tj

/-- Rule 4's prediction stays within 0.95 × POWER_BUDGET. -/
def raiseFits (draw budget x y : Nat) : Bool :=
  decide (draw * opFreq y * opMillivolt y ^ 2 * 100 ≤ 95 * budget * opFreq x * opMillivolt x ^ 2)

/-- The highest point above `x` and not above `y` that rule 4 allows; `x` if none. -/
def raiseTarget (draw budget x : Nat) : Nat → Nat
  | 0 => x
  | y + 1 => if y + 1 ≤ x then x else if raiseFits draw budget x (y + 1) then y + 1 else raiseTarget draw budget x y

/-- The consumers among which the governor divides the package's power (R21). -/
inductive PowerConsumer where
  | array | nttAndFiles | sram | dram | linkLanes | pcie | hubAndLeakage
  deriving DecidableEq, Repr

def powerConsumers : List PowerConsumer := [.array, .nttAndFiles, .sram, .dram, .linkLanes, .pcie, .hubAndLeakage]

/-- The budget of a consumer at OP7, in watts (R21). -/
def PowerConsumer.op7Budget : PowerConsumer → Nat
  | .array => 206 | .nttAndFiles => 70 | .sram => 60 | .dram => 90 | .linkLanes => 65 | .pcie => 15 | .hubAndLeakage => 45

/-- The sum of the budgets at OP7, and what the limit of 600 W leaves for regulator loss and current steps (R21). -/
def op7Total : Nat := (powerConsumers.map PowerConsumer.op7Budget).sum
def powerLimit : Nat := 600
def op7Headroom : Nat := powerLimit - op7Total

/-- R278 for a partition over its budget at its floor: one event in 1,024 beats, and the hold of its next beat while the package
would pass its limit; it applies whichever rule of R336 decides. (DEDUCED, log entry 66) -/
def overBudget (p : Part) (atFloor tooHigh : Bool) (s : State) : State :=
  if !tooHigh then State.onPart p (fun x => { x with overBudgetBeats := 0 }) s
  else if !atFloor then s
  else
    let n := (s.part p).overBudgetBeats
    let s := State.onPart p (fun x => { x with overBudgetBeats := n + 1, powerHold := decide (4 * powerLimit < s.pwr.package) }) s
    when (n % 1024 == 0) (postPart p .ok .error 3 s.pwr.partDraw[p]) s

/-- The governor's decision for a loaded partition (R336, R278), and the hold of R278 for its next beat. (DEDUCED, log entry 66) -/
def governor (p : Part) (budget : Nat) (s : State) : State :=
  let ds := s.diesOf p
  let o := opOf s ds
  let floor := floorOf s p
  let draw := s.pwr.partDraw[p]
  let busy := ds.any fun d => (s.pwr.ops[d]).raiseDue || decide (s.sys.now < (s.pwr.ops[d]).busyUntil)
  let tooHigh := decide (budget < draw)
  let s := overBudget p (decide (o.current ≤ floor)) tooHigh (State.onPart p (fun x => { x with powerHold := false }) s)
  if ds.any fun d => (s.pwr.ops[d]).raiseDue then finishRaise ds s
  else if ds.any fun d => decide (400 ≤ tjFor s d) then
    if floor < o.current && !busy then lowerDies ds (s.onPwr fun w => { w with throttleBeats := sat32 w.throttleBeats }) else s
  else if tooHigh then (if floor < o.current && !busy then lowerDies ds s else s)
  else
    if busy then s
    else if ceilingOf s p < o.current then lowerDies ds s
    else if ds.all fun d => decide (tjFor s d < 388) then
      let y := reachable s.sys.beatPeriod o.current (raiseTarget draw budget o.current (ceilingOf s p))
      if o.current < y then raiseDies ds y s else s
    else s

/-- While a new image waits, the sequencer raises its dies to its MIN_OP (R171, R336). -/
def raiseForLoad (p : Part) (minOp : Nat) (s : State) : State :=
  let ds := s.diesOf p
  let o := opOf s ds
  if ds.any fun d => (s.pwr.ops[d]).raiseDue then finishRaise ds s
  else if ds.any fun d => decide (s.sys.now < (s.pwr.ops[d]).busyUntil) then s
  else if o.current < minOp then raiseDies ds (reachable s.sys.beatPeriod o.current minOp) s
  else s

/-- A die of no loaded partition is gated at OP0. (DESIGN CHOICE, log entry 33) -/
def gateDie (d : Die) (s : State) : State :=
  s.onPwr fun w => { w with ops := vupd w.ops d fun o =>
    { o with current := 0, target := 0, raiseDue := false, transition := false, millivolt := 500 } }

/-- Metering (R335): the draws of the ending beat. (DESIGN CHOICE, log entry 68) -/
def meter (m : BoundaryInputs) (s : State) : State :=
  let die (d : Nat) : Nat := m.dieDraw.getD d 0 * (if h : d < 8 then s.pwr.meterScale[d] else 1024) / 1024
  let draw (p : Part) : Nat := if (s.part p).phase == .absent then 0
    else ((s.diesOf p).map fun d => die d.val + m.siteDraw.getD d.val 0 + 24).sum + m.laneDraw.getD p.val 0
  let total := ((List.range 8).map fun d => die d + m.siteDraw.getD d 0 + m.laneDraw.getD d 0).sum + m.restDraw
  s.onPwr fun w =>
    { w with partDraw := Vector.ofFn draw, package := total, packSum := w.packSum + total, packCount := w.packCount + 1,
             lastDieDraw := Vector.ofFn fun d => m.dieDraw.getD d.val 0 }

/-- R335: the meters are calibrated against the current read-back: later readings scale by read-back over metered draw. -/
def execEnergyCalibration (c : CalibrationSample) (s : State) : Out :=
  .next (s.onPwr fun w => { w with meterScale := Vector.ofFn fun d =>
    if w.lastDieDraw[d] = 0 then w.meterScale[d] else c.dieDraw.getD d.val 0 * 1024 / w.lastDieDraw[d] })

/-- R336: OP_MAX is accepted from 0 to 7 and kept across PART_LOAD. -/
def execOpSet (c : Cmd) (opMax : U8) (s : State) : Out :=
  .next (partCommand c 0x09 (decide (opMax.toNat ≤ 7))
    (fun p s => done c 0x09 .ok (State.onPart p (fun x => { x with opMax := opMax.toNat }) s)) s)

/-! ### Soft start (R337, R155) -/

/-- A T_SOFT that would push a loaded image's largest entry over its budget is refused. -/
def softFits (s : State) (tSoft : Nat) : Bool :=
  s.parts.toList.all fun x => match x.img.image with
    | some i => decide (maxCycles i ≤ schedBudget s.sys.beatPeriod tSoft i.minOp)
    | none => true

/-- Write of PWR_SOFT_START (R337, R345). -/
def writeSoftStart (v : U32) (s : State) : State :=
  let t := (v.extractLsb' 0 7).toNat
  let b := (v.extractLsb' 8 7).toNat
  let s := wake (s.onPwr fun w => { w with softRefused := w.softRefused && !v.getLsbD 16,
                                           ballast := if b ≤ 100 then b else w.ballast })
  if 80 < t then s
  else if softFits s t then s.onPwr fun w => { w with tSoft := t }
  else s.onPwr fun w => { w with softRefused := true }

def execSoftStartWrite (q : PciePort) (value : U32) (s : State) : Out := .next (f0Write q (writeSoftStart value) s)

/-- A write of PWR_OP: CAPPED is cleared by a 1 (R334). -/
def writeCapped (d : Die) (v : U32) (s : State) : State :=
  when (v.getLsbD 17) (fun s => s.onPwr fun w => { w with ops := vupd w.ops d fun o => { o with cap := none, avsFails := 0 } })
    (wake s)

def execCappedClear (q : PciePort) (d : Die) (value : U32) (s : State) : Out := .next (f0Write q (writeCapped d value) s)

/-! ### Power states (R338, R339) -/

def PowerState.code : PowerState → Nat
  | .p0 => 0 | .p1 => 1 | .p2 => 2 | .p3 => 3 | .p4 => 4

/-- The conditions of R338, row by row. -/
def holdAllowed (s : State) : Bool :=
  (s.parts.toList.all fun x => x.idleForTests && x.hif.outstanding == 0 && x.img.load.isNone)
    && s.hub.f0.toList.all (fun h => h.outstanding == 0) && s.tst.running.isNone
def restAllowed (s : State) : Bool := holdAllowed s && s.parts.toList.all fun x => x.twin.phase == .unbound
def napAllowed (s : State) : Bool := restAllowed s && s.parts.toList.all fun x => x.phase == .absent || x.phase == .idle
def dormantAllowed (s : State) : Bool := napAllowed s && s.parts.toList.all fun x => x.phase == .absent

/-- The deepest state at or above the request whose conditions hold. -/
def deepest (s : State) (req : Nat) : PowerState :=
  if 4 ≤ req && dormantAllowed s then .p4
  else if 3 ≤ req && napAllowed s then .p3
  else if 2 ≤ req && restAllowed s then .p2
  else if 1 ≤ req && holdAllowed s then .p1
  else .p0

/-- What a power state does not keep (R338): SRAM in P3 and deeper, LPDDR5X in P4. Lost memory reads as memory does that nothing
has written. (DESIGN CHOICE, log entry 31) -/
def loseMemory (t : PowerState) (m : MemState) : MemState :=
  let from_ := if 4 ≤ t.code then 2 ^ 50 else if 3 ≤ t.code then 2 ^ 40 else 0
  let keep (l : Nat) : Bool := decide (from_ ≤ l * 64)
  { m with cells := m.cells.filter fun c => decide (from_ ≤ c.1), poison := m.poison.filter keep, bad := m.bad.filter keep,
           soft := m.soft.filter keep }

/-- Step 8 of R25: entry, unless a wake event came at this boundary. In P2 and deeper the sites refresh themselves; in
diapause the beat counter stops and the link dies are powered down. (DESIGN CHOICE, log entry 31; DEDUCED, log entry 69) -/
def enterPowerState (s : State) : State :=
  let t := deepest s s.pwr.stateReq
  let s' := s.onPwr fun w => { w with wakeSeen := false }
  if s.pwr.wakeSeen || s.pwr.exiting || t.code ≤ s.pwr.state.code then s'
  else
    let s' := (s'.onPwr fun w => { w with state := t }).onStore (loseMemory t)
    let s' := when (decide (2 ≤ t.code)) (fun s => s.onStore fun m =>
      { m with sites := vall m.sites fun _ x => { x with selfRefresh := x.trained } }) s'
    when (t == .p4) (fun s =>
      { s with sys := { s.sys with running := false }, clk := { s.clk with ref := .freeRun, inputValid := false },
               ports := vall s.ports fun _ x => { x with subs := vall x.subs fun _ b =>
                 { b with linkUp := false, hs := .idle, assoc := none, oldAssoc := none, handshake := {} } } }) s'

/-- Write of PWR_STATE_REQ: 5 to 7 are discarded; any write to the block wakes. -/
def writeStateReq (v : U32) (s : State) : State :=
  let n := (v.extractLsb' 0 3).toNat
  wake (if n ≤ 4 then s.onPwr fun w => { w with stateReq := n } else s)

def execPwrStateReqWrite (q : PciePort) (value : U32) (s : State) : Out := .next (f0Write q (writeStateReq value) s)

/-- R339: a wake event. An RXT data packet wakes only for an existing partition. -/
def execPowerWake (w : WakeCause) (s : State) : Out :=
  .next (match w with
    | .rxtData p => if s.exists_ p then wake s else s
    | _ => wake s)

/-- The exit to P0 completes (R338). -/
def execPowerExitComplete (s : State) : Out :=
  .next (if !s.pwr.exiting then s
    else
      let was := s.pwr.state
      let s := s.onPwr fun w => { w with state := .p0, exiting := false }
      let s := s.onStore fun m => { m with sites := vall m.sites fun _ x => { x with selfRefresh := false } }
      when (was == .p4) (fun s => s.onSys fun y => { y with running := true }) s)

/-! ### Heat (R340 to R343) -/

/-- Sort a list of integers. -/
def insertInt (x : Int) : List Int → List Int
  | [] => [x]
  | y :: t => if x ≤ y then x :: y :: t else y :: insertInt x t
def sortInts (l : List Int) : List Int := l.foldr insertInt []

/-- Twice the median of a die's readings. (DEDUCED, log entry 66) -/
def median2 (l : List Int) : Int :=
  let t := sortInts l
  t.getD (t.length / 2) 0 + t.getD ((t.length - 1) / 2) 0

/-- A reading is valid within −40 °C to 150 °C and within 20 °C of the die's median (units of 0.25 °C). (DEDUCED, log entry 66) -/
def readingValid (l : List Int) (x : Int) : Bool :=
  decide (-160 ≤ x ∧ x ≤ 600) && decide (2 * x - median2 l ≤ 160 ∧ median2 l - 2 * x ≤ 160)

/-- FLOW_REQ is driven to full. -/
def fullFlow (s : State) : State := s.onPwr fun w => { w with flow := 255 }

/-- R340, R343: a die's sensors are read. -/
def execTempSensorRead (d : AnyDie) (readings : List Int) (s : State) : Out :=
  let ok := readings.filter (readingValid readings)
  let old := s.pwr.tj[d]
  let t : TjReading := match sortInts ok |>.getLast? with
    | some x => ⟨x, ok.length⟩
    | none => ⟨old.tj, 0⟩
  let s := s.onPwr fun w => { w with tj := vput w.tj d t }
  let few := decide (d.val < 8) && decide (t.valid < 8)
  let s := when few fullFlow s
  let s := when (few && (decide (8 ≤ old.valid) || old.valid == 0))
    (postF0 .clockPower .ok .warning (emergencyDie d) (detail 8 0)) s
  .next (if decide (0 < t.valid) && decide (420 ≤ t.tj) then enterEmergency .thermal (emergencyDie d) s else s)

/-- R341: the coolant inlet is read; three failed reads make it stale. -/
def execCoolantRead (reading : Option Int) (s : State) : Out :=
  .next (match reading with
    | some t => s.onPwr fun w => { w with coolantT := t, coolantFails := 0, coolantStale := false }
    | none =>
      if s.pwr.coolantFails < 2 then s.onPwr fun w => { w with coolantFails := w.coolantFails + 1 }
      else
        let was := s.pwr.coolantStale
        let s := fullFlow (s.onPwr fun w => { w with coolantFails := 3, coolantStale := true, coolantT := 180 })
        if was then s else postF0 .clockPower .ok .warning 0 (detail 7 0) s)

/-- tj(h) of R342 for duty d, in units of 0.25 °C / 2^32. (DESIGN CHOICE, log entry 68) -/
def predictTj (w : PwrState) (p : Nat) (tjMax : Int) (d : Nat) : Int :=
  let r1 := (w.model0.extractLsb' 0 16).toNat
  let tau1 := (w.model0.extractLsb' 16 16).toNat
  let r2 := (w.model1.extractLsb' 0 16).toNat
  let tau2 := (w.model1.extractLsb' 16 16).toNat
  let e1 : Int := Config.expNeg (w.horizon * 1000) tau1
  let e2 : Int := Config.expNeg (w.horizon * 10) tau2
  let one : Int := 2 ^ 32
  let theta2 : Int := w.theta2
  let theta1 : Int := (tjMax - w.coolantT) * 2 ^ 16 - theta2
  let s1 : Int := p * r1 * 2 ^ 16 / 1000
  let s2 : Int := p * r2 * 255 * 2 ^ 16 / (1000 * d)
  w.coolantT * one + (s1 * one + (theta1 - s1) * e1) / 2 ^ 16 + (s2 * one + (theta2 - s2) * e2) / 2 ^ 16

/-- The smallest duty from `d` on, in at most `n` tries, that keeps tj(h) at or under the target; 255 where none does.
(DESIGN CHOICE, log entry 68) -/
def chooseDuty (w : PwrState) (p : Nat) (tjMax : Int) : Nat → Nat → Nat
  | 0, _ => 255
  | n + 1, d =>
    if 255 ≤ d then 255
    else if d = 0 then chooseDuty w p tjMax n 1
    else if predictTj w p tjMax d ≤ w.thermTarget * 2 ^ 32 then d else chooseDuty w p tjMax n (d + 1)

/-- R342: every 100 ms the governor predicts the hottest junction and sets the flow: a rise at once, a fall by at most three
steps a second. (DESIGN CHOICE, log entry 68) -/
def execThermalModelUpdate (s : State) : Out :=
  let w := s.pwr
  let p := if w.packCount = 0 then w.package else w.packSum / w.packCount
  let tjMax : Int := (w.tj.toList.filter fun t => decide (0 < t.valid)).foldl (fun m t => max m t.tj) (-160)
  let few := (List.finRange 8).any fun d => decide ((w.tj[(⟨d.val, by omega⟩ : Fin 17)]).valid < 8)
  let full := w.emThermal || w.coolantStale || few
  let want := if full then 255 else chooseDuty w p tjMax 256 w.flowMin
  let credit := min (w.fallCredit + 3) 10
  let flow := if w.flow ≤ want then want else if 10 ≤ credit then w.flow - 1 else w.flow
  let left := if flow < w.flow then credit - 10 else credit
  let tau2 := (w.model1.extractLsb' 16 16).toNat
  let s2 : Int := p * (w.model1.extractLsb' 0 16).toNat * 255 * 2 ^ 16 / (1000 * max flow 1)
  .next (s.onPwr fun w =>
    { w with flow := flow, fallCredit := left, packSum := 0, packCount := 0,
             theta2 := s2 + (w.theta2 - s2) * Config.expNeg 1 tau2 / 2 ^ 32 })

/-- R343: VR_ALERT_N, or a rail read back outside its window. -/
def execVrAlert (a : RailAlert) (s : State) : Out :=
  .next (enterEmergency .supply (Config.openField 3) (s.onPwr fun w => match a with
    | .alertPin => { w with vrAlert := true }
    | .rail n => { w with railsBad := if w.railsBad.contains n then w.railsBad else w.railsBad ++ [n] }))

/-- R343: a die's droop monitor: its clock stops and its clusters abort. -/
def execDroopDetect (d : Die) (s : State) : Out :=
  .next (enterEmergency .supply d.val (abortDie d (State.onDie d (fun x => { x with clockStopped := true }) s)))

/-- R343: an emergency's clearing condition has held for its time. -/
def execEmergencyClear (e : Emergency) (s : State) : Out :=
  .next (match e with
    | .thermal => if s.pwr.tj.toList.all fun t => t.valid == 0 || decide (t.tj ≤ 380) then leaveEmergency .thermal s else s
    | .supply =>
      leaveEmergency .supply { s with dies := vall s.dies fun d x => { x with clockStopped := (s.clk.plls[d]).lost } }
    | .clock => leaveEmergency .clock (s.onClk fun c => { c with xoFail := false }))

end Sys2Proof.Machine
end

