-- ==== Sys2Proof/Machine/Repair.lean ====
section
/-! DEFINITION. The weevil, repair and retirement (R210 to R212), test swaps (R172, R173), the rotating and quiescent tests
(R386 to R389). -/

namespace Sys2Proof.Machine

/-! ### Clusters and their slices -/

/-- The logical cluster, within its region, that a physical offset serves. -/
def roleOf (m : ClusterMap) (off : Nat) : Option (Fin 8) := (List.finRange 8).find? fun j => (m.log[j]).toNat == off

def regionOf (phys : PhysCluster) : Region := ⟨phys.val / 9, by omega⟩
def offsetOf (phys : PhysCluster) : Nat := phys.val % 9
def logicalOf (r : Region) (j : Fin 8) : Cluster := ⟨8 * r.val + j.val, by omega⟩
def regionOfLogical (c : Cluster) : Region := ⟨c.val / 8, by omega⟩
def roleOfLogical (c : Cluster) : Fin 8 := ⟨c.val % 8, by omega⟩

def State.mapOf (s : State) (d : Die) (r : Region) : ClusterMap := ((s.dies[d]).regions[r]).map
def onMap (d : Die) (r : Region) (f : ClusterMap → ClusterMap) : State → State :=
  State.onRegion d r fun x => { x with map := f x.map }
def onSwap (d : Die) (r : Region) (f : SwapState → SwapState) : State → State :=
  State.onRegion d r fun x => { x with swap := f x.swap }
def onTest (d : Die) (r : Region) (f : TestRegion → TestRegion) : State → State :=
  State.onRegion d r fun x => { x with test := f x.test }

/-- SOURCE of a MEMORY event (R378). -/
def memSource (dieOrSite cluster : Nat) (dram : Bool) (region : Nat) : Nat :=
  dieOrSite ||| cluster <<< 3 ||| (if dram then 256 else 0) ||| region <<< 9

/-- The partition address that a leaf maps onto a key. -/
def mappedAt (s : State) (p : Part) (key : Nat) : Option Nat :=
  let at_ (shift : Nat) (x : Nat × U64) : Option Nat :=
    if leafType x.2 = 2 then match s.leafKey p x.2 (x.1 * 2 ^ shift) with
      | some k => if k ≤ key ∧ key < k + 2 ^ shift then some (x.1 * 2 ^ shift + (key - k)) else none
      | none => none
    else none
  ((s.part p).mem.leaves.findSome? (at_ 16)).or ((s.part p).mem.largeLeaves.findSome? (at_ 25))

/-- A MEMORY event: to F0, and to the partition when the resource is mapped; DETAIL is the partition address, or the physical
offset where nothing is mapped. -/
def postMemory (owner : Option Part) (key off : Nat) (st : Status) (sev : Severity) (source : Nat) (s : State) : State :=
  match owner with
  | some p => match mappedAt s p key with
    | some va => postBoth p .memory st sev source (BitVec.ofNat 64 va) s
    | none => postF0 .memory st sev source (BitVec.ofNat 64 off) s
  | none => postF0 .memory st sev source (BitVec.ofNat 64 off) s

/-- The lowest partition address mapped onto a slice page of a logical cluster. -/
def mappedCluster (s : State) (p : Part) (d : Die) (c : Cluster) : Option Nat :=
  (s.part p).mem.leaves.findSome? fun (n, e) =>
    if leafType e = 2 ∧ leafBacking e = 0 ∧ (e.extractLsb' 16 3).toNat = d.val ∧ sramLeafCluster e = c then some (n * 2 ^ 16) else none

/-- A MEMORY event about a whole slice: to F0, and to the partition when it maps a page of the slice; DETAIL is the lowest such
address, or the offset 0. (DESIGN CHOICE, log entry 152) -/
def postSlice (d : Die) (c : Cluster) (st : Status) (sev : Severity) (source : Nat) (s : State) : State :=
  match s.ownerOf d with
  | some p => match mappedCluster s p d c with
    | some va => postBoth p .memory st sev source (BitVec.ofNat 64 va) s
    | none => postF0 .memory st sev source 0 s
  | none => postF0 .memory st sev source 0 s

/-- Copy a slice, with its poison marks, and leave nothing behind; lines that are uncorrectable arrive as poison marks. -/
def moveSlice (d : Die) (src dst : Nat) (s : State) : State :=
  let a := sramKey d.val src 0
  let b := sramKey d.val dst 0
  let n := 2 ^ 25
  let inSrc (k : Nat) : Bool := decide (a ≤ k ∧ k < a + n)
  let moved := (s.mem.cells.filter fun c => inSrc c.1).map fun c => (c.1 - a + b, c.2)
  let marks := ((s.mem.poison ++ s.mem.bad).filter fun l => inSrc (l * 64)).map fun l => l - lineOf a + lineOf b
  let s := s.zeroRange b n
  let s := s.zeroRange a n
  let s := s.onStore fun m => { m with cells := moved.foldl (fun l c => cellPut l c.1 c.2) m.cells,
                                       poison := marks.foldl insertSet m.poison }
  { s with parts := vall s.parts fun _ x => { x with bar2Writes := x.bar2Writes.map fun w => (if inSrc w.1 then w.1 - a + b else w.1, w.2) } }

/-- A physical cluster leaves service: its bit is set, and rotation in the region stops (R211). -/
def retireBit (off : Nat) (m : ClusterMap) : ClusterMap :=
  { m with retired := m.retired ||| BitVec.ofNat 9 (2 ^ off), rotationStopped := true }

/-- Every line of a slice that is mapped or reserved gets the poison mark (R211, unreachable cluster). -/
def poisonSlice (d : Die) (c : Cluster) (phys : Nat) (s : State) : State :=
  let base := lineOf (sramKey d.val phys 0)
  let pages := match s.ownerOf d with
    | some p => (s.part p).mem.leaves.filterMap fun (_, e) =>
        if leafType e = 2 ∧ leafBacking e = 0 ∧ (e.extractLsb' 16 3).toNat = d.val ∧ sramLeafCluster e = c
        then some (sramLeafPage e) else none
    | none => []
  let lines := (pages ++ (List.range 64).map (· + 448)).flatMap fun g => (List.range 1024).map fun i => base + g * 1024 + i
  s.onStore fun m => { m with poison := lines.foldl insertSet m.poison }

/-- Unit state of a cluster whose slice is lost is poisoned with it (R132); its saved job contexts lie in the slice (R133). -/
def UnitRegs.poisoned (u : UnitRegs) : UnitRegs :=
  { u with v := (List.range 256).map fun i => (i, { u.reg i with poison := true }),
           tiles := (List.range 64).map fun i => (i, { tget u.tiles i {} with poison := true }) }

def poisonUnits (d : Die) (c : Cluster) : State → State :=
  forAll (List.finRange 8) (fun u => State.onUnit d c u fun x => { x with work := x.work.poisoned, base := x.base.poisoned })

/-- Retirement of a logical cluster (R211). One that can still be read and has a spare is repaired at the next fallow beat, one
that works without a spare stays. Any other is lost: its beat aborts, for the whole partition where no spare is left, and the
next boundary changes the map (R18). -/
def retireLogical (d : Die) (c : Cluster) (readable works : Bool) (s : State) : State :=
  let r := regionOfLogical c
  let j := roleOfLogical c
  let m := s.mapOf d r
  if 8 < (m.log[j]).toNat then s
  else if decide (m.spare.toNat ≤ 8) && readable then onSwap d r (fun w => { w with repair := some j }) s
  else if readable && works then postSlice d c .ok .warning (memSource d.val c.val false r.val) s
  else
    let s := onSwap d r (fun w => { w with lost := insertSet w.lost j }) (abortCluster d c s)
    match (if m.spare.toNat ≤ 8 then none else s.ownerOf d) with
    | some p => forAll (s.diesOf p) abortDie s
    | none => s
where
  insertSet (l : List (Fin 8)) (j : Fin 8) : List (Fin 8) := if l.contains j then l else l ++ [j]

/-- Step 6: the spare takes the role of a cluster that cannot be read; every line of the slice arrives poisoned (R211). -/
def takeSpare (d : Die) (r : Region) (j : Fin 8) (s : State) : State :=
  let m := s.mapOf d r
  let off := (m.log[j]).toNat
  let c := logicalOf r j
  if 8 < off ∨ 8 < m.spare.toNat then s
  else
    let s := onMap d r (fun m => retireBit off { m with log := vput m.log j m.spare, spare := 0xF }) s
    let s := onSwap d r (fun w => { w with lost := w.lost.filter (· != j), copying := none, mapDue := false }) s
    let s := onTest d r (fun t => { t with spareReady := false }) s
    postSlice d c .uncorrectableMemory .error (memSource d.val c.val false r.val)
      (poisonUnits d c (poisonSlice d c (9 * r.val + m.spare.toNat) s))

/-- Step 4: a lost cluster without a spare. Its role is provided by no cluster, and its partition enters DEGRADED (R211). -/
def loseRole (d : Die) (r : Region) (j : Fin 8) (s : State) : State :=
  let off := ((s.mapOf d r).log[j]).toNat
  if 8 < off then s
  else
    let s := onMap d r (fun m => retireBit off { m with log := vput m.log j 0xF }) s
    let s := onSwap d r (fun w => { w with lost := w.lost.filter (· != j) }) s
    let s := State.onDie d (fun x => { x with capacity := x.capacity &&& ~~~(1#32 <<< (logicalOf r j).val) }) s
    match s.ownerOf d with
    | none => s
    | some p => degradeSoon p s

/-- R211: at the next boundary. -/
def execClusterRetire (d : Die) (c : Cluster) (cause : RetireCause) (s : State) : Out :=
  .next (retireLogical d c cause.readable cause.works s)

/-- A physical cluster without a role leaves service at the next boundary (R18, R387). -/
def outOfService (d : Die) (phys : PhysCluster) : State → State :=
  onSwap d (regionOf phys) fun w => { w with out := ⟨offsetOf phys, Nat.mod_lt _ (by decide)⟩ :: w.out }

/-- A physical cluster that a test found bad (R387, R389): a spare is retired, a serving one leaves under R211. -/
def failPhysical (d : Die) (phys : PhysCluster) (test : Nat) (result : Nat) (s : State) : State :=
  let r := regionOf phys
  let off := offsetOf phys
  let m := s.mapOf d r
  let s := onTest d r (fun t => { t with fails := min (t.fails + 1) 255, lastFail := BitVec.ofNat 4 off }) s
  match roleOf m off with
  | some j => retireLogical d (logicalOf r j) true false s
  | none =>
    let s := onTest d r (fun t => { t with spareReady := false }) (outOfService d phys s)
    postF0 .test .ok .error (test ||| d.val <<< 8 ||| r.val <<< 12) (BitVec.ofNat 64 result) s

/-! ### Test swaps (R172, R173, R387) -/

/-- Whether beat `n` is a fallow beat of an image. (DESIGN CHOICE, log entry 64) -/
def fallowBeat (i : Image) (n : Nat) : Bool := n % max i.swapPeriod 1 == i.swapPhase

/-- The logical cluster the calendar names in beat `n`. -/
def swapTurn (i : Image) (n : Nat) : Fin 8 := ⟨n / max i.swapPeriod 1 % 8, by omega⟩

/-- The swap of a region begins: a repair comes before the rotation, an owed swap before the calendar's. Only a spare whose
latest test passed takes a role. -/
def startSwap (turn : Fin 8) (d : Die) (r : Region) (s : State) : State :=
  let x := (s.dies[d]).regions[r]
  let want := match x.swap.repair with
    | some j => some j
    | none => if x.map.rotationStopped then none else some (x.swap.owed.getD turn)
  match want with
  | none => s
  | some j =>
    if x.map.spare.toNat ≤ 8 ∧ x.test.spareReady ∧ x.test.underTest = 0xF then
      onSwap d r (fun w => { w with
        copying := some j, forRepair := w.repair == some j, mapDue := false, owed := none, abandoned := false }) s
    else onTest d r (fun t => { t with skipped := sat16 t.skipped }) s

/-- Regions of a partition's dies. -/
def regionsOf (s : State) (p : Part) : List (Die × Region) := (s.diesOf p).flatMap fun d => (List.finRange 4).map fun r => (d, r)

/-- R172: the fallow beat begins; its copies start. (DESIGN CHOICE, log entry 64) -/
def execTestSwapStart (p : Part) (s : State) : Out :=
  .next (match (s.part p).img.image with
    | none => s
    | some i =>
      if fallowBeat i s.sys.beat && ((s.part p).img.kind == .fallow || (s.part p).img.kind == .switch) then
        forAll (regionsOf s p) (fun (d, r) => startSwap (swapTurn i s.sys.beat) d r) s
      else s)

/-- Whether a slice holds an uncorrectable line. -/
def sliceBad (s : State) (d : Die) (phys : Nat) : Bool :=
  s.mem.bad.any fun l => decide (sramKey d.val phys 0 ≤ l * 64 ∧ l * 64 < sramKey d.val phys 0 + 2 ^ 25)

/-- The boundary that ends the fallow beat: the map takes the new mapping. A rotation whose source slice holds an uncorrectable
line is abandoned. (DESIGN CHOICE, log entry 63) -/
def finishSwap (d : Die) (r : Region) (s : State) : State :=
  let x := (s.dies[d]).regions[r]
  match x.swap.copying with
  | none => s
  | some j =>
    let old := (x.map.log[j]).toNat
    let src := 9 * r.val + old
    if sliceBad s d src && !x.swap.forRepair then
      onSwap d r (fun w => { w with copying := none, mapDue := false, abandoned := true }) s
    else
      let s := moveSlice d src (9 * r.val + x.map.spare.toNat) s
      let s := onSwap d r (fun w => { w with
        copying := none, mapDue := false, repair := if w.repair = some j then none else w.repair }) s
      if x.swap.forRepair || x.swap.repair == some j then
        postSlice d (logicalOf r j) .ok .warning (memSource d.val (8 * r.val + j.val) false r.val)
          (onMap d r (fun m => retireBit old { m with log := vput m.log j m.spare, spare := 0xF }) s)
      else
        onTest d r (fun t => { t with underTest := BitVec.ofNat 4 old, spareReady := false })
          (onMap d r (fun m => { m with log := vput m.log j m.spare, spare := 0xF }) s)

/-- The copy has read the whole slice of the role it copies. -/
def noteCopy (d : Die) (r : Region) (j : Fin 8) (s : State) : State :=
  let a := lineOf (sramKey d.val (9 * r.val + ((s.mapOf d r).log[j]).toNat) 0)
  s.onStore fun m => { m with met := m.met ++ (m.bad ++ m.soft).filter fun l => decide (a ≤ l ∧ l < a + 2 ^ 19) }

/-- The copy of a region has ended; the next boundary changes the map. -/
def copyEnded (d : Die) (r : Region) (s : State) : State :=
  match ((s.dies[d]).regions[r]).swap.copying with
  | none => s
  | some j => onSwap d r (fun w => { w with mapDue := true }) (noteCopy d r j s)

/-- R172: the copies of the fallow beat have ended; at the boundary, at step 6, the map takes the new mapping.
(DESIGN CHOICE, log entry 155) -/
def execSwapMapUpdate (p : Part) (s : State) : Out := .next (forAll (regionsOf s p) (fun (d, r) => copyEnded d r) s)

/-- Step 6 for one region: offsets leave service, a tested spare takes its place, an ended copy takes effect, and spares take the
roles of lost clusters (R18, R172, R211, R387). -/
def stepRegion (d : Die) (r : Region) (s : State) : State :=
  let w := ((s.dies[d]).regions[r]).swap
  let s := forAll w.out (fun off => onMap d r fun m =>
    retireBit off.val (if m.spare.toNat = off.val then { m with spare := 0xF } else m)) s
  let s := match w.spareNew with
    | some off => onMap d r (fun m =>
        if (roleOf m off.val).isNone && !m.retired.getLsbD off.val then { m with spare := BitVec.ofNat 4 off.val } else m) s
    | none => s
  let s := onSwap d r (fun w => { w with out := [], spareNew := none }) s
  let s := when w.mapDue (finishSwap d r) s
  forAll w.lost (takeSpare d r) s

/-- A swap whose boundary is cancelled by a hold, a fencing or a removal is owed to the next fallow beat (R25, R173). -/
def cancelSwap (d : Die) (r : Region) : State → State :=
  onSwap d r fun w => match w.copying with
    | none => w
    | some j => { w with copying := none, mapDue := false, owed := if w.forRepair then w.owed else some (w.owed.getD j) }

/-- The test of an offset of a region may end: the cluster under test, else the spare; on a die of no partition or of an IDLE one,
any cluster in turn, but in P2 and deeper (R387). -/
def mayTest (s : State) (d : Die) (r : Region) (off : Fin 9) : Bool :=
  let t := ((s.dies[d]).regions[r]).test
  let idle := match s.ownerOf d with
    | none => true
    | some p => (s.part p).phase == .idle
  if t.underTest = 0xF then (s.mapOf d r).spare.toNat == off.val || (idle && decide (s.pwr.state.code < 2))
  else t.underTest.toNat == off.val

/-- R387: the self-test of a cluster ends; one that serves no role becomes or stays spare, or leaves service, at the next
boundary. (DESIGN CHOICE, log entry 63) -/
def execSpareTestComplete (d : Die) (r : Region) (t : SpareResult) (s : State) : Out :=
  let off := t.off
  .next (if !mayTest s d r off then s
    else
      let s := onTest d r (fun t => { t with underTest := 0xF }) s
      if t.pass then
        let s := onTest d r (fun t => { t with passes := sat16 t.passes }) s
        if (roleOf (s.mapOf d r) off.val).isSome then s
        else onTest d r (fun t => { t with spareReady := true }) (onSwap d r (fun w => { w with spareNew := some off }) s)
      else failPhysical d ⟨9 * r.val + off.val, by omega⟩ 0 (testResult 1 0 0 0) s)

/-! ### The weevil (R196, R197, R210, R212) -/

/-- A physical cluster is marked for retirement (R211): one in service with a spare is repaired at the next fallow beat, one
without a spare gives an event; one that serves no role leaves service at the next boundary, with its event. -/
def markCluster (d : Die) (phys : PhysCluster) (s : State) : State :=
  let r := regionOf phys
  let off := offsetOf phys
  let m := s.mapOf d r
  match roleOf m off with
  | some j => retireLogical d (logicalOf r j) true true s
  | none =>
    if m.retired.getLsbD off then s
    else
      let s := onTest d r (fun t => { t with spareReady := false, underTest := if t.underTest.toNat = off then 0xF else t.underTest })
        (outOfService d phys s)
      postF0 .memory .ok .warning (memSource d.val 0 false r.val) 0 s

/-- A read met an uncorrectable word or beat. -/
def noteUe (owner : Option Part) (key off source : Nat) (s : State) : State :=
  postMemory owner key off .uncorrectableMemory .error source
    (s.onStore fun m => { m with bad := insertSet m.bad (lineOf key), soft := m.soft.filter (· != lineOf key) })

/-- A read of a slice line that corrects a word: it counts against the slice (R196, R211). -/
def sramCorrected (d : Die) (c : PhysCluster) (s : State) : State :=
  let id := d.val * 36 + c.val
  let s := s.onStore fun m => { m with sramCeTotal := sat64 m.sramCeTotal, sliceCe := tupd m.sliceCe id 0 (· + 1) }
  when (decide (s.mem.sramCeLimit < tget s.mem.sliceCe id 0)) (markCluster d c) s

/-- A read of a slice line that meets an uncorrectable word (R196, R211). -/
def sramUncorrectable (d : Die) (c : PhysCluster) (line : Nat) (s : State) : State :=
  let role := roleOf (s.mapOf d (regionOf c)) (offsetOf c)
  let cl := match role with
    | some j => (logicalOf (regionOf c) j).val
    | none => 0
  let s := s.onStore fun m => { m with sramUeTotal := sat32 m.sramUeTotal }
  markCluster d c (noteUe (if role.isSome then s.ownerOf d else none) (sramKey d.val c.val (line * 64)) (line * 64)
    (memSource d.val cl false (regionOf c).val) s)

/-- The weevil's visit of a line in error: a corrected word is rewritten, and a line found uncorrectable before gets the poison
mark. (DEDUCED, log entry 153) -/
def rewriteLine (line : Nat) (s : State) : State :=
  s.onStore fun m => { m with
    soft := m.soft.filter (· != line), bad := m.bad.filter (· != line),
    poison := if m.bad.contains line then insertSet m.poison line else m.poison }

/-- What a patrol read finds: an upset the state knows of, or what the row says. -/
def foundAt (s : State) (line : Nat) (o : EccOutcome) : EccOutcome :=
  if s.mem.soft.contains line && o == .clean then .corrected else o

/-- A patrol read of a slice line. (DEDUCED, log entry 133) -/
def patrolSram (d : Die) (c : PhysCluster) (line : Nat) (o : EccOutcome) (s : State) : State :=
  let key := lineOf (sramKey d.val c.val (line * 64))
  let s := s.onStore fun m =>
    if line = 0 then { m with sliceCe := tdel m.sliceCe (d.val * 36 + c.val), sramPeriod := m.sramPeriodNext } else m
  if s.mem.poison.contains key then s
  else if s.mem.bad.contains key then rewriteLine key s
  else match foundAt s key o with
    | .clean => s
    | .corrected => sramCorrected d c (rewriteLine key s)
    | .uncorrectable => sramUncorrectable d c line s

def onSite (n : Site) (f : SiteState → SiteState) (s : State) : State :=
  s.onStore fun m => { m with sites := vupd m.sites n f }

/-- The repair list in SPI NOR follows the rows that wait (R394). -/
def syncRepairs (s : State) : State :=
  { s with spi := { s.spi with repairs := (List.finRange 8).flatMap fun n => (s.mem.sites[n]).pending.map fun r => (n.val, r) } }

/-- A row is queued for post-package repair (R212). -/
def queueRow (n : Site) (row : Nat) (s : State) : State :=
  syncRepairs (onSite n (fun x => { x with pending := insertSet x.pending row }) s)

/-- A read of a site line that corrects a beat: it counts against the row (R197, R212). -/
def dramCorrected (n : Site) (row : Nat) (s : State) : State :=
  let s := s.onStore fun m => { m with dramCeTotal := sat64 m.dramCeTotal }
  let s := onSite n (fun x => { x with rowCe := tupd x.rowCe row 0 (· + 1) }) s
  when (decide (s.mem.dramRowCeLimit ≤ tget (s.mem.sites[n]).rowCe row 0)) (queueRow n row) s

/-- A read of a site line that meets an uncorrectable beat (R197, R212). -/
def dramUncorrectable (n : Site) (row line : Nat) (s : State) : State :=
  let s := s.onStore fun m => { m with dramUeTotal := sat32 m.dramUeTotal }
  queueRow n row (noteUe (s.ownerOf n) (dramKey n.val (line * 64)) (line * 64) (memSource n.val 0 true 0) s)

/-- A patrol read of a site line. (DEDUCED, log entry 133) -/
def patrolDram (n : Site) (row line : Nat) (o : EccOutcome) (s : State) : State :=
  let key := lineOf (dramKey n.val (line * 64))
  let s := s.onStore fun m => if line = 0 then { m with dramPeriod := m.dramPeriodNext } else m
  let s := onSite n (fun x => if line = 0 then { x with rowCe := [], patrol := 0 } else { x with patrol := line / 1024 }) s
  if s.mem.poison.contains key then s
  else if s.mem.bad.contains key then rewriteLine key s
  else match foundAt s key o with
    | .clean => s
    | .corrected => dramCorrected n row (rewriteLine key s)
    | .uncorrectable => dramUncorrectable n row line s

/-- A read of the beat met a line in error: it counts, and an uncorrectable one posts its event and marks its cluster or row
(R196, R197). A line written whole since is good again. -/
def settleRead (line : Nat) (s : State) : State :=
  let soft := s.mem.soft.contains line
  if !soft && !s.mem.bad.contains line then s
  else if line * 64 < 2 ^ 40 then
    let id := line * 64 / 2 ^ 25
    if h : id / 36 < 8 then
      let d : Die := ⟨id / 36, h⟩
      let c : PhysCluster := ⟨id % 36, by omega⟩
      if soft then sramCorrected d c s else sramUncorrectable d c (line % 524288) s
    else s
  else
    let n := line * 64 / 2 ^ 40 - 1
    if h : n < 8 then
      let row := tget s.mem.rowOf line 0
      if soft then dramCorrected ⟨n, h⟩ row s else dramUncorrectable ⟨n, h⟩ row (line % 2 ^ 34) s
    else s

/-- The boundary settles what the reads of the beat have met. (DEDUCED, log entry 153) -/
def settleReads (s : State) : State :=
  forAll s.mem.met settleRead (s.onStore fun m => { m with met := [] })

/-- An uncorrectable error in an accumulator file poisons its tile (R132). (DESIGN CHOICE, log entry 14) -/
def tileUpset (d : Die) (c : Cluster) (u : UnitIx) (i : Fin 64) (s : State) : State :=
  let mark (w : UnitRegs) : UnitRegs := { w with tiles := tupd w.tiles i.val {} fun t => { t with poison := true } }
  postF0 .memory .uncorrectableMemory .error (memSource d.val c.val false (regionOfLogical c).val)
    (BitVec.ofNat 64 (Config.openField 20)) (State.onUnit d c u (fun x => { x with work := mark x.work, base := mark x.base }) s)

/-- An upset of the ending beat: nothing is visible before a read meets it, but for the molt store's and the accumulator
file's, which their own checks find (R117, R132). A slot or an entry is found corrupt at its next use (R288, R293). (DESIGN CHOICE, log entry 153) -/
def upset (x : Upset) (s : State) : State :=
  let vbat (f : VbatState → VbatState) : State := s.onKey fun k => { k with vbat := f k.vbat }
  let line (l : Nat) (double : Bool) (s : State) : State := s.onStore fun m =>
    if double then { m with bad := insertSet m.bad l, soft := m.soft.filter (· != l) }
    else if m.bad.contains l then m else { m with soft := insertSet m.soft l }
  match x with
  | .sram d c n double => line (lineOf (sramKey d.val c.val (n.val * 64))) double s
  | .dram n row l double =>
    let key := lineOf (dramKey n.val (l * 64))
    line key double (s.onStore fun m => { m with rowOf := tput m.rowOf key row })
  | .tile d c u t => tileUpset d c u t s
  | .store d r => State.onRegion d r (fun x => { x with storeFailed := true }) s
  | .slot i => onSlot i.val (fun x => { x with tagOk := false }) s
  | .root => vbat fun v => { v with root := none }
  | .ledger i => vbat fun v => { v with ledger := v.ledger.modify i.val fun e => { e with tagOk := false } }

/-- R210: a patrol read, while its patrol is enabled; the patrol pauses in P2 and deeper (R338). -/
def execWeevilPatrol (t : PatrolTarget) (o : EccOutcome) (s : State) : Out :=
  .next (if 2 ≤ s.pwr.state.code then s
    else match t with
      | .sram d c line => if s.mem.weevilCtrl.getLsbD 0 then patrolSram d c line.val o s else s
      | .dram n row line => if s.mem.weevilCtrl.getLsbD 1 then patrolDram n row line o s else s)

/-! ### Retired pages and repairs (R204, R212) -/

/-- The partition page whose leaf maps a frame of a site. -/
def mapsFrame (s : State) (p : Part) (n frame : Nat) : Option Nat :=
  (s.part p).mem.leaves.findSome? fun (k, e) =>
    if leafType e = 2 ∧ leafBacking e = 1 ∧ leafSite e = n ∧ leafFrame e = frame then some k else none

/-- A free page of the partition's pool: site and frame. -/
def poolPage (s : State) (p : Part) : Option (Nat × Nat) :=
  (s.diesOf p).findSome? fun d => (freePage s (usedPages (s.part p).mem) d.val).map fun f => (d.val, f)

/-- The LARGE leaf that covers a frame becomes its 512 small leaves, so that one page of it can move; their table takes a fresh
page where the last table page is full. Without a free page the leaf stays whole. (DESIGN CHOICE, log entry 152) -/
def splitLarge (p : Part) (n frame : Nat) (s : State) : State :=
  let m := (s.part p).mem
  match m.largeLeaves.find? fun x => leafSite x.2 == n && decide (leafFrame x.2 ≤ frame ∧ frame < leafFrame x.2 + 512) with
  | none => s
  | some (k, e) =>
    let split (extra : List (Nat × Nat)) (m : PartMem) : PartMem :=
      { m with largeLeaves := tdel m.largeLeaves k, tableNums := m.tableNums ++ [k], tablePages := m.tablePages ++ extra,
               dirtyDram := m.dirtyDram ++ extra.filter fun x => !m.dirtyDram.contains x,
               leaves := (List.range 512).foldl (fun l i =>
                 tput l (k * 512 + i) (dramLeaf n (leafFrame e + i) false (e.extractLsb' 5 5))) m.leaves }
    if m.tableNums.length % 16 ≠ 0 then State.putTables p (State.onMem p (split []) s)
    else match poolPage s p with
      | some x => State.putTables p (State.onMem p (split [x]) s)
      | none => s

/-- Bit RETIRING of a leaf. -/
def retiringBit : U64 := 0x800

/-- A page is to be retired: a mapped page gets RETIRING, a page of the tables waits to move, and any other leaves the pool. -/
def retirePage (n : Site) (frame : Nat) (s : State) : State :=
  let wait : State → State := onSite n fun x => { x with retiring := insertSet x.retiring frame }
  match s.ownerOf n with
  | none => onSite n (fun x => { x with retired := insertSet x.retired frame }) s
  | some p =>
    let s := splitLarge p n.val frame s
    match mapsFrame s p n.val frame with
    | some k => wait (State.putEntry p (k * 2 ^ 16) (State.onMem p (fun m => { m with leaves := tupd m.leaves k 0 (· ||| retiringBit) }) s))
    | none =>
      if (usedPages (s.part p).mem).contains (n.val, frame) then wait s
      else onSite n (fun x => { x with retired := insertSet x.retired frame }) s

/-- No memory access of the site's partition can be pending: no partition, or one in Hold or Idle; or the site trains.
(DESIGN CHOICE, log entry 64; DEDUCED, log entry 65) -/
def repairAllowed (s : State) (n : Site) : Bool :=
  !(s.mem.sites[n]).trained || (match s.tst.running with
      | some r => r.test == 2 && r.target == n.val
      | none => false)
    || match s.ownerOf n with
      | none => true
      | some p => (s.part p).phase == .idle || (s.part p).img.kind == .held || decide (1 ≤ s.pwr.state.code)

/-- The repair resources a site has left for a row: those of the row's bank group. -/
def pprFor (s : State) (n : Site) (row : Nat) : Nat :=
  (s.mem.sites[n]).ppr.getD (Config.rowGroup n.val row % max (s.mem.sites[n]).ppr.length 1) 0

/-- A repair uses up one resource of the row's bank group, for good. -/
def usePpr (n : Site) (row : Nat) (s : State) : State :=
  let left := (s.mem.sites[n]).ppr.modify (Config.rowGroup n.val row % max (s.mem.sites[n]).ppr.length 1) (· - 1)
  s.onKey (fun k => { k with fuses := { k.fuses with ppr := vput k.fuses.ppr n left } })
    |> onSite n fun x => { x with ppr := left }

/-- The row leaves the queue, and its count of the pass with it. -/
def unqueueRow (n : Site) (row : Nat) (s : State) : State :=
  syncRepairs (onSite n (fun x => { x with pending := x.pending.erase row, rowCe := tdel x.rowCe row }) s)

/-- R212: a queued row is repaired, or its bank group has no resource left and its pages are retired. The rule orders no queue, and
the row names its DRAM row. (DEDUCED, log entry 65) -/
def execPostPackageRepair (n : Site) (row : Nat) (s : State) : Out :=
  .next (if !(s.mem.sites[n]).pending.contains row || !repairAllowed s n then s
    else
      let s := unqueueRow n row s
      if 0 < pprFor s n row then usePpr n row s
      else forAll (Config.rowPages n.val row) (retirePage n) s)

/-- Copy a 64 KiB page of a site to another place; lines that are uncorrectable arrive as poison marks (R212). -/
def movePage (a b : Nat) (s : State) : State :=
  let marks := ((s.mem.poison ++ s.mem.bad).filter fun l => decide (lineOf a ≤ l ∧ l < lineOf a + 1024)).map fun l =>
    l - lineOf a + lineOf b
  let data := s.bytesAt a (2 ^ 16)
  let s := (s.zeroRange a (2 ^ 16)).fill b data
  s.onStore fun m => { m with poison := marks.foldl insertSet m.poison }

/-- The page no longer stands in any pool. -/
def leavePool (n : Site) (page : Nat) : State → State :=
  onSite n fun x => { x with retiring := x.retiring.filter (· != page), retired := insertSet x.retired page }

/-- The partition's map names frame `f` of site `n'` where it named the page before: in a leaf, or as a page of the tables. -/
def remapPage (p : Part) (n page n' f : Nat) (s : State) : State :=
  let dirty (m : PartMem) : PartMem := if m.dirtyDram.contains (n', f) then m else { m with dirtyDram := m.dirtyDram ++ [(n', f)] }
  match mapsFrame s p n page with
  | some k => dropCached p k (State.putEntry p (k * 2 ^ 16) (State.onMem p (fun m =>
      dirty { m with leaves := tupd m.leaves k 0 fun e => dramLeaf n' f false (e.extractLsb' 5 5) }) s))
  | none => State.putTables p (State.onMem p (fun m =>
      let pages := m.tablePages.map fun x => if x = (n, page) then (n', f) else x
      dirty { m with tablePages := pages, ptRoot := rootOf pages }) s)

/-- R212: at the boundary a page that is to be retired moves to a free page of its pool; without one it stays in service, with
an event. -/
def execPageMigration (n : Site) (page : Nat) (s : State) : Out :=
  .next (match s.ownerOf n with
    | none => s
    | some p =>
      if !(s.mem.sites[n]).retiring.contains page || !(usedPages (s.part p).mem).contains (n.val, page) then s
      else match poolPage s p with
        | none => postMemory (some p) (dramKey n.val (page * 2 ^ 16)) (page * 2 ^ 16) .capacity .warning
            (memSource n.val 0 true 0) s
        | some (n', f) => remapPage p n.val page n' f
            (leavePool n page (movePage (dramKey n.val (page * 2 ^ 16)) (dramKey n' (f * 2 ^ 16)) s)))

/-- A table that a walk found bad is rebuilt from MEMORY_MAP in a fresh page, with its HOST_OWNED leaves absent; the tables that
share its page move with it, and the old page is retired. Without a free page the table stays as it is and is tried again.
(DESIGN CHOICE, log entry 152) -/
def rebuildTable (p : Part) (t : Nat × Nat) (s : State) : State :=
  let m := (s.part p).mem
  let again : State → State := State.onMem p fun m => { m with badTables := m.badTables ++ [t] }
  match m.tableSlot t.1 t.2 with
  | none => s
  | some (i, _) =>
    match m.tablePages[i]?, poolPage s p with
    | some (n, f), some new =>
      let s := State.onMem p (fun m =>
        let pages := m.tablePages.set i new
        { m with tablePages := pages, ptRoot := rootOf pages, dirtyDram := new :: m.dirtyDram.filter (· != new),
                 leaves := if t.1 = 3 then m.leaves.filter fun (k, e) => !(k / 512 == t.2 && leafHostOwned e) else m.leaves }) s
      let s := if h : n < 8 then leavePool ⟨n, h⟩ f s else s
      let s := State.putTables p s
      if t.1 = 3 then (List.range 512).foldl (fun s j => dropCached p (t.2 * 512 + j) s) s else s
    | _, _ => again s

/-- R204: at the next boundary the device rebuilds the bad tables. -/
def execPageTableRebuild (p : Part) (s : State) : Out :=
  let bad := (s.part p).mem.badTables
  .next (forAll bad (rebuildTable p) (State.onMem p (fun m => { m with badTables := [] }) s))

/-! ### Sites (R386) and quiescent tests (R388, R389) -/

/-- A site fails: its dies' partitions enter DEGRADED. -/
def failSite (n : Site) (s : State) : State :=
  let s := onSite n (fun x => { x with failed := true }) s
  let src := memSource n.val 0 true 0
  let det := BitVec.ofNat 64 (Config.openField 6)
  match s.ownerOf n with
  | some p => degradeSoon p (postBoth p .memory .ok .error src det s)
  | none => postF0 .memory .ok .error src det s

/-- R386: a ZQ calibration; the third failure in a row fails the site. -/
def execZqCalibration (n : Site) (ok : Bool) (s : State) : Out :=
  .next (if ok then onSite n (fun x => { x with zqFails := 0 }) s
    else
      let s := onSite n (fun x => { x with zqFails := x.zqFails + 1 }) s
      if 3 ≤ (s.mem.sites[n]).zqFails then failSite n s else s)

/-- The fields of a TEST_RUN lie in their ranges. -/
def testRanges (test die target arg : Nat) : Bool :=
  match test with
  | 1 => decide (die < 8 ∧ target < 36 ∧ arg = 0)
  | 2 => decide (die = 0 ∧ target < 8 ∧ arg = 0)
  | 3 => decide (die = 0 ∧ target < 2 ∧ arg = 0)
  | 4 => decide (die = 0 ∧ target < 8) && inRange 1 1000 arg
  | 5 => decide (die < 8 ∧ target < 36 ∧ arg = 0)
  | _ => false

/-- The partitions that use a test's target. -/
def testUsers (s : State) (test die target : Nat) : List Part :=
  (List.finRange 8).filter fun p =>
    let x := s.part p
    x.phase != .absent && match test with
      | 2 => x.resv.dieMask.getLsbD target
      | 3 => x.resv.pciePort.val == target
      | 4 => (x.resv.portBw.toList.getD (2 * target) 0 + x.resv.portBw.toList.getD (2 * target + 1) 0) != 0
      | _ => x.resv.dieMask.getLsbD die

/-- A running test that holds a partition out of service. -/
def testHolds (s : State) (p : Part) : Bool := match s.tst.running with
  | some r => (testUsers s r.test r.die r.target).contains p
  | none => false

/-- Test 5 on an in-service cluster of a partition's die. -/
def inService (s : State) (die target : Nat) : Bool :=
  if h : die < 8 ∧ target < 36 then
    (s.ownerOf ⟨die, h.1⟩).isSome && (roleOf (s.mapOf ⟨die, h.1⟩ (regionOf ⟨target, h.2⟩)) (target % 9)).isSome
  else false

/-- What a starting test does to its target: the link leaves L0, and loses its IDE keys (R305); the port goes into loopback. -/
def startTest (test target : Nat) (s : State) : State :=
  match test with
  | 3 => if h : target < 2 then
      s.onHub fun b => { b with links := vupd b.links ⟨target, h⟩ fun l =>
        if l.inL0 then { l with inL0 := false, outSince := s.sys.now, ideSecure := false, ideKey := none } else l } else s
  | 4 => if h : target < 8 then
      let s := State.onPort ⟨target, h⟩ (fun x => { x with looped := true }) s
      if s.sys.clockPort.val = target then refInputLost s.clk.freqOffset s else s
    else s
  | _ => s

/-- R388. -/
def execTestRun (c : Cmd) (test die : U8) (target : U16) (arg : U64) (s : State) : Out :=
  let refuse (st : Status) (s : State) : State := done c 0x04 st { s with tst := { s.tst with lastStatus := st } }
  .next (f0Command c 0x04 true (fun s =>
    let t := test.toNat
    if !testRanges t die.toNat target.toNat arg.toNat then refuse .invalidCommand s
    else if s.tst.running.isSome then refuse .busy s
    else if (testUsers s t die.toNat target.toNat).any fun p => !(s.part p).idleForTests then refuse .busy s
    else if t == 5 && inService s die.toNat target.toNat then refuse .busy s
    else startTest t target.toNat
      { s with tst := { s.tst with running := some ⟨c, t, die.toNat, target.toNat, arg.toNat⟩, last := t } }) s)

/-- What a failure does at the end of a test: it retires the cluster, fails the site, or leaves the port's links down. -/
def afterTest (r : TestRun) (fail : Bool) (result : Nat) (s : State) : State :=
  match r.test with
  | 2 => if h : r.target < 8 then when fail (failSite ⟨r.target, h⟩) s else s
  | 3 => s
  | 4 => if h : r.target < 8 then
      let q : RPort := ⟨r.target, h⟩
      if fail then
        forAll ([0, 1] : List SubPort) (fun b s => postF0 .port .ok .error (q.val ||| b.val <<< 3) (detail 1 0)
          (State.onSub q b (fun x => { x with linkUp := false }) s)) s
      else s
    else s
  | _ => if h : r.die < 8 ∧ r.target < 36 then when fail (failPhysical ⟨r.die, h.1⟩ ⟨r.target, h.2⟩ r.test result) s else s

/-- R389. -/
def execTestRunComplete (o : TestOutcome) (s : State) : Out :=
  .next (match s.tst.running with
    | none => s
    | some r =>
      let result := testResult o.verdict.toNat r.test o.failing.toNat o.firstOffset.toNat
      afterTest r (o.verdict.toNat == 1) result (finishTest r result s))

end Sys2Proof.Machine
end

