-- ==== Sys2Proof/Machine/Der.lean ====
section
/-! DEFINITION. The DER encoding (X.690) of what R306 puts into the alias certificate, and what the device reads of a
certificate chain (R302). -/

namespace Sys2Proof.Machine

open Sys2Proof.Crypto (bytes256 bytes512 of512 keyHash)

/-- ASCII bytes. -/
def ascii (t : String) : Bytes := t.toList.map fun c => BitVec.ofNat 8 c.toNat

/-- Bytes of a number without leading zeros, at least one. -/
def minimalBytes (n : Nat) : Bytes := beBytes (n.log2 / 8 + 1) n

/-- The length octets. -/
def derSize (n : Nat) : Bytes :=
  if n < 0x80 then beBytes 1 n else BitVec.ofNat 8 (0x80 + (minimalBytes n).length) :: minimalBytes n

/-- One element: tag, length, content. -/
def der (tag : Byte) (content : Bytes) : Bytes := tag :: derSize content.length ++ content

def derSeq (parts : List Bytes) : Bytes := der 0x30 parts.flatten

/-- A nonnegative INTEGER. -/
def derNat (n : Nat) : Bytes :=
  let b := minimalBytes n
  der 0x02 (if (b.headD 0).msb then 0 :: b else b)

/-- An attribute 2.5.4.`attr` of a name, as a string of type `tag`. -/
def derAttribute (attr tag : Byte) (value : Bytes) : Bytes := der 0x31 (derSeq [der 0x06 [0x55, 0x04, attr], der tag value])

/-- Lower-case hexadecimal digits of a byte string. -/
def hexDigits (b : Bytes) : Bytes :=
  let digit (n : Nat) : Byte := BitVec.ofNat 8 (if n < 10 then 0x30 + n else 0x57 + n)
  b.flatMap fun x => [digit (x.toNat / 16), digit (x.toNat % 16)]

/-- AlgorithmIdentifier of ecdsa-with-SHA256. -/
def ecdsaSha256 : Bytes := derSeq [der 0x06 [0x2A, 0x86, 0x48, 0xCE, 0x3D, 0x04, 0x03, 0x02]]

/-- The head of a P-256 SubjectPublicKeyInfo up to the point's x coordinate. -/
def spkiHead : Bytes :=
  [0x30, 0x59, 0x30, 0x13, 0x06, 0x07, 0x2A, 0x86, 0x48, 0xCE, 0x3D, 0x02, 0x01, 0x06, 0x08, 0x2A, 0x86, 0x48, 0xCE, 0x3D,
    0x03, 0x01, 0x07, 0x03, 0x42, 0x00, 0x04]

/-- The subject of R306: common name, and the serial number that spells M_fw, IDENTITY_GEN, life-cycle state and debug byte. -/
def aliasSubject (mfw : U256) (identityGen lifeCycle dbg : Nat) : Bytes :=
  derSeq [derAttribute 0x03 0x0C (ascii "GZ25 alias"),
    derAttribute 0x05 0x13 (hexDigits (bytes256 mfw) ++ ascii "-" ++ hexDigits (beBytes 4 identityGen) ++ ascii "-"
      ++ hexDigits (beBytes 1 lifeCycle) ++ hexDigits (beBytes 1 dbg))]

/-- The serial number of R306: 16 bytes of the key's hash, with the top bit cleared. -/
def aliasSerial (pub : U512) : U128 := (keyHash pub).extractLsb' 128 128 &&& BitVec.ofNat 128 (2 ^ 127 - 1)

/-- The signed part of the alias certificate (R306). Issuer and extensions are free. (DESIGN CHOICE, log entry 17) -/
def aliasTbs (pub : U512) (mfw : U256) (identityGen lifeCycle dbg : Nat) : Bytes :=
  derSeq [der 0xA0 (derNat 2), derNat (aliasSerial pub).toNat, ecdsaSha256, Config.issuerName,
    derSeq [der 0x18 (ascii "20000101000000Z"), der 0x18 (ascii "99991231235959Z")],
    aliasSubject mfw identityGen lifeCycle dbg, spkiHead ++ bytes512 pub, Config.aliasExtensions]

/-- A certificate: the signed part, the algorithm and an ECDSA signature. -/
def derCertificate (tbs : Bytes) (signature : U512) : Bytes :=
  derSeq [tbs, ecdsaSha256,
    der 0x03 (0 :: derSeq [derNat (signature.extractLsb' 256 256).toNat, derNat (signature.extractLsb' 0 256).toNat])]

/-- Length of the DER element at the head of `b`, with its header. -/
def derLen (b : Bytes) : Nat :=
  let n := fieldLE b 1 1
  if n < 0x80 then n + 2 else 2 + (n - 0x80) + beNat (fieldB b 2 (n - 0x80))

/-- The last certificate of a chain of DER certificates. -/
def lastCert : Nat → Bytes → Bytes
  | 0, b => b
  | k + 1, b => if 2 ≤ derLen b ∧ derLen b < b.length then lastCert k (b.drop (derLen b)) else b

/-- The public key of a certificate. -/
def certKey (b : Bytes) : Option U512 :=
  ((List.range b.length).find? fun i => fieldB b i 27 == spkiHead).map fun i => of512 (fieldB b (i + 27) 64)

end Sys2Proof.Machine
end

