-- ==== Sys2Proof/Machine/Drbg.lean ====
section
/-! DEFINITION. CTR_DRBG of NIST SP 800-90A with AES-256 and the derivation function (R318), as used by the device's
instances. -/

namespace Sys2Proof.Crypto

open Sys2Proof.Machine

/-- BCC: chained encryption of 16-byte blocks. -/
def bcc (key : U256) : Nat → Bytes → Bytes → Bytes
  | 0, c, _ => c
  | n + 1, c, m => match m with
    | [] => c
    | _ => bcc key n (aes key (xorBytes c (m.take 16))) (m.drop 16)

/-- The key 00 01 02 … 1F of the derivation function. -/
def dfKey : U256 := of256 ((List.range 32).map fun i => BitVec.ofNat 8 i)

/-- Output blocks of the derivation function. -/
def dfBlocks (key : U256) : Nat → Bytes → Bytes
  | 0, _ => []
  | n + 1, x => let y := aes key x; y ++ dfBlocks key n y

/-- Block_Cipher_df with 48 bytes of output. -/
def blockDf (input : Bytes) : Bytes :=
  let s := beBytes 4 input.length ++ beBytes 4 48 ++ input ++ [0x80]
  let s := pad16 s
  let temp := (List.range 3).flatMap fun i => bcc dfKey (s.length / 16 + 1) (zeroBytes 16) (beBytes 4 i ++ zeroBytes 12 ++ s)
  dfBlocks (of256 temp) 3 ((temp.drop 32).take 16)

/-- Key and V. -/
structure DrbgState where
  key : U256
  v : U128
  deriving DecidableEq, Repr

def vBytes (v : U128) : Bytes := beBytes 16 v.toNat

/-- CTR_DRBG_Update with 48 bytes of provided data. -/
def drbgUpdate (d : DrbgState) (data : Bytes) : DrbgState :=
  let temp := xorBytes ((List.range 3).flatMap fun i => aes d.key (vBytes (d.v + BitVec.ofNat 128 (i + 1)))) data
  ⟨of256 temp, BitVec.ofNat 128 (beNat ((temp.drop 32).take 16))⟩

def drbgInstantiate (entropy nonce pers : Bytes) : DrbgState := drbgUpdate ⟨0, 0⟩ (blockDf (entropy ++ nonce ++ pers))

def drbgReseed (d : DrbgState) (entropy : Bytes) : DrbgState := drbgUpdate d (blockDf entropy)

/-- Generate of 32 bytes. (PRESUMED, log entry 25) -/
def drbgGenerate (d : DrbgState) : U256 × DrbgState :=
  let out := (List.range 2).flatMap fun i => aes d.key (vBytes (d.v + BitVec.ofNat 128 (i + 1)))
  (of256 out, drbgUpdate ⟨d.key, d.v + 2⟩ (zeroBytes 48))

end Sys2Proof.Crypto
end

