-- ==== Sys2Proof/Machine/Keys.lean ====
section
/-! DEFINITION. Key slots (R291 to R294), derivations (R295), the ROM's boot (R298 to R300) and the mailbox commands of the
enclave (R302 to R304). -/

namespace Sys2Proof.Machine

open Sys2Proof.Crypto (hkdfExtract hkdfExpand bytes256 bytes512 of256 of512 sha256 keyHash)

/-! ### Slots -/

def LifeCycle.code : LifeCycle → Nat
  | .blank => 0 | .factory => 1 | .enrolled => 2 | .deployed => 3 | .returned => 4

/-- Masters of R292 and usages of R291, as bit numbers. -/
def mSecurity : Nat := 0
def mPart (p : Nat) : Nat := 2 + p
def mLink : Nat := 10
def mMemory : Nat := 11
def mRegion : Nat := 12
def uDerive : Nat := 0
def uEncrypt : Nat := 1
def uMac : Nat := 2
def uSign : Nat := 3
def uAgree : Nat := 4

def bitsOf (l : List Nat) : Nat := (l.map (2 ^ ·)).sum

def nextGen (g : Nat) : Nat := (g + 1) % 2 ^ 32

/-- Write a slot under its parent (0xFF for none). -/
def writeSlot (i : Nat) (value extra : U256) (parent : Nat) (masters usage : List Nat) (s : State) : State :=
  let pg := if parent < 64 then (slotAt s parent).gen else 0
  onSlot i (fun x =>
    { value := value, extra := extra, masters := BitVec.ofNat 16 (bitsOf masters), world := false, lcAllowed := 0x1F,
      usage := BitVec.ofNat 5 (bitsOf usage), valid := true, parent := BitVec.ofNat 8 parent, gen := nextGen x.gen,
      parentGen := pg, tagOk := true }) s

/-- R294. -/
def invalidateSlot (i : Nat) : State → State :=
  onSlot i fun x => { x with valid := false, value := 0, extra := 0, gen := nextGen x.gen, tagOk := true }

/-- A slot whose TAG fails is invalidated, with an event (R293). -/
def corruptSlot (i : Nat) (s : State) : State :=
  postF0 .security .keySlotCorrupt .error i (detail 2 0)
    (invalidateSlot i (s.onKey fun k => { k with slotCorrupt := k.slotCorrupt ||| BitVec.ofNat 64 (2 ^ i) }))

/-- The ancestors of a slot are intact; `fuel` bounds the depth. -/
def ancestorsOk : Nat → KeySlot → State → State × Bool
  | 0, _, s => (s, false)
  | n + 1, x, s =>
    if x.parent = 0xFF then (s, true)
    else
      let p := slotAt s x.parent.toNat
      if !p.tagOk then (corruptSlot x.parent.toNat s, false)
      else if !p.valid || p.gen != x.parentGen then (s, false)
      else ancestorsOk n p s

/-- A use of a slot by a master (R293). The management core is the one named master of the normal world whose uses the security
processor does not arm (R291). (DESIGN CHOICE, log entry 70) -/
def slotUse (i master usage : Nat) (s : State) : State × Except Status KeySlot :=
  let x := slotAt s i
  if !x.tagOk then (corruptSlot i s, .error .keySlotCorrupt)
  else if !x.valid then (s, .error .keyOrphaned)
  else
    let (s, ok) := ancestorsOk 8 x s
    if !ok then (s, .error .keyOrphaned)
    else if x.masters.getLsbD master && (x.world || master != 1) && x.usage.getLsbD usage && x.lcAllowed.getLsbD s.key.fuses.lifeCycle.code then (s, .ok x)
    else (s, .error .keyAttributeDenied)

/-- The value of a slot whose use passes. -/
def slotValue (i master usage : Nat) (s : State) : Option U256 := match (slotUse i master usage s).2 with
  | .ok x => some x.value
  | .error _ => none

/-! ### Derivation (R295) -/

def hkdf (ikm : U256) (salt : Bytes) (info : Bytes) (len : Nat) : Bytes :=
  hkdfExpand (bytes256 (hkdfExtract salt (bytes256 ikm))) info len

def hkdf32 (ikm : U256) (salt info : Bytes) : U256 := of256 (hkdf ikm salt info 32)

/-- A 48-byte output as a P-256 private scalar. -/
def scalarOf (b : Bytes) : U256 := BitVec.ofNat 256 (beNat b % (Crypto.pN - 1) + 1)

def deviceIdOf (root : U256) (gen : Nat) : U256 := scalarOf (hkdf root [] (ascii "GZ25DID1" ++ leBytes 4 gen) 48)
def compoundOf (root mfw : U256) (dbg : Nat) : U256 := hkdf32 root (bytes256 mfw) (ascii "GZ25CMP1" ++ leBytes 1 dbg)
def aliasOf (compound : U256) : U256 := scalarOf (hkdf compound [] (ascii "GZ25ALI1") 48)

/-- The partition root of a creation nonce (R280). (DESIGN CHOICE, log entry 70) -/
def derivePartRoot (p : Part) (nonce signer : U256) (s : State) : State :=
  let v := hkdf32 (slotAt s 2).value (bytes256 nonce) (ascii "GZ25PRT1" ++ leBytes 1 p.val ++ bytes256 signer)
  writeSlot (rootSlot p) v 0 2 [mSecurity] [uDerive] s

/-- The transfer key of generation g. -/
def deriveTransfer (p : Part) (g : Nat) (s : State) : State :=
  writeSlot (transferSlot p) (hkdf32 (slotAt s (imageSlot p)).value [] (ascii "GZ25TRK1" ++ leBytes 4 g)) 0 (imageSlot p)
    [mLink, mSecurity] [uEncrypt] s

/-- What the site holds of a 4 KiB data unit of a partition's page (R209): the unit at byte offset `off` of site `n`, encrypted
under the partition's memory XTS key. (DEDUCED, log entry 133) -/
def atRest (s : State) (p : Part) (n off : Nat) : Bytes :=
  Crypto.xts (slotAt s (xtsSlot p)).value (slotAt s (xtsSlot p)).extra (n * 2 ^ 40 + off) (s.bytesAt (dramKey n off) 4096)

/-- The image key of a measurement and the keys below it; the image slot is invalidated first (R171, R294). -/
def deriveImage (p : Part) (measure : U256) (g : Nat) (s : State) : State :=
  let s := invalidateSlot (imageSlot p) s
  let v := hkdf32 (slotAt s (rootSlot p)).value (bytes256 measure) (ascii "GZ25IMG1")
  let s := writeSlot (imageSlot p) v 0 (rootSlot p) [mSecurity] [uDerive] s
  let s := writeSlot (xtsSlot p) (hkdf32 v [] (ascii "GZ25XTS1")) (hkdf32 v [] (ascii "GZ25XTT1")) (imageSlot p) [mMemory]
    [uEncrypt] s
  let s := deriveTransfer p g s
  let s := writeSlot (drbgSlot p) (hkdf32 v [] (ascii "GZ25DRB1" ++ leBytes 1 0)) 0 (imageSlot p) [mPart p.val, mRegion]
    [uEncrypt] s
  writeSlot (logSlot p) (hkdf32 v [] (ascii "GZ25LOG1")) 0 (imageSlot p) [mLink, mMemory, mPart p.val] [uEncrypt] s

/-! ### Condition of the device (R290, R304) -/

def tampered (s : State) : Bool :=
  (s.key.fuses.lifeCycle == .enrolled || s.key.fuses.lifeCycle == .deployed) && s.key.vbat.root.isNone

/-- KEY_TAMPER: VBAT loss when no cause bit survived. -/
def keyTamper (s : State) : BitVec 5 := if tampered s && s.key.vbat.tamper == 0 then 0x10 else s.key.vbat.tamper

/-- The debug byte in force. -/
def dbgNow (s : State) : Nat := if s.key.scanOpen then max 1 s.key.dbg else s.key.dbg

def anyPartition (s : State) : Bool := s.parts.toList.any fun x => x.phase != .absent

def hasAlias (s : State) : Bool := (slotAt s 3).valid

/-! ### Boot (R298, R299) -/

/-- Step 3 of R299 on an image's bytes. (DEDUCED, log entry 73) -/
def fwCheck (f : Fuses) (b : Bytes) : Status :=
  let n := fieldLE b 0x10 8
  let range (off : Nat) : Bool := decide (0x100 ≤ fieldLE b off 4 ∧ fieldLE b off 4 + fieldLE b (off + 4) 4 ≤ n - 128)
  if !(fieldLE b 0 4 == 0x57465A47 && fieldLE b 4 2 == 1 && zerosAt b 6 2 && zerosAt b 0xC 4 && inRange 384 8388608 n
      && decide (n ≤ b.length) && range 0x18 && range 0x20 && zerosAt b 0x28 24 && zerosAt b 0x60 160) then .invalidCommand
  else
    let key := of512 (fieldB b (n - 128) 64)
    let h := keyHash key
    if !(h == f.fwSigner0 || (f.fwSigner1 != 0 && h == f.fwSigner1)) then .signatureInvalid
    else if !Crypto.verifyMsg key (b.take (n - 64)) (of512 (fieldB b (n - 64) 64)) then .signatureInvalid
    else if fieldLE b 8 4 < f.svn then .policyRefused
    else .ok

def fwMeasureOf (b : Bytes) : U256 := sha256 (b.take (fieldLE b 0x10 8 - 128))

/-- The alias certificate, signed with DEVICE_ID (R306). -/
def aliasCertOf (deviceId alias_ : U256) (mfw : U256) (f : Fuses) (dbg : Nat) : AliasCert :=
  let pub := Crypto.publicKey alias_.toNat
  ⟨aliasSerial pub, pub, mfw, f.identityGen, f.lifeCycle, dbg,
    Crypto.sign deviceId.toNat (sha256 (aliasTbs pub mfw f.identityGen f.lifeCycle.code dbg))⟩

/-- Step 4: the firmware's keys; without a root only M_fw, and a TAMPERED device says that it has no alias (R290, R378).
(DEDUCED, log entry 141; DESIGN CHOICE, log entry 190) -/
def bootKeys (b : Bytes) (s : State) : State :=
  let m := fwMeasureOf b
  let s := s.onKey fun k => { k with fwMeasure := m, runningSvn := fieldLE b 8 4 }
  match s.key.vbat.root with
  | none => when (tampered s) (postF0 .security .tampered .critical 3 (detail 3 0)) s
  | some root =>
    let cmp := compoundOf root m s.key.dbg
    let al := aliasOf cmp
    let s := writeSlot 2 cmp 0 0 [mSecurity] [uDerive] s
    let s := writeSlot 3 al 0 2 [mSecurity, mLink] [uSign, uAgree] s
    let s := writeSlot 4 (hkdf32 cmp [] (ascii "GZ25CTX1")) 0 2 [mLink] [uMac] s
    s.onKey fun k =>
      { k with aliasCert := some (aliasCertOf (slotAt s 1).value al m k.fuses k.dbg) }

/-- Root record, boot count and the slots that need only the root: step 2, and the derivations of an enrollment. -/
def rootKeys (s : State) : State :=
  match s.key.vbat.root with
  | none => s
  | some root =>
    let s := writeSlot 0 root 0 0xFF [mSecurity] [uDerive] s
    let s := writeSlot 1 (deviceIdOf root s.key.fuses.identityGen) 0 0 [mSecurity] [uSign] s
    writeSlot 5 (hkdf32 root [] (ascii "GZ25BBM1")) 0 0 [mSecurity] [uMac] s

/-- Steps 1 to 5 of the ROM. (DEDUCED, log entry 141) -/
def romBoot (s : State) : State :=
  if !s.key.fuses.readable then s.onKey fun k => { k with stage := .off }
  else
    let dbg := if s.key.fuses.lifeCycle == .deployed then (if s.key.vbat.pendingUnlock then 2 else 0) else 2
    let s := s.onKey fun k =>
      { k with dbg := dbg, scanOpen := false,
               tagKey := hkdf32 Config.romConstant (leBytes 8 k.fuses.uniqueId.toNat) (ascii "GZ25TAG1"),
               vbat := { k.vbat with pendingUnlock := false,
                                     bootCount := if k.vbat.root.isSome then k.vbat.bootCount + 1 else k.vbat.bootCount } }
    let s := rootKeys s
    let b := s.spi.firmware
    match fwCheck s.key.fuses b with
    | .ok => (bootKeys b s).onKey fun k => { k with stage := .running, bootStatus := .ok }
    | e => s.onKey fun k => { k with stage := .recovery, bootStatus := e }

/-! ### The mailbox (R302, R309) -/

/-- KEY_CHALLENGE. -/
def challenge (s : State) : U256 :=
  sha256 (ascii "GZ25CHL1" ++ leBytes 8 s.key.fuses.uniqueId.toNat ++ leBytes 4 s.key.fuses.identityGen
    ++ leBytes 8 s.key.vbat.bootCount ++ Config.countBytes s.key.requestCount)

/-- The data of a command. -/
def mbxBytes (s : State) (len : Nat) : Bytes := (List.range (min len 4096)).map fun i => tget s.key.mbxData i 0

/-- The end of a command: its status and result. -/
def mbxDone (st : Status) (result : Bytes) (s : State) : State :=
  s.onKey fun k =>
    { k with mbxState := 2, mbxStatus := st, mbxLen := result.length,
             mbxData := (result.foldl (fun (a : Tbl Byte × Nat) x => (tput a.1 a.2 x, a.2 + 1)) (k.mbxData, 0)).1 }

/-- A write of KEY_MBX_CMD. Until Toxel or a recovery image runs, only `early` commands are served (R300, R395).
(DEDUCED, log entry 72; DEDUCED, log entry 137) -/
def mailbox (q : PciePort) (len : Nat) (early : Bool) (body : Bytes → State → State) (s : State) : State :=
  f0Write q (fun s => if s.key.mbxState = 1 || !(early || booted s) then s else body (mbxBytes s len) s) s

/-- A signed request (R302): its fields, the signer and the signature; the challenge changes whatever the outcome.
(DESIGN CHOICE, log entry 70; DEDUCED, log entry 73) -/
def signedRequest (code : Nat) (signer : U256) (b : Bytes) (s : State) : Status :=
  if !(b.length == 192 && fieldLE b 0 1 == code && zerosAt b 2 2 && fieldLE b 4 4 == s.key.fuses.identityGen
      && fieldLE b 8 8 == s.key.fuses.uniqueId.toNat && of256 (fieldB b 16 32) == challenge s) then .invalidCommand
  else
    let key := of512 (fieldB b 64 64)
    if keyHash key == signer && Crypto.verifyMsg key (b.take 64) (of512 (fieldB b 128 64)) then .ok else .signatureInvalid

/-- (DESIGN CHOICE, log entry 70) -/
def countRequest (s : State) : State := s.onKey fun k => { k with requestCount := k.requestCount + 1 }

def setLifeCycle (l : LifeCycle) (s : State) : State := s.onKey fun k => { k with fuses := { k.fuses with lifeCycle := l } }

/-- R301, R302: BLANK becomes FACTORY, where the burn verifies. -/
def execLcFactory (q : PciePort) (c : BurnCmd) (s : State) : Out :=
  .next (mailbox q c.len false (fun b s =>
    if s.key.fuses.lifeCycle ≠ .blank then mbxDone .lifecycleDenied [] s
    else if b ≠ [] then mbxDone .invalidCommand [] s
    else if !c.verified then mbxDone .lifecycleDenied [] s
    else mbxDone .ok [] (setLifeCycle .factory s)) s)

/-- Entropy for a host request: what R317 and R322 answer, or OK. -/
def entropyStatus (s : State) : Status :=
  if s.rng.phase == .alarm || s.rng.phase == .failed then .entropyFail
  else if !s.rng.ready then .entropyNotReady else .ok

/-- The next two conditioned outputs of the pool; a consumer takes them when they are there (R319). -/
def takePool (s : State) : Bytes × State :=
  ((s.rng.pool.take 2).flatMap bytes256, s.onRng fun r => { r with pool := r.pool.drop 2 })

/-- Place of an instance in the order of service (R319). -/
def instRank (i : Fin 13) : Nat := if 5 ≤ i.val then i.val - 5 else 8 + i.val

/-- The source is HEALTHY, two outputs are there, and no consumer that comes first waits for them. (DEDUCED, log entry 74) -/
def inputReady (s : State) (i : Fin 13) : Bool :=
  s.rng.phase == .healthy && decide (2 ≤ s.rng.pool.length) && !s.rng.waiting.any fun w => decide (instRank w.inst ≤ instRank i)

/-- A Generate of the instance can take its input now. -/
def canGenerate (s : State) (i : Fin 13) : Bool := inputReady s i && (s.rng.insts[i]).phase != 0

/-- Queue a Generate or an instantiation for pool outputs. -/
def waitGenerate (w : DrbgWait) (s : State) : State :=
  s.onRng fun r => if r.waiting.contains w then r else { r with waiting := r.waiting ++ [w] }

/-- A Generate is served now, or waits for its input (R319, R322). -/
def request (i : Fin 13) (u : DrbgUse) (now : State → State) (s : State) : State :=
  if canGenerate s i then now s else waitGenerate ⟨i, u⟩ s

def onInst (i : Fin 13) (f : DrbgInst → DrbgInst) (s : State) : State := s.onRng fun r => { r with insts := vupd r.insts i f }

/-- A Generate of 32 bytes with prediction resistance (R319). (DEDUCED, log entry 74) -/
def generate (i : Fin 13) (s : State) : U256 × State :=
  let (e, s) := takePool s
  let d := s.rng.insts[i]
  let (x, d') := Crypto.drbgGenerate (Crypto.drbgReseed ⟨d.key, d.v⟩ e)
  (x, (onInst i (fun _ => ⟨1, d'.key, d'.v⟩) s).onRng fun r => { r with reseeds := sat64 r.reseeds })

/-- The draw of ENROLL's root secret and what follows it (R303). From FACTORY, a burn that does not verify leaves the state, with
the new root in place (R301). (DEDUCED, log entry 191) -/
def enrollRoot (hashes : Option Bytes) (burnOk : Bool) (s : State) : State :=
  let (root, s) := generate 0 s
  let s := s.onKey fun k =>
    { k with vbat := { k.vbat with root := some root, tamper := 0, ledger := [], bootCount := 0 } }
  let s := rootKeys s
  let s := match hashes with
    | some b => when burnOk (setLifeCycle .enrolled) (s.onKey fun k =>
        { k with fuses := { k.fuses with ownerHash := of256 (fieldB b 0 32), fwSigner1 := of256 (fieldB b 32 32),
                                         debugHash := of256 (fieldB b 64 32) } })
    | none => s
  if hashes.isSome && !burnOk then mbxDone .lifecycleDenied [] s
  else mbxDone .ok (bytes512 (Crypto.publicKey (slotAt s 1).value.toNat) ++ leBytes 4 s.key.fuses.identityGen) s

/-- ENROLL once it is accepted: the generation is burnt, and the mailbox stays BUSY while the root secret waits for the source. -/
def enroll (hashes : Option Bytes) (burnOk : Bool) (s : State) : State :=
  request 0 (.enroll hashes burnOk) (enrollRoot hashes burnOk)
    (s.onKey fun k => { k with mbxState := 1, fuses := { k.fuses with identityGen := k.fuses.identityGen + 1 } })

/-- R302, R303. -/
def execEnroll (q : PciePort) (c : BurnCmd) (s : State) : Out :=
  .next (mailbox q c.len false (fun b s =>
    let first := s.key.fuses.lifeCycle == .factory
    if !(first || tampered s) then mbxDone .lifecycleDenied [] s
    else
      let req := if first then (if b.length = 96 then .ok else .invalidCommand) else signedRequest 2 s.key.fuses.ownerHash b s
      let s := if first then s else countRequest s
      if req ≠ .ok then mbxDone req [] s
      else if anyPartition s then mbxDone .invalidState [] s
      else if 32 ≤ s.key.fuses.identityGen then mbxDone .capacity [] s
      else if entropyStatus s ≠ .ok then mbxDone (entropyStatus s) [] s
      else enroll (if first then some b else none) c.verified s) s)

/-- R301, R302. A burn that does not verify leaves the state unchanged. -/
def execLcAdvance (q : PciePort) (c : BurnCmd) (s : State) : Out :=
  .next (mailbox q c.len false (fun b s =>
    let lc := s.key.fuses.lifeCycle
    let dest : Option LifeCycle := match fieldLE b 1 1 with
      | 3 => if lc == .enrolled then some .deployed else none
      | 4 => if lc == .enrolled || lc == .deployed then some .returned else none
      | _ => none
    let req := signedRequest 3 s.key.fuses.ownerHash b s
    let s := countRequest s
    match dest with
    | none => mbxDone .lifecycleDenied [] s
    | some t =>
      if anyPartition s then mbxDone .invalidState [] s
      else if req ≠ .ok then mbxDone req [] s
      else if !c.verified then mbxDone .lifecycleDenied [] s
      else
        let s := setLifeCycle t s
        mbxDone .ok [] (if t == .returned then
          s.onKey fun k => { k with vbat := { k.vbat with root := none, ledger := [] } } else s)) s)

/-- R304. -/
def execDebugUnlock (q : PciePort) (len : Nat) (s : State) : Out :=
  .next (mailbox q len false (fun b s =>
    let req := signedRequest 4 s.key.fuses.debugHash b s
    let scope := fieldLE b 48 1
    let lc := s.key.fuses.lifeCycle
    let s := countRequest s
    if lc ≠ .deployed then mbxDone .lifecycleDenied [] s
    else if req ≠ .ok then mbxDone req [] s
    else if scope = 1 then
      if anyPartition s then mbxDone .invalidState [] s else mbxDone .ok [] (s.onKey fun k => { k with scanOpen := true })
    else if scope = 2 then mbxDone .ok [] (s.onKey fun k => { k with vbat := { k.vbat with pendingUnlock := true } })
    else mbxDone .invalidCommand [] s) s)

/-- R302: the chain ends with the DEVICE_ID certificate. -/
def execCertWrite (q : PciePort) (len : Nat) (s : State) : Out :=
  .next (mailbox q len false (fun b s =>
    let lc := s.key.fuses.lifeCycle
    if !(lc == .enrolled || lc == .deployed) then mbxDone .lifecycleDenied [] s
    else if tampered s then mbxDone .tampered [] s
    else if anyPartition s then mbxDone .invalidState [] s
    else if certKey (lastCert 64 b) ≠ some (Crypto.publicKey (slotAt s 1).value.toNat) then mbxDone .invalidCommand [] s
    else mbxDone .ok [] { s with spi := { s.spi with certs := b } }) s)

/-- Bits [359:256] of a slot record (R292). -/
def slotInfo (x : KeySlot) : Bytes :=
  leBytes 2 x.masters.toNat
    ++ leBytes 2 ((if x.world then 1 else 0) ||| x.lcAllowed.toNat <<< 1 ||| x.usage.toNat <<< 6 ||| (if x.valid then 1 else 0) <<< 11)
    ++ leBytes 1 x.parent.toNat ++ leBytes 4 x.gen ++ leBytes 4 x.parentGen

/-- R302. -/
def execSlotInfo (q : PciePort) (len : Nat) (s : State) : Out :=
  .next (mailbox q len true (fun b s =>
    if b.length ≠ 1 ∨ 63 < fieldLE b 0 1 then mbxDone .invalidCommand [] s
    else mbxDone .ok (slotInfo (slotAt s (fieldLE b 0 1))) s) s)

/-- R302: a chunk of a firmware image is staged in enclave memory. -/
def execImageChunk (q : PciePort) (len : Nat) (s : State) : Out :=
  .next (mailbox q len true (fun b s =>
    let off := fieldLE b 0 8
    let n := fieldLE b 8 4
    if b.length < 64 ∨ !zerosAt b 12 52 ∨ b.length ≠ 64 + n ∨ 8388608 < off + n then mbxDone .invalidCommand [] s
    else mbxDone .ok [] (s.onKey fun k =>
      { k with staged := ((b.drop 64).foldl (fun (a : Tbl Byte × Nat) x => (tput a.1 a.2 x, a.2 + 1)) (k.staged, off)).1 })) s)

/-- The staged image, by its IMAGE_BYTES. -/
def stagedImage (k : KeyState) : Bytes :=
  let n := leNat ((List.range 8).map fun i => tget k.staged (16 + i) 0)
  (List.range (min n 8388608)).map fun i => tget k.staged i 0

/-- R300, R302: the staged image passes step 3 and boots on from step 4. -/
def execImageRun (q : PciePort) (len : Nat) (s : State) : Out :=
  .next (mailbox q len true (fun _ s =>
    if s.key.stage ≠ .recovery then mbxDone .invalidState [] s
    else
      let b := stagedImage s.key
      match fwCheck s.key.fuses b with
      | .ok => mbxDone .ok [] ((bootKeys b s).onKey fun k => { k with stage := .recovered, bootStatus := .ok })
      | e => mbxDone e [] (s.onKey fun k => { k with bootStatus := e })) s)

/-- R302: a staged image that passes step 3 is written to the SPI NOR; it runs from the next hub reset. What a failed write
leaves there is free. (DESIGN CHOICE, log entry 191) -/
def execFwWrite (q : PciePort) (c : BurnCmd) (s : State) : Out :=
  .next (mailbox q c.len false (fun _ s =>
    let b := stagedImage s.key
    match fwCheck s.key.fuses b with
    | .ok =>
      if c.verified then mbxDone .ok [] { s with spi := { s.spi with firmware := b } }
      else mbxDone .uncorrectableMemory [] { s with spi := { s.spi with firmware := Config.brokenFirmware s.spi.firmware b } }
    | e => mbxDone e [] s) s)

/-- R302: the running SVN is burnt into the fuses. (PRESUMED, log entry 71) -/
def execSvnCommit (q : PciePort) (len : Nat) (s : State) : Out :=
  .next (mailbox q len false (fun _ s =>
    if s.key.runningSvn ≤ s.key.fuses.svn then mbxDone .ok [] s
    else if 255 < s.key.runningSvn then mbxDone .capacity [] s
    else mbxDone .ok [] (s.onKey fun k => { k with fuses := { k.fuses with svn := k.runningSvn } })) s)

/-! ### The calendar (R308) -/

/-- R308: a write sets the count and clears the sub-second phase. -/
def writeCalTime (v : U64) (s : State) : State :=
  s.onKey fun k => { k with vbat := { k.vbat with calTime := v.toNat, calPhase := 0, calSet := true, oscFail := false } }

def execCalTimeWrite (q : PciePort) (value : U64) (s : State) : Out := .next (f0Write q (writeCalTime value) s)

def execCalOscFail (s : State) : Out := .next (s.onKey fun k => { k with vbat := { k.vbat with oscFail := true } })

/-- The calendar counts `d` units of 0.8 ns while its crystal runs. -/
def calendarRun (d : Nat) (s : State) : State :=
  s.onKey fun k =>
    if k.vbat.oscFail then k
    else
      let n := k.vbat.calPhase + d
      { k with vbat := { k.vbat with calPhase := n % 1250000000, calTime := (k.vbat.calTime + n / 1250000000) % 2 ^ 64 } }

end Sys2Proof.Machine
end

