-- ==== Sys2Proof/Machine/Random.lean ====
section
/-! DEFINITION. The entropy source (R311 to R316): windows and their health tests, the states of the source, the test
patterns (R324), and the release draws' blocks (R320). -/

namespace Sys2Proof.Machine

open Sys2Proof.Crypto (bytes256 sha256)

/-! ### Health tests (R313) -/

/-- A bit of a cell's window, first sample first. -/
def bitAt (b : BitVec 1024) (i : Nat) : Bool := b.getLsbD i

/-- The longest run of identical samples from sample `i` on: `run` so far, `best` so far. -/
def longestRun (b : BitVec 1024) : Nat → Nat → Nat → Nat → Nat
  | 0, _, _, best => best
  | n + 1, i, run, best =>
    let run := if 0 < i && bitAt b i == bitAt b (i - 1) then run + 1 else 1
    longestRun b n (i + 1) run (max best run)

/-- (DEDUCED, log entry 75) -/
def rctFails (b : BitVec 1024) : Bool := decide (81 ≤ longestRun b 1024 0 0 0)

/-- Number of indices below `n` that satisfy `f`. -/
def countBelow (n : Nat) (f : Nat → Bool) : Nat := ((List.range n).filter f).length

/-- Number of ones of a number below 2^1024: neighbouring counts are added, ten times. -/
def ones (x : Nat) : Nat :=
  (List.range 10).foldl (fun x k =>
    let m := (2 ^ 1024 - 1) / (2 ^ 2 ^ k + 1)
    (x &&& m) + (x >>> 2 ^ k &&& m)) x

/-- At how many of the `n` lowest places two words agree. -/
def agreements (n a b : Nat) : Nat := n - ones ((a ^^^ b) % 2 ^ n)

/-- How often the first sample comes in the window. (DEDUCED, log entry 75) -/
def aptFails (b : BitVec 1024) : Bool := decide (832 < agreements 1024 b.toNat (if bitAt b 0 then 2 ^ 1024 - 1 else 0))

def liveFails (trim : BitVec 6) : Bool := decide (trim.toNat ≤ 3 ∨ 60 ≤ trim.toNat)

/-- Fewer than 352 or more than 672 agreements. -/
def lockBand (n : Nat) : Bool := decide (n < 352 ∨ 672 < n)

/-- A word against itself, 1 to 16 samples later. (DEDUCED, log entry 75) -/
def lagFails (b : BitVec 1024) : Bool :=
  (List.range 16).any fun k => lockBand (agreements (1023 - k) b.toNat (b.toNat >>> (k + 1)))

/-- (DEDUCED, log entry 75) -/
def pairFails (a b : BitVec 1024) : Bool := lockBand (agreements 1024 a.toNat b.toNat)

def liveCell (r : RngState) (c : Nat) : Bool := !r.cellMask.getLsbD c

/-- The failures of a window as (code, cell); an adjacent pair that agrees too little or too much names both cells.
(DEDUCED, log entry 75) -/
def windowFails (r : RngState) (bits : List (BitVec 1024)) (trims : List (BitVec 6)) : List (Nat × Nat) :=
  let cells := (List.range 32).filter (liveCell r)
  let b (c : Nat) : BitVec 1024 := bits.getD c 0
  (cells.filter (rctFails ∘ b)).map (fun c => (1, c)) ++ (cells.filter (aptFails ∘ b)).map (fun c => (2, c))
    ++ (cells.filter fun c => liveFails (trims.getD c 32)).map (fun c => (3, c))
    ++ (cells.filter fun c => lagFails (b c)
          || (liveCell r ((c + 1) % 32) && pairFails (b c) (b ((c + 1) % 32)))
          || (liveCell r ((c + 31) % 32) && pairFails (b ((c + 31) % 32)) (b c))).map (fun c => (4, c))

/-- The raw bits of a window, in sample order and cell order, packed bit 0 first. (DEDUCED, log entry 75) -/
def windowBytes (r : RngState) (bits : List (BitVec 1024)) : Bytes :=
  let cells := (List.range 32).filter (liveCell r)
  let stream := (List.range 1024).flatMap fun i => cells.map fun c => bitAt (bits.getD c 0) i
  (List.range ((stream.length + 7) / 8)).map fun k =>
    BitVec.ofNat 8 (((List.range 8).map fun j => if stream.getD (8 * k + j) false then 2 ^ j else 0).sum)

/-- Sample `i` of cell `c` when patterns are injected, in sample order and cell order (R324). -/
def injectedBit (words : List U64) (bits : List (BitVec 1024)) (c i : Nat) : Bool :=
  match words[(i * 32 + c) / 64]? with
  | some w => w.getLsbD ((i * 32 + c) % 64)
  | none => bitAt (bits.getD c 0) i

/-- Injected patterns in place of the array's samples. -/
def injectedBits (words : List U64) (bits : List (BitVec 1024)) : List (BitVec 1024) :=
  (List.range 32).map fun c =>
    BitVec.ofNat 1024 (((List.range 1024).map fun i => if injectedBit words bits c i then 2 ^ i else 0).sum)

/-! ### States (R314 to R316, R322) -/

def RngPhase.code : RngPhase → Nat
  | .startup => 0 | .healthy => 1 | .alarm => 2 | .failed => 3

/-- Every source-seeded instance that was ready refuses until it has reseeded. -/
def refuseAll (s : State) : State :=
  s.onRng fun r => { r with insts := vall r.insts fun _ x => if x.phase = 1 then { x with phase := 2 } else x }

/-- The RNG event of a change of state. -/
def postRng (st : Status) (sev : Severity) (s : State) : State :=
  postF0 .rng st sev s.rng.lastCell (detail 1 (s.rng.phase.code ||| s.rng.lastFail <<< 8)) s

/-- A PART_LOAD whose checks run is one of the host requests that randomness fails (R322). -/
def failLoads (s : State) : State :=
  forAll (List.finRange 8) (fun p s => match (s.part p).img.load with
    | some j => if j.checked then s else
        done j.cmd 0x08 .entropyFail (State.onImg p (fun i => { i with load := none, lastStatus := .entropyFail, failCheck := 12,
                                                                       failSection := 0x3FF }) s)
    | none => s) s

/-- Entry to ALARM or FAILED. -/
def enterAlarm (p : RngPhase) (s : State) : State :=
  let s := s.onRng fun r => { r with phase := p, ready := false, pool := [], healthyRun := 0,
                                     alarms := if p == .alarm then sat32 r.alarms else r.alarms }
  failLoads (refuseAll (postRng .entropyFail (if p == .failed then .critical else .warning) s))

/-- A window's failing cells: those that have failed 16 in a row are masked; fewer than 24 live cells fail the source. -/
def maskCells (fails : List (Nat × Nat)) (s : State) : State :=
  let failed (c : Nat) : Bool := fails.any fun f => f.2 == c
  let s := s.onRng fun r => { r with cellRun := vall r.cellRun fun c n => if failed c.val then n + 1 else 0 }
  let dead := (List.finRange 32).filter fun c => decide (16 ≤ s.rng.cellRun[c]) && liveCell s.rng c.val
  let s := forAll dead (fun c s => postF0 .rng .ok .warning c.val (detail 2 0)
    (s.onRng fun r => { r with cellMask := r.cellMask ||| BitVec.ofNat 32 (2 ^ c.val) })) s
  let live := countBelow 32 fun c => liveCell s.rng c
  if live < 24 ∧ s.rng.phase ≠ .failed then enterAlarm .failed s else s

/-- Counters of a tested window. -/
def countWindow (fails : List (Nat × Nat)) (r : RngState) : RngState :=
  let hit (t : Nat) : Bool := fails.any fun f => f.1 == t
  let up (t n : Nat) : Nat := if hit t then sat16 n else n
  { r with windows := sat64 r.windows, failRct := up 1 r.failRct, failApt := up 2 r.failApt, failLive := up 3 r.failLive,
           failLock := up 4 r.failLock,
           lastFail := match fails.head? with | some f => f.1 | none => r.lastFail,
           lastCell := match fails.head? with | some f => f.2 | none => r.lastCell }

/-- Personalization of the source-seeded instances (R318). -/
def personalization (s : State) (i : Fin 13) : Bytes :=
  if i.val = 0 then hkdf (slotAt s 2).value [] (ascii "GZ25DRH1") 32
  else if i.val < 5 then hkdf (slotAt s 2).value [] (ascii "GZ25DRL1" ++ leBytes 1 (i.val - 1)) 32
  else bytes256 (slotAt s (12 + 6 * (i.val - 5))).value

/-- Instantiate an instance from 512 bits. -/
def instantiate (i : Fin 13) (entropy : Bytes) (s : State) : State :=
  let d := Crypto.drbgInstantiate entropy [] (personalization s i)
  let s := (onInst i (fun _ => ⟨1, d.key, d.v⟩) s).onRng fun r => { r with reseeds := sat64 r.reseeds }
  if i.val = 0 ∧ (slotAt s 2).valid then writeSlot 6 d.key 0 2 [mSecurity] [uEncrypt] s else s

/-- The start-up sequence with one more tested window (R316). -/
def startupWindow (pass : Bool) (out : U256) (s : State) : State :=
  match s.rng.start with
  | .settling => s
  | .window => s.onRng fun r => { r with start := if pass then .seed [] else .window }
  | .seed got =>
    if !pass then s.onRng fun r => { r with start := .window }
    else match got with
      | [a] =>
        let s := instantiate 0 (bytes256 a ++ bytes256 out) s
        let s := s.onRng fun r => { r with start := .done, phase := .healthy, ready := true, healthyRun := 0,
                                           readyTime := s.sys.now / 8 % 2 ^ 32 }
        forAll ([1, 2, 3, 4] : List (Fin 13)) (fun i => waitGenerate ⟨i, .instantiate⟩) s
      | _ => s.onRng fun r => { r with start := .seed (got ++ [out]) }
  | .done => s

/-- R312 to R316: a window ends. While a test mode is on, no output is formed (R324); before the loops have settled there is no
window. Without the oscillator the latches have no timing, and every window fails (R330). (DEDUCED, log entry 75) -/
def execEntropyWindowEnd (w : WindowSample) (s0 : State) : Out :=
  let s := s0
  let settling := s.rng.start == .settling && s.rng.phase == .startup
  let bits := if s.rng.inject then injectedBits s.rng.injected w.bits else w.bits
  let fails := windowFails s.rng bits w.trims
  let out := sha256 (windowBytes s.rng bits)
  let pass := fails.isEmpty && !s.clk.xoFail
  let testing := s.rng.inject || s.rng.rawRead
  let s := maskCells fails (s.onRng fun r => { countWindow fails r with injected := if r.inject then r.injected.drop 512 else r.injected })
  .next (if settling then s0
    else if testing then s
    else match s.rng.phase with
      | .failed => s
      | .startup => startupWindow pass out s
      | .healthy =>
        if pass then s.onRng fun r =>
          { r with healthyRun := sat32 r.healthyRun, pool := if r.pool.length < 8 then r.pool ++ [out] else r.pool }
        else enterAlarm .alarm s
      | .alarm => s.onRng fun r => { r with healthyRun := if pass then sat32 r.healthyRun else 0 })

/-- R315: 1,024 consecutive passing windows in ALARM; the instances that refused reseed first. -/
def execEntropyRecovered (s : State) : Out :=
  .next (if s.rng.phase ≠ .alarm ∨ s.rng.healthyRun < 1024 ∨ s.rng.inject ∨ s.rng.rawRead then s
    else
      let s := postRng .ok .info (s.onRng fun r => { r with phase := .healthy, ready := r.start == .done })
      forAll ((List.finRange 13).filter fun i => (s.rng.insts[i]).phase = 2) (fun i => waitGenerate ⟨i, .instantiate⟩) s)

/-- R316: the loops have settled; the next window is the start-up test window. -/
def execRngStartup (s : State) : Out :=
  .next (if s.rng.start == .settling ∧ s.rng.phase == .startup then s.onRng fun r => { r with start := .window } else s)

/-- R316: READY still clear after 40 ms. -/
def execRngReadyTimeout (s : State) : Out :=
  .next (if s.rng.ready then s else postRng .entropyNotReady .warning s)

/-! ### Test patterns (R324) -/

def testsAllowed (s : State) : Bool := s.key.fuses.lifeCycle == .blank || s.key.fuses.lifeCycle == .factory

def refuseTest (s : State) : State := s.onRng fun r => { r with testLast := .lifecycleDenied }

def writeRngTest (v : U32) (s : State) : State :=
  if !testsAllowed s then refuseTest s
  else
    let raw := v.getLsbD 0
    let inj := v.getLsbD 1
    let was := s.rng.rawRead || s.rng.inject
    let s := s.onRng fun r => { r with rawRead := raw, inject := inj, testLast := .ok }
    if s.rng.phase == .failed then s
    else if raw || inj then refuseAll (s.onRng fun r => { r with phase := .alarm, ready := false, pool := [], healthyRun := 0 })
    else if was then s.onRng fun r => { r with phase := .startup, ready := false, start := .settling, injected := [] }
    else s

def execRngTestWrite (q : PciePort) (value : U32) (s : State) : Out := .next (f0Write q (writeRngTest value) s)

def writeRngInject (v : U64) (s : State) : State :=
  if !testsAllowed s then refuseTest s
  else if s.rng.inject then s.onRng fun r => { r with injected := r.injected ++ [v] } else s

def execRngInjectWrite (q : PciePort) (value : U64) (s : State) : Out := .next (f0Write q (writeRngInject value) s)

/-- The next raw samples, in `n` groups of 32, the first in the low bits. -/
def rawNext (s : State) (n : Nat) : Bytes :=
  (List.range n).flatMap fun i => leBytes 4 (Config.rawSamples (s.rng.rawTaken + i)).toNat

/-- RNG_RAW: the raw samples at the cursor, which the read moves by its own width (R7): 64 samples for a 64-bit read, 32 for a
32-bit one. Zero unless RAW_READ (R325). -/
def execRngRawRead (r : RawRead) (s : State) : Out :=
  let n := if r.wide then 2 else 1
  .next (if !barOpen s (.f0 r.port) then s
    else if s.rng.rawRead then
      { s.onRng (fun r => { r with rawTaken := r.rawTaken + n }) with answer := rawNext s n, answerPoison := false }
    else { s with answer := zeroBytes (4 * n), answerPoison := false })

/-! ### Release draws (R320, R321) -/

/-- The counter block of a release draw. -/
def drawBlock (index kind attempt block : Nat) : Bytes :=
  beBytes 5 index ++ beBytes 1 kind ++ beBytes 1 attempt ++ [0] ++ beBytes 8 block

/-- The 32 bytes of trial t of attempt a. -/
def trialBytes (key : U256) (index kind attempt t : Nat) : Bytes :=
  Crypto.aes key (drawBlock index kind attempt (2 * t)) ++ Crypto.aes key (drawBlock index kind attempt (2 * t + 1))

/-- One trial of a draw: the value where it accepts. -/
def trial (kind num den flood : Nat) (b : Bytes) : Option Int :=
  match kind with
  | 2 => let x := (b.getD 0 0).toNat; if x < 255 then some (x % 3 - 1 : Int) else none
  | 3 =>
    let v := leNat (b.take 8) % 2 ^ (flood + 2)
    if v ≤ 2 ^ (flood + 1) then some ((v : Int) - 2 ^ flood) else none
  | _ => Config.gaussTrial b num den

/-- The first trial of an attempt that accepts. -/
def attemptValue (key : U256) (index kind num den flood a : Nat) : Option Int :=
  (List.range 32).findSome? fun t => trial kind num den flood (trialBytes key index kind a t)

/-- A draw: its value and the attempts that failed before it. -/
def drawValue (key : U256) (index kind num den flood : Nat) : Int × Nat :=
  match (List.range 256).find? fun a => (attemptValue key index kind num den flood a).isSome with
  | some a => ((attemptValue key index kind num den flood a).getD 0, a)
  | none => (0, 255)

end Sys2Proof.Machine
end

