-- ==== Sys2Proof/Machine/Send.lean ====
section
/-! DEFINITION. What a port sends (R222 to R224, R231, R232, R242, R243): frames, packets with their seals, messages cut
into packets, acknowledgements, and the messages of a twin pair (R258). -/

namespace Sys2Proof.Machine

/-! ### Opcodes of R223 -/

def opWrite : U8 := 0x01
def opTagged : U8 := 0x02
def opXfer : U8 := 0x03
def opAck : U8 := 0x10
def opNak : U8 := 0x11
def opCancel : U8 := 0x12
def opConnect : U8 := 0x20
def opChirp : U8 := 0x30

/-! ### Connections -/

def fabricBase : Nat := 0x400000
def fabricLast : Nat := 0x400FFF

/-- PORTS: home and failover as (port, sub-port). -/
def homeOf (ports : U8) : RPort × SubPort := ((ports.extractLsb' 0 3).toFin, (ports.extractLsb' 3 1).toFin)
def failoverOf (ports : U8) : RPort × SubPort := ((ports.extractLsb' 4 3).toFin, (ports.extractLsb' 7 1).toFin)

/-- The sub-port a connection uses now. -/
def connSub (c : Conn) : RPort × SubPort := if c.failedOver then failoverOf c.ports else homeOf c.ports

def maxPayload (c : Conn) : Nat := 2 ^ c.payloadLog

/-! ### Frames -/

/-- The 40-byte header of R222. -/
def rxtHeader (op part flags instar dest echo psn msg len grant off : Nat) (key : U64) : Bytes :=
  beBytes 1 1 ++ beBytes 1 op ++ beBytes 1 part ++ beBytes 1 flags ++ beBytes 4 instar ++ beBytes 3 dest ++ beBytes 1 echo
    ++ beBytes 4 psn ++ beBytes 4 msg ++ beBytes 2 len ++ beBytes 2 grant ++ beBytes 6 off ++ zeroBytes 2 ++ beBytes 8 key.toNat

/-- The sum of the 16-bit words of a byte string, the last padded with zero. -/
def sum16 : Bytes → Nat
  | a :: b :: r => a.toNat * 256 + b.toNat + sum16 r
  | [a] => a.toNat * 256
  | [] => 0

/-- The UDP checksum over the IPv6 pseudo-header, the UDP header and the data (R221: computed on IPv6, zero on IPv4). -/
def udpChecksum (ipVersion : Nat) (srcIp dstIp : U128) (srcPort dstPort : U16) (data : Bytes) : U16 :=
  if ipVersion == 6 then
    let len := 8 + data.length
    let sum := sum16 (beBytes 16 srcIp.toNat ++ beBytes 16 dstIp.toNat ++ beBytes 4 len ++ beBytes 4 17)
      + srcPort.toNat + dstPort.toNat + len + sum16 data
    let c := 65534 - (sum - 1) % 65535
    BitVec.ofNat 16 (if c = 0 then 65535 else c)
  else 0

/-- The headers of a packet that leaves a sub-port with `data` after the UDP header: to the next hop, from the sub-port's
addresses, to its own DST_PORT, with ECT(0) (R217, R221). (DESIGN CHOICE, log entry 184) -/
def wireHead (q : RPort) (b : SubPort) (ipVersion : Nat) (dstIp : U128) (dscp : BitVec 6) (srcPort : U16) (data : Bytes)
    (s : State) : WireHead :=
  let x := s.sub q b
  let srcIp := if ipVersion == 6 then x.ipv6 else x.ipv4.setWidth 128
  let dstPort := x.udp.extractLsb' 0 16
  ⟨x.nexthop, x.mac, ipVersion, srcIp, dstIp, dscp, 2, srcPort, dstPort, udpChecksum ipVersion srcIp dstIp srcPort dstPort data⟩

/-- The headers of a packet of a connection on path `path`: the DSCP of its class, the source port of the path (R221, R232). -/
def connHead (c : Conn) (path : Nat) (data : Bytes) (s : State) : WireHead :=
  let udp := (s.sub (connSub c).1 (connSub c).2).udp
  wireHead (connSub c).1 (connSub c).2 c.ipVersion c.remoteIp (if c.fabric then udp.extractLsb' 24 6 else udp.extractLsb' 16 6)
    (c.udpSrcBase + BitVec.ofNat 16 path) data s

/-- The nonce of R242. -/
def sealNonce (member conn psn : Nat) : Bytes := beBytes 4 (member % 1024 <<< 22 ||| conn % 4096) ++ beBytes 8 psn

/-- A frame leaves a sub-port that carries traffic: its link is up and an association is installed.
(DESIGN CHOICE, log entry 130) -/
def emit (q : RPort) (b : SubPort) (f : TxFrame) (s : State) : State :=
  let x := s.sub q b
  match x.linkUp, x.assoc with
  | true, some a =>
    { s.onSub q b (fun x => { x with txFrames := x.txFrames + 1, assoc := some { a with txPn := a.txPn + 1 } }) with
      tx := f :: s.tx }
  | _, _ => s

/-- A frame of the link handshake needs no association (R218). -/
def emitPlain (q : RPort) (b : SubPort) (f : TxFrame) (s : State) : State :=
  if (s.sub q b).linkUp then
    { s.onSub q b (fun x => { x with txFrames := x.txFrames + 1 }) with tx := f :: s.tx }
  else s

/-- An RXT packet of a connection: its header is also what the UDP checksum covers, with the payload and the seal tag. -/
def rxtFrame (c : Conn) (path : Nat) (op : U8) (psn : Nat) (msg : U32) (key : U64) (off : BitVec 48) (echo flags : U8)
    (payload tail : Bytes) (sealTag : U128) (s : State) : TxFrame :=
  let head := rxtHeader op.toNat c.remotePart.val flags.toNat s.sys.instar c.remoteConn.toNat echo.toNat (psn % 2 ^ 32) msg.toNat
    payload.length 0 off.toNat key
  .rxt (connSub c).1 (connSub c).2 (connHead c path (head ++ payload ++ tail) s) op (BitVec.ofNat 8 c.remotePart.val)
    c.remoteConn.toNat (BitVec.ofNat 32 s.sys.instar) (BitVec.ofNat 32 psn) msg key off echo flags payload sealTag

/-- The frame of a data packet on its path; RETX marks a packet sent again. -/
def packetFrame (c : Conn) (k : TxPacket) (retx : Bool) (s : State) : TxFrame :=
  rxtFrame c k.path k.opcode k.psn k.msgId 0 k.offset 0 (if retx then k.flags ||| 8 else k.flags) k.payload
    (beBytes 16 k.sealTag.toNat) k.sealTag s

/-- The next path that is not failed, from path `i` on. -/
def livePath (c : Conn) (i : Nat) : Nat :=
  ((List.range (max c.paths 1)).map fun j => (i + j) % max c.paths 1).find? (fun j => !c.pathFailed.getLsbD j) |>.getD (i % max c.paths 1)

/-- Put a packet of a fabric connection on the wire, sealed under the partition's transfer key, and keep it until it is
acknowledged. -/
def sendPacket (n : Nat) (op : U8) (msg : U32) (off : Nat) (flags : Nat) (payload : Bytes) (s : State) : State :=
  let c := s.conn n
  let key := (slotAt s (transferSlot c.part)).value
  let iv := sealNonce s.sys.member n c.txPsn
  let head := rxtHeader op.toNat c.remotePart.val flags s.sys.instar c.remoteConn.toNat 0 c.txPsn msg.toNat payload.length 0 off 0
  let body := Crypto.gcmCrypt key iv payload
  let path := livePath c c.nextPath
  let k : TxPacket := ⟨c.txPsn, msg, op, BitVec.ofNat 48 off, BitVec.ofNat 8 flags, body, Crypto.gcmTag key iv head body, path, 0⟩
  let f := packetFrame c k false s
  emit (connSub c).1 (connSub c).2 f
    (State.onConn n (fun c => { c with txPsn := c.txPsn + 1, unacked := c.unacked ++ [k], nextPath := (path + 1) % max c.paths 1 }) s)

/-- The packets of a message: offset, bytes, and the FIRST and LAST flags. -/
def cutMessage (size : Nat) : Nat → Nat → Bytes → Bool → List (Nat × Bytes × Nat)
  | 0, _, _, _ => []
  | fuel + 1, off, b, first =>
    if b.length ≤ size then [(off, b, (if first then 1 else 0) ||| 2)]
    else (off, b.take size, if first then 1 else 0) :: cutMessage size fuel (off + size) (b.drop size) false

/-- Whether the transfer key of the connection's generation may still be used (R242, R284). -/
def sealable (s : State) (n : Nat) : Bool :=
  let c := s.conn n
  c.keyGen == (s.part c.part).keyGen && (slotValue (transferSlot c.part) mLink uEncrypt s).isSome

/-- Send one message; the stale pages of a removed or reloaded partition are dropped and counted. -/
def sendMessage (n : Nat) (op : U8) (start : Nat) (b : Bytes) (s : State) : State :=
  let c := s.conn n
  if c.state ≠ .ready then s
  else if !sealable s n then
    State.onPart c.part (fun x => { x with gonePages := min (x.gonePages + max 1 ((b.length + 4095) / 4096)) 0xFFFFFFFF }) s
  else
    let s := forAll (cutMessage (maxPayload c) (b.length / maxPayload c + 1) start b true)
      (fun (off, d, fl) => sendPacket n op c.txMsg off (fl ||| 4) d) s
    State.onConn n (fun c => { c with txMsg := c.txMsg + 1 }) s

/-! ### Acknowledgements (R224) -/

/-- Bit i of the SACK bitmap: PSN + 1 + i has been received. -/
def sackOf (c : Conn) : U64 :=
  BitVec.ofNat 64 (((List.range 64).map fun i => if c.received.contains (c.rxPsn + 1 + i) then 2 ^ i else 0).sum)

/-- The lowest incomplete message id: a complete message counts as complete before its completion is posted. -/
def lowestIncomplete (c : Conn) : U32 :=
  c.rxMsgBase + BitVec.ofNat 32 (((List.range 256).find? fun i => !c.complete.contains (c.rxMsgBase + BitVec.ofNat 32 i).toNat).getD 256)

/-- An ACK goes on the next path that is not failed and leaves the rotation as it is. (DESIGN CHOICE, log entry 184) -/
def sendAck (n : Nat) (s : State) : State :=
  let c := s.conn n
  let f := rxtFrame c (livePath c c.nextPath) opAck c.rxPsn (lowestIncomplete c) (sackOf c) 0 (BitVec.ofNat 8 (min c.ceCount 255)) 0
    [] [] 0 s
  emit (connSub c).1 (connSub c).2 f (State.onConn n (fun c => { c with sinceAck := 0, ceCount := 0 }) s)

/-- A NAK of the packet, with its status and the marks to echo; the partition's counters of R249 see it.
(DESIGN CHOICE, log entry 184) -/
def sendNak (n : Nat) (psn : Nat) (msg : U32) (st : Status) (s : State) : State :=
  let c := s.conn n
  let f := rxtFrame c (livePath c c.nextPath) opNak psn msg (BitVec.ofNat 64 st.code) 0 (BitVec.ofNat 8 (min c.ceCount 255)) 0
    [] [] 0 s
  let s := State.onRx c.part (fun r => match st with
    | .accessRevoked => { r with revokedNaks := sat32 r.revokedNaks }
    | .accessDenied => { r with deniedNaks := sat32 r.deniedNaks }
    | .notReady => { r with rnrNaks := sat32 r.rnrNaks }
    | _ => r) s
  let s := if st = .fenced then s.onSub (connSub c).1 (connSub c).2 (fun x => { x with fencedSent := sat32 x.fencedSent }) else s
  emit (connSub c).1 (connSub c).2 f (State.onConn n (fun c => { c with ceCount := 0 }) s)

/-! ### Messages of the chapters above the transport -/

/-- The twin whose packets stay in the device: a bound secondary that is not acting primary (R260). (DEDUCED, log entry 128) -/
def PartState.silent (x : PartState) : Bool := x.bound && x.twin.secondary && !x.twin.actingPrimary

/-- XMITs that stay in the device: every one of a field replay, those of re-enacted beats up to the divergence, and a
secondary's (R260, R268, R269). -/
def PartState.muted (x : PartState) : Bool := x.silent || x.twin.keepsSlots

/-- A message a partition sends on a fabric connection from its program or its round controller: only a primary's leaves. -/
def sendFabric (p : Part) (n : Nat) (off : Nat) (b : Bytes) (s : State) : State :=
  if (s.part p).muted || (s.part p).phase == .fenced then s else sendMessage n opXfer off b s

/-- A twin message (R258): the head of 16 bytes, then the body. -/
def twinSend (p : Part) (typ beat : Nat) (body : Bytes) (s : State) : State :=
  if (s.part p).phase == .fenced then s
  else sendMessage (s.part p).twin.conn opXfer 0 (leBytes 1 typ ++ zeroBytes 7 ++ leBytes 8 beat ++ body) s

end Sys2Proof.Machine
end

