-- ==== Sys2Proof/Machine/Slots.lean ====
section
/-! DEFINITION. The operations of a round context that several commands share: the release ledger (R42), the result slot
(R43), the start and the failures of a finalize (R37, R40, R41, R263, R320), holds (R36, R44), aborts (R44), and the end of a
round. -/

namespace Sys2Proof.Machine

open Sys2Proof.Crypto (bytes256 sha256)

/-! ### The release ledger (R42) -/

def ledgerFind (l : List LedgerEntry) (key : U128) : Option LedgerEntry := l.find? fun e => e.key == key

/-- Round id `r` is usable under an entry; an entry whose tag fails has none (R288). -/
def entryUsable (e : LedgerEntry) (r : Nat) : Bool :=
  !e.corrupt && e.tagOk && decide (e.high - 64 < r) && (decide (e.high < r) || !e.window.getLsbD (e.high - r))

/-- A signer without an entry has every id usable. -/
def ledgerUsable (s : State) (key : U128) (r : Nat) : Bool := match ledgerFind s.key.vbat.ledger key with
  | some e => entryUsable e r
  | none => true

/-- Recorded as released: not usable under the signer's entry. -/
def ledgerRecorded (s : State) (key : U128) (r : Nat) : Bool := !ledgerUsable s key r

/-- Mark `r` released in an entry. -/
def entryMark (e : LedgerEntry) (r : Nat) : LedgerEntry :=
  if e.high < r then { e with window := (e.window <<< (r - e.high)) ||| 1, high := r }
  else { e with window := e.window ||| BitVec.ofNat 64 (2 ^ (e.high - r)) }

def onLedger (f : List LedgerEntry → List LedgerEntry) (s : State) : State :=
  s.onKey fun k => { k with vbat := { k.vbat with ledger := f k.vbat.ledger } }

/-- The entry of a signer is created, with H = 0 and W = 0, where none exists. -/
def ledgerCreate (key : U128) (s : State) : State :=
  if (ledgerFind s.key.vbat.ledger key).isSome then s else onLedger (· ++ [⟨key, 0, 0, false, true⟩]) s

def ledgerMark (key : U128) (r : Nat) (s : State) : State :=
  onLedger (fun l => l.map fun e => if e.key = key then entryMark e r else e) (ledgerCreate key s)

/-- An entry whose tag fails is marked corrupt when it is used, and one event says so (R288). (DESIGN CHOICE, log entry 189) -/
def judgeEntry (p : Part) (k : Ctx) (key : U128) (s : State) : State :=
  match s.key.vbat.ledger.findIdx? fun e => e.key == key && !e.tagOk && !e.corrupt with
  | none => s
  | some n => postRound p k .policyRefused .error 9 n
      (onLedger (fun l => l.map fun e => if e.key = key then { e with corrupt := true } else e) s)

/-- The signers whose accepted ROUND_OPENs hold a claim on an entry; a claim whose entry another open of the signer has created
meanwhile takes none. -/
def ledgerClaims (s : State) : List U128 :=
  ((s.parts.toList.flatMap fun x => x.ctxs.toList.filterMap fun c => c.claim.bind fun o =>
    if o.claimsEntry then some (signerId o.policy.signerKey) else none).eraseDups).filter fun k =>
      (ledgerFind s.key.vbat.ledger k).isNone

def ledgerSize : Nat := 1024

/-! ### The result slot (R43) -/

def SlotState.code : SlotState → Nat
  | .empty => 0 | .filling => 1 | .ready => 2 | .retired => 3

def SlotHeader.bytes (h : SlotHeader) : Bytes :=
  leBytes 4 h.state.code ++ leBytes 4 h.gen ++ leBytes 8 h.roundId ++ leBytes 8 h.length ++ leBytes 1 h.status.code
    ++ leBytes 1 h.format ++ zeroBytes 2 ++ leBytes 4 h.cohort ++ bytes256 h.digest

/-- The header moves to a state: GEN + 1. -/
def SlotHeader.next (h : SlotHeader) (st : SlotState) (status : Status) : SlotHeader :=
  { h with state := st, gen := (h.gen + 1) % 2 ^ 32, status := status }

/-- The header is written as it stands. -/
def writeHeader (p : Part) (k : Ctx) (s : State) : State × Bool :=
  releaseWrite p k (s.ctx p k).slotVA (s.ctx p k).header.bytes s

/-! ### Where a round's memory lies (R44, R167) -/

def State.imageOf (s : State) (p : Part) : Image := ((s.part p).img.image).getD {}

/-- The ROUND_LAYOUT record of a context's round. -/
def layoutOf (s : State) (p : Part) (k : Ctx) : Option LayoutRec := (s.imageOf p).layouts[(s.ctx p k).layout]?

/-- The slots of a round's MODE_STAGE (R167, R239): the record's staging area ends with them, after its STAGE_BYTES.
(DESIGN CHOICE, log entry 93) -/
def modeSlots (s : State) (p : Part) (k : Ctx) : List Nat := match layoutOf s p k with
  | some r =>
    let size := (s.ctx p k).policy.largestMsg (s.imageOf p).rings
    (List.range (r.modeStage / max size 1)).map fun i => r.stageVA + r.stageBytes + size * i
  | none => []

/-- The accumulator range of the round: start and length. -/
def accRange (s : State) (p : Part) (k : Ctx) : Nat × Nat := match layoutOf s p k with
  | some r => (r.accVA, (s.ctx p k).policy.accBytes (s.imageOf p).rings)
  | none => (0, 0)

/-- Zero bytes of the partition's own memory, whatever permissions its pages carry (R44, R30). -/
def deviceZero (p : Part) (va len : Nat) (s : State) : State :=
  (pageSplit va len).foldl (fun t (a, n) => match s.leafAt p a with
    | some e => if leafType e = 2 then match s.leafKey p e a with
        | some key => t.zeroRange key n
        | none => t else t
    | none => t) s

/-- Whether a tile of the round is poisoned: the round's own mark, or poison in its accumulator range. -/
def roundPoisoned (s : State) (p : Part) (k : Ctx) : Bool :=
  (s.ctx p k).tilesPoisoned || (pageSplit (accRange s p k).1 (accRange s p k).2).any fun (a, n) => match s.leafAt p a with
    | some e => if leafType e = 2 then match s.leafKey p e a with
        | some key => s.poisonedAt key n
        | none => false else false
    | none => false

/-- The lines of a range of partition memory get the poison mark. -/
def poisonRange (p : Part) (va len : Nat) (s : State) : State :=
  (pageSplit va len).foldl (fun t (a, n) => match s.leafAt p a with
    | some e => if leafType e = 2 then match s.leafKey p e a with
        | some key => t.onStore fun m => { m with poison := poisonAfter m.poison key n true }
        | none => t else t
    | none => t) s

/-- Every accumulator tile of the round is poisoned (R59, R82, R105, R107, R132, R148): the lines of its accumulator range, and the
round's own mark, which no write takes away. -/
def poisonRound (p : Part) (k : Ctx) (s : State) : State :=
  State.onCtx p k (fun c => { c with tilesPoisoned := true }) (poisonRange p (accRange s p k).1 (accRange s p k).2 s)

/-! ### Holds (R36, R44) -/

/-- The round enters HELD; the event comes on entry and on a change of cause. -/
def holdRound (p : Part) (k : Ctx) (cause : HoldCause) (s : State) : State :=
  let c := s.ctx p k
  let s' := State.onCtx p k (fun c => { c with phase := .held, holdCause := cause }) s
  if c.phase = .held ∧ c.holdCause = cause then s' else postRound p k cause.status .error 5 cause.code s'

/-- The ROUND_FINALIZE of the context completes. -/
def finishFinalize (p : Part) (k : Ctx) (st : Status) (result : Nat) (s : State) : State :=
  match (s.ctx p k).finCmd with
  | some c => complete c 0x13 st 0 result (State.onCtx p k (fun c => { c with finCmd := none, lastStatus := st }) s)
  | none => State.onCtx p k (fun c => { c with lastStatus := st }) s

/-- What leaving FINALIZING erases: the release instance, the staging, and for every cause but TWIN_ABSENT the NOISE
contributions (R263, R320). -/
def RoundCtx.discarded (c : RoundCtx) : RoundCtx :=
  { c with release := {}, ownNoise := none, partnerNoise := none, noiseSentAt := none, releaseFp := none, fpSentAt := none,
           partnerFp := none, finStep := .idle, finStalled := false,
           tal := { c.tal with cover := [] } }

/-- The staging area is discarded: no byte of it is read again. -/
def dropStaging (p : Part) (k : Ctx) : State → State := State.zeroRange (stageKey p.val k.val 0) (2 ^ 40)

/-- A Generate that waits for a context is withdrawn. -/
def cancelNoise (p : Part) (k : Ctx) (s : State) : State :=
  s.onRng fun r => { r with waiting := r.waiting.filter fun w => w.use != .noise p k }

/-! ### The release of staging -/

/-- ING_CONSUMED advances over freed entries; `fuel` bounds the run. -/
def advanceRing : Nat → Ingest → Ingest
  | 0, i => i
  | n + 1, i => if i.freed.contains i.consumed.toNat then
      advanceRing n { i with consumed := i.consumed + 1, freed := i.freed.filter (· != i.consumed.toNat) } else i

def Ingest.freeAt (index : U32) (i : Ingest) : Ingest :=
  advanceRing (i.freed.length + 1) { i with freed := insertSet i.freed index.toNat }

/-- R366: a ring entry is freed. -/
def freeEntry (p : Part) (r : Fin 4) (index : U32) : State → State :=
  State.onPart p fun x => { x with ingest := vupd x.ingest r (Ingest.freeAt index) }

/-- R239: a slot of MODE_STAGE is free again. -/
def freeSlot (p : Part) (k : Ctx) (va : Nat) : State → State :=
  State.onRx p fun r => { r with poolSlots := tupd r.poolSlots k.val [] (·.filter (· != va)) }

/-- What a message occupies is released: its ring entry or its slot. -/
def freeSource (p : Part) (k : Ctx) (va : Nat) (src : StampSource) : State → State :=
  match src with
  | .ring r i => freeEntry p r i
  | .conn _ _ => freeSlot p k va
  | .forwarded => freeSlot p k va

/-- What a message of the context occupies in the rings. -/
def PartState.ringEntries (x : PartState) (k : Ctx) : List (Fin 4 × U32) :=
  let held := (x.stamps.filter (·.ctx == k)).map (·.source) ++ (x.committed.filter (·.ctx == k)).map (·.source)
    ++ ((x.ctxs[k]).shared.index.filter (·.2.staged)).map (·.2.source) ++ (x.twin.held.filter (·.ctx == k)).map (·.source)
  held.filterMap fun
    | .ring r i => some (r, i)
    | _ => none

/-- Every message of the context that waits is dropped, and what it occupies is free. -/
def dropMessages (p : Part) (k : Ctx) (s : State) : State :=
  let s := forAll ((s.part p).ringEntries k) (fun (r, i) => freeEntry p r i) s
  State.onPart p (fun x => { x with
    stamps := x.stamps.filter fun t => t.ctx != k, committed := x.committed.filter fun t => t.ctx != k,
    twin := { x.twin with held := x.twin.held.filter fun t => t.ctx != k },
    rxt := { x.rxt with poolSlots := tdel x.rxt.poolSlots k.val } }) s

/-! ### The end of a round -/

/-- The context becomes FREE; it keeps the signer until a ROUND_OPEN claims it (R36). -/
def freeCtx (p : Part) (k : Ctx) (s : State) : State :=
  State.onCtx p k (fun c => { ({} : RoundCtx) with keptSigner := some (signerId c.policy.signerKey) })
    (dropMessages p k (dropStaging p k s))

/-! ### The release draws (R263, R320) -/

/-- A round whose release makes draws. -/
def Policy.draws (p : Policy) : Bool := p.isSum || p.stepNoise

/-- The stream key of a release instance: seed, round id as nonce, and the personalization of R318. -/
def releaseKey (seed : U256) (roundId k : Nat) : U256 :=
  (Crypto.drbgGenerate (Crypto.drbgInstantiate (bytes256 seed) (leBytes 8 roundId) (ascii "GZ25REL1" ++ leBytes 1 k))).1

/-- The noise seed. -/
def noiseSeed (roundId : Nat) (input : Bytes) : U256 :=
  Crypto.of256 (hkdfExpand32 roundId input)
where
  hkdfExpand32 (roundId : Nat) (input : Bytes) : Bytes :=
    Crypto.hkdfExpand (bytes256 (Crypto.hkdfExtract (leBytes 8 roundId) input)) (ascii "GZ25NSE1") 32

/-- The pair exchanges NOISE and release fingerprints while both twins live. -/
def PartState.paired (x : PartState) : Bool := x.twin.phase == .bound || x.twin.phase == .replaying

/-- The release instance is instantiated from the contributions `input`; step 2 runs. (DEDUCED, log entry 94) -/
def seedRelease (p : Part) (k : Ctx) (input : Bytes) : State → State :=
  State.onCtx p k fun c => { c with
    finStep := .pipeline, release := { key := some (releaseKey (noiseSeed c.policy.roundId input) c.policy.roundId k.val) } }

/-- The seed is formed from the contributions at hand. -/
def formSeed (p : Part) (k : Ctx) (s : State) : State :=
  let c := s.ctx p k
  let own := (c.ownNoise.map bytes256).getD []
  let other := (c.partnerNoise.map bytes256).getD []
  seedRelease p k (if !(s.part p).paired then own else if (s.part p).twin.secondary then other ++ own else own ++ other) s

/-- NOISE of the context's round goes to the partner. -/
def sendNoise (p : Part) (k : Ctx) (s : State) : State :=
  match (s.ctx p k).ownNoise with
  | some x => twinSend p 5 (s.sys.beat - 1) (leBytes 8 (s.ctx p k).policy.roundId ++ zeroBytes 8 ++ bytes256 x) s
  | none => s

/-- The own contribution is at hand: exchange it, or seed from it alone. -/
def noiseReady (p : Part) (k : Ctx) (s : State) : State :=
  if !(s.part p).paired then formSeed p k s
  else
    let s := State.onCtx p k (fun c => { c with finStep := .waitNoise, noiseSentAt := some s.sys.beat }) (sendNoise p k s)
    if (s.ctx p k).partnerNoise.isSome then formSeed p k s else s

/-- The partition's DRBG instance (R318). -/
def partInst (p : Part) : Fin 13 := ⟨5 + p.val, by omega⟩

/-- The own contribution is drawn. After a restart under R150 the draw seeds the release alone: nothing is exchanged, and the
contribution of the exchange stays (R263). (DEDUCED, log entry 159) -/
def noiseDrawn (p : Part) (k : Ctx) (s : State) : State :=
  let (x, s) := generate (partInst p) s
  if (s.ctx p k).tal.restarted then seedRelease p k (bytes256 x) s
  else noiseReady p k (State.onCtx p k (fun c => { c with ownNoise := some x }) s)

/-- The own contribution is at hand already, is drawn, or waits for the source. -/
def drawNoise (p : Part) (k : Ctx) (s : State) : State :=
  if (s.ctx p k).ownNoise.isSome && !(s.ctx p k).tal.restarted then noiseReady p k s
  else request (partInst p) (.noise p k) (noiseDrawn p k) s

/-- Step 2 starts: the counters of R153 cover it from here. -/
def startPipeline (p : Part) (k : Ctx) (s : State) : State :=
  let s := State.onCtx p k (fun c => { c with
    finStalled := false, release := {}, finStep := .idle,
    tal := { payloadLen := c.tal.payloadLen, restarted := c.tal.restarted, errors := c.tal.errors, lastStatus := c.tal.lastStatus } }) s
  if (s.ctx p k).policy.draws then drawNoise p k s else State.onCtx p k (fun c => { c with finStep := .pipeline }) s

/-! ### Pending slot writes -/

def setWait (p : Part) (k : Ctx) (w : SlotWait) : State → State := State.onCtx p k fun c => { c with headerWait := w }

/-- What the end of a header write brings. -/
def headerDone (p : Part) (k : Ctx) (w : SlotWait) (s : State) : State :=
  let s := setWait p k .none s
  let c := s.ctx p k
  match w with
  | .openHeader => match c.openCmd with
    | some o => complete o 0x10 .ok k.val c.openBeat (State.onCtx p k (fun c => { c with openCmd := none }) s)
    | none => s
  | .finalizeHeader => startPipeline p k s
  | .readyHeader =>
    let s := State.onTwin p (fun w => { w with releases := match c.releaseFp with
      | some fp => w.releases ++ [(c.policy.roundId, fp)]
      | none => w.releases }) s
    finishFinalize p k .ok c.header.length
      (State.onCtx p k (fun c => { c with phase := .released, release := {}, finStep := .idle }) s)
  | .failHeader cause st => finishFinalize p k st 0 (holdRound p k cause (cancelNoise p k (State.onCtx p k RoundCtx.discarded (dropStaging p k s))))
  | .ackHeader => match c.ackCmd with
    | some a => done a 0x15 .ok (freeCtx p k s)
    | none => freeCtx p k s
  | _ => s

/-- Re-enactment of a round that the ledger records as released (R268). -/
def replayedRelease (s : State) (p : Part) (k : Ctx) : Bool :=
  (s.part p).twin.replaying && ledgerRecorded s (signerId (s.ctx p k).policy.signerKey) (s.ctx p k).policy.roundId

/-- Write the header for the reason `w`; a fault leaves it waiting. Re-enactment of a released round leaves its READY slot alone.
(DEDUCED, log entry 164) -/
def tryHeader (p : Part) (k : Ctx) (w : SlotWait) (s : State) : State :=
  if replayedRelease s p k && (w == .openHeader || w == .finalizeHeader) then headerDone p k w s
  else match writeHeader p k (setWait p k w s) with
  | (s, true) => headerDone p k w s
  | (s, false) => s

/-- Bytes of the staging area of a round. -/
def stagedAt (s : State) (p : Part) (k : Ctx) (off n : Nat) : Bytes := s.bytesAt (stageKey p.val k.val off) n

/-- The sections of a payload from offset `off` of staging on, each with its offset and its bytes before padding. -/
def placeSections (off : Nat) : List (PayloadPart × Nat) → List (PayloadPart × Nat × Nat)
  | [] => []
  | (x, n) :: t => (x, off, n) :: placeSections (off + Policy.pad64 n) t

/-- The payload: what staging holds of its sections, each padded with zeros (R149). -/
def payloadOf (s : State) (p : Part) (k : Ctx) : Bytes :=
  let c := s.ctx p k
  if c.policy.isSum then stagedAt s p k 0 c.tal.payloadLen
  else (placeSections 0 c.policy.sections).flatMap fun x => stagedAt s p k x.2.1 x.2.2 ++ zeroBytes (Policy.pad64 x.2.2 - x.2.2)

/-- The header of a released round with payload `b`. -/
def readyAs (c : RoundCtx) (b : Bytes) : SlotHeader :=
  { c.header.next .ready .ok with length := c.tal.payloadLen, cohort := c.included, digest := sha256 b }

/-- Step 7 of R40: the READY header. -/
def readyHeader (p : Part) (k : Ctx) (s : State) : State :=
  tryHeader p k .readyHeader (State.onCtx p k (fun c => { c with header := readyAs c (payloadOf s p k) }) s)

/-- Steps 6 to 8 of R40: the payload, then the header; a fault leaves it waiting. -/
def tryPayload (p : Part) (k : Ctx) (s : State) : State :=
  match releaseWrite p k ((s.ctx p k).slotVA + 64) (payloadOf s p k) (setWait p k .payload s) with
  | (s, true) => readyHeader p k (setWait p k .none s)
  | (s, false) => s

/-- RESULT_ACK's zeroing of the payload. -/
def tryAckZero (p : Part) (k : Ctx) (s : State) : State :=
  match releaseZero p k ((s.ctx p k).slotVA + 64) (s.ctx p k).header.length (setWait p k .ackPayload s) with
  | (s, true) => setWait p k .none s
  | (s, false) => s

/-- The write that waits is tried again, after FAULT_RESUME or at a boundary when it waits on no entry (R206). -/
def retrySlot (p : Part) (k : Ctx) (s : State) : State :=
  match (s.ctx p k).headerWait with
  | .none => s
  | .payload => tryPayload p k s
  | .ackPayload => tryAckZero p k s
  | w => tryHeader p k w s

/-! ### Failures of a finalize (R41, R148) -/

/-- The staging is discarded and the header goes back to EMPTY; the hold and the completion follow it. Where step 2 had not
ended, it ends with this status (R153). -/
def failFinalize (p : Part) (k : Ctx) (cause : HoldCause) (st : Status) (s : State) : State :=
  tryHeader p k (.failHeader cause st) (cancelNoise p k (State.onCtx p k (fun c => { c with
    header := c.header.next .empty st
    tal := { c.tal with cover := [], lastStatus := if c.tal.step = 7 then c.tal.lastStatus else st }
    release := {}, finStep := .idle }) (dropStaging p k s)))

/-- A ROUND_UNMASK stopped before its end: it completes with the records it applied (R59). -/
def endUnmasks (p : Part) (k : Ctx) (st : Status) (s : State) : State :=
  let q := (s.ctx p k).masked.queue
  let s := State.onCtx p k (fun x => { x with masked := { x.masked with
    queue := [], unmaskStatus := if q.isEmpty then x.masked.unmaskStatus else st,
    failRecord := if q.isEmpty then x.masked.failRecord else 0 } }) s
  forAll q (fun j => complete j.cmd 0x12 st 0 j.applied) s

/-- A hold from outside (R36, R41): DEGRADED, or a second divergence. A release past step 5 goes on. What is stamped after the
beat that ends a round's admission so is late (R36); what was stamped by then is admitted as R33 says. The spec names no outcome
for a ROUND_UNMASK that waits or expands when such a hold takes its round out of CLOSING: the model stops it as a RECOVERY hold
does. (DEDUCED, log entry 160; DESIGN CHOICE, log entry 161) -/
def holdOutside (p : Part) (k : Ctx) (cause : HoldCause) (s : State) : State :=
  let c := s.ctx p k
  match c.phase with
  | .opened => holdRound p k cause (State.onCtx p k (fun c => { c with stopBeat := some (s.beatOf p) }) s)
  | .closing => holdRound p k cause (endUnmasks p k .invalidState s)
  | .closed => holdRound p k cause s
  | .finalizing =>
    if c.finStep = .writing then s
    else match c.headerWait with
      | .failHeader _ _ => s
      | _ => failFinalize p k cause cause.status s
  | _ => s

/-! ### Aborts (R44) -/

/-- The fields of an aborting context: they read as FREE, and what the zeroing and the header write still need stays. -/
def RoundCtx.abortedAs (c : RoundCtx) : RoundCtx :=
  { ({} : RoundCtx) with
    aborting := true, keptSigner := some (signerId c.policy.signerKey), slotVA := c.slotVA,
    header := c.header.next .empty .ok }

/-- ROUND_ABORT, and the abort of a removal: admission stops, the bitmap clears, the accumulator range, the staging and the
round's mode staging slots are zeroed, and the header goes EMPTY. (DEDUCED, log entry 91) -/
def abortRound (p : Part) (k : Ctx) (cmd : Option Cmd) (s : State) : State :=
  let (va, len) := accRange s p k
  let slots := tget (s.part p).rxt.poolSlots k.val []
  let size := (s.ctx p k).policy.largestMsg (s.imageOf p).rings
  let s := forAll slots (fun a => deviceZero p a size) (deviceZero p va len (dropStaging p k s))
  let s := cancelNoise p k (dropMessages p k s)
  tryHeader p k .abortHeader (State.onCtx p k (fun c => { c.abortedAs with abortCmd := cmd }) s)

end Sys2Proof.Machine
end

