-- ==== Sys2Proof/Machine/Rounds.lean ====
section
/-! DEFINITION. The Wanex round controller (chapter 02): ROUND_OPEN and its checks, the last admitting beat, close, finalize,
abort and acknowledgement. -/

namespace Sys2Proof.Machine

/-! ### Commands that name a round (R36, R359) -/

/-- The command acted on the round: its status becomes LAST_STATUS, and it completes. (DEDUCED, log entry 90) -/
def roundDone (p : Part) (k : Ctx) (c : Cmd) (op : Nat) (st : Status) (s : State) : State :=
  done c op st (State.onCtx p k (fun x => { x with lastStatus := st }) s)

/-- A round command. While the pair replays it waits: re-enactment of its beat executes it (R267). (DEDUCED, log entry 90) -/
def roundCommand (c : Cmd) (op : Nat) (i : Instr) (body : Part → State → State) (s : State) : State :=
  partCommand c op true (fun p s =>
    if (s.part p).twin.phase == .replaying then
      State.onTwin p (fun w => { w with deferred := w.deferred ++ [(s.sys.beat - 1, i)] }) s
    else body p s) s

/-- R36, R359: the context must exist and hold this round; a FREE or aborting context, or another id, gives INVALID_STATE. -/
def withRound (p : Part) (c : Cmd) (op : Nat) (r : RoundRef) (body : Ctx → State → State) (s : State) : State :=
  if h : r.context.toNat < 4 then
    let k : Ctx := ⟨r.context.toNat, h⟩
    if (s.ctx p k).phase = .free ∨ (s.ctx p k).policy.roundId ≠ r.roundId.toNat then done c op .invalidState s else body k s
  else done c op .invalidCommand s

/-! ### ROUND_OPEN (R29, R30, R418) -/

/-- The policy a context holds or is claimed for. -/
def RoundCtx.heldPolicy (c : RoundCtx) : Option Policy := match c.claim with
  | some o => some o.policy
  | none => if c.phase = .free then none else some c.policy

/-- The result slot a context holds or is claimed for: start and size. The spec does not say whether check 12 counts the slot of an
aborting context, whose EMPTY header may still wait for FAULT_RESUME: the model does not, since its fields read as FREE (R44).
(DESIGN CHOICE, log entry 162) -/
def RoundCtx.heldSlot (c : RoundCtx) : Option (Nat × Nat) := match c.claim with
  | some o => some (o.slotVA, o.slotBytes)
  | none => if c.phase = .free then none else some (c.slotVA, c.slotBytes)

/-- A fabric connection of the partition exists. -/
def fabricConn (s : State) (p : Part) (n : Nat) : Bool :=
  (s.conn n).state != .free && (s.conn n).fabric && (s.conn n).part == p

/-- Connections a policy names: those of a reduction group (R62), or of the other parties (R66). -/
def namedConns (q : Policy) : List Nat :=
  match q.mode with
  | .masked => if q.groupSize = 1 then [] else
      ((List.range q.groupSize).filter (· != q.groupRank)).map (q.maskConn + ·)
  | .shared => ((List.range q.parties).filter (· != q.partyIndex)).map (q.shareConn + ·)
  | .encrypted => []

/-- A key of the set: kind, parameter set, a level served between `lo` and `hi`, and the Galois element of a ROTATE key. -/
def hasKey (ks : KsSlot) (set kind lo hi galois : Nat) : Bool :=
  ks.keys.any fun r => r.kind == kind && r.paramSet == set && decide (r.levelLo ≤ hi ∧ lo ≤ r.levelHi) && (kind != 2 || r.galois == galois)

/-- The Galois element of a rotation by `k`, modulo 2N (R98). -/
def galoisOf (logN : Nat) (k : Int) : Nat :=
  let n := 2 ^ logN
  Crypto.powMod (2 * n) 32 5 (k % (n / 2 : Nat)).toNat

/-- Keys that the words of a job's programs need: kind and Galois element (R94). -/
def neededKeys (i : Image) (job : Nat) (r : RingSet) : List (Nat × Nat) :=
  let logN := r.logN
  ((List.range i.dieCount).flatMap fun d =>
    (((i.schedules.getD d []).getD job []).flatMap fun e => e.refs.filterMap id).flatMap fun g =>
      (unitWords (i.programs.getD d ⟨[], []⟩) g 0).flatMap fun w => match decodeWord w with
        | some (.ctMul _ _) => [(1, 0)]
        | some (.ctRot _ f) => [(2, galoisOf logN f.p24.toInt)]
        | some (.ctConj _ _) => [(3, 2 * 2 ^ logN - 1)]
        | some (.ctSlotsum _ _) =>
          (List.range (if r.ckks then logN - 1 else logN)).map fun j => (2, galoisOf logN (2 ^ j : Nat))
        | some (.molt _ _) => [(4, 0), (5, 0)]
        | some (.moltEx _ _) => [(5, 0)]
        | _ => []).eraseDups

/-- The highest level at which a close program can work: the round's LEVEL, or the OUT_LEVEL of its parameter set's molts. Its words
state no levels, so a key serves it that serves any level up to that. (DEDUCED, log entry 178) -/
def topLevel (i : Image) (q : Policy) : Nat :=
  ((i.molts.filter fun m => m.outerSet == q.paramSet).map (·.outLevel)).foldl max q.level

/-- The encrypted-mode part of check 6 (R94). -/
def encryptedFits (s : State) (p : Part) (q : Policy) (job : Option Nat) : Bool :=
  let i := s.imageOf p
  match i.rings[q.paramSet]?, (s.part p).keysets.toList.find? (fun k => k.registered && k.id.toNat == q.keysetId) with
  | some r, some ks =>
    (match job with
      | some j => (neededKeys i j r).all fun n => hasKey ks q.paramSet n.1 0 (topLevel i q) n.2
      | none => true)
    && (if q.combine then !q.stepNoise
        else hasKey ks q.paramSet 6 q.level q.level 0 && !q.stepClip && !q.stepStats && !q.stepOpt
          && decide (noiseAdd (noiseAdd (min 255 (q.maxInNoise + quarterLog q.maxCohort)) (4 * q.floodBits)) r.incEnc
              ≤ r.budget.getD q.level 0))
  | _, _ => false

/-- Check 6 of R29 with R49, R62, R66, R94, R140 and R418. -/
def check6 (s : State) (p : Part) (q : Policy) (job : Option Nat) : Bool :=
  let i := s.imageOf p
  q.chitinHash == i.measurement && i.modes.getLsbD q.mode.code && q.layoutsAllow i
    && (namedConns q).all (fabricConn s p)
    && (q.mode != .encrypted || encryptedFits s p q job)
    && (q.format == 0x10) == q.isSum && (!q.omitAgg || q.stepOpt)

/-- The ledger key of a policy's signer. -/
def Policy.signer (q : Policy) : U128 := signerId q.signerKey

/-- Check 7: OK, or the status of its failure. -/
def check7Open (s : State) (q : Policy) : Status :=
  if !ledgerUsable s q.signer q.roundId then .policyRefused
  else if (ledgerFind s.key.vbat.ledger q.signer).isSome || (ledgerClaims s).contains q.signer then .ok
  else if s.key.vbat.ledger.length + (ledgerClaims s).length < ledgerSize then .ok
  else .capacity

/-- Whether the pool entries of two policies carry equal tags (R239). -/
def sameTag (a b : Policy) : Bool :=
  a.tagKind == b.tagKind && a.stretchId % 2 ^ 16 == b.stretchId % 2 ^ 16 && a.roundId % 2 ^ 16 == b.roundId % 2 ^ 16

/-- Check 8. -/
def check8Open (x : PartState) (q : Policy) : Bool :=
  x.ctxs.toList.all fun c => match c.heldPolicy with
    | some o => !(o.roundId == q.roundId && o.signer == q.signer) && !sameTag o q
    | none => true

/-- The context and layout record check 10 gives a round. -/
def placeOf (s : State) (p : Part) (q : Policy) : Option (Ctx × Nat) :=
  let i := s.imageOf p
  (List.finRange 4).findSome? fun k =>
    if !(s.ctx p k).claimable then none
    else match i.layouts.findIdx? fun r => r.mode == q.mode && r.contexts.getLsbD k.val with
      | some n => match i.layouts[n]? with
        | some r => if q.fits i.rings r then some (k, n) else none
        | none => none
      | none => none

/-- The two ranges share a byte. -/
def overlaps (a an b bn : Nat) : Bool := decide (a < b + bn ∧ b < a + an)

/-- The first slot page that does not translate, whatever its permissions. -/
def slotFault (s : State) (p : Part) (va len : Nat) : Option (Nat × Status) :=
  (pagesOf va (boundLen va len)).findSome? fun n =>
    let a := max va (n * 2 ^ 16)
    if 2 ^ 40 ≤ a then some (a, .pageFault)
    else if s.entryBad p a then some (a, .uncorrectableMemory)
    else match s.leafAt p a with
      | some e => if leafType e = 2 then none else some (a, .pageFault)
      | none => some (a, .pageFault)

/-- Check 13: release permission, and BAR on the device's own memory. -/
def slotPermsOk (s : State) (p : Part) (va len : Nat) : Bool :=
  (pagesOf va len).all fun n => match s.leafAt p (n * 2 ^ 16) with
    | some e => leafPerm e 4 && (leafBacking e == 2 || leafPerm e 3)
    | none => false

/-- Checks 3 to 6 of R29 on the block's bytes: the policy, with the place check 10 has for it. -/
def policyChecks (s : State) (p : Part) (b : Bytes) : Except Status (Policy × Option (Ctx × Nat)) :=
  let i := s.imageOf p
  match Policy.check3 b i.rings with
  | none => .error .invalidCommand
  | some q =>
    if Crypto.keyHash q.signerKey ≠ i.policySignerHash then .error .signatureInvalid
    else if !Crypto.verifyMsg q.signerKey (b.take 0x160) q.signature then .error .signatureInvalid
    else
      let place := placeOf s p q
      if check6 s p q (place.bind fun x => (i.layouts[x.2]?).map (·.job)) then .ok (q, place) else .error .policyRefused

/-- Checks 3 to 14 of R29 on the block's bytes: the claim, or the status of the first failure. (DEDUCED, log entry 92) -/
def openChecks (s : State) (p : Part) (c : Cmd) (b : Bytes) (slotVA slotBytes openBeat : Nat) : Except Status (Ctx × OpenClaim) :=
  let i := s.imageOf p
  match policyChecks s p b with
  | .error e => .error e
  | .ok (q, place) =>
    match (if (s.part p).twin.replaying then .ok else check7Open s q) with
    | .ok =>
      if !check8Open (s.part p) q then .error .policyRefused
      else if q.twinRelease && !(s.part p).paired then .error .twinAbsent
      else match place with
        | none => .error .capacity
        | some (k, n) =>
          if !(slotVA % 64 == 0 && decide (64 + q.payloadLen i.rings ≤ slotBytes)) then .error .capacity
          else if (s.part p).ctxs.toList.any fun x => match x.heldSlot with
              | some (a, m) => overlaps a m slotVA slotBytes
              | none => false then .error .invalidCommand
          else if !slotPermsOk s p slotVA slotBytes then .error .accessDenied
          else if openBeat ≠ 0 ∧ openBeat ≤ s.beatOf p then .error .invalidState
          else .ok (k, ⟨c, if openBeat = 0 then s.beatOf p + 1 else openBeat, s.beatOf p, q, Crypto.sha256 b, n, slotVA, slotBytes,
            (ledgerFind s.key.vbat.ledger q.signer).isNone⟩)
    | e => .error e

/-- Check 7 meets the signer's entry, where the checks before it pass; the event names the context the round would take, and
without one a free value. (DESIGN CHOICE, log entry 189) -/
def judgeSigner (p : Part) (b : Bytes) (s : State) : State :=
  match policyChecks s p b with
  | .ok (q, place) => judgeEntry p ((place.map (·.1)).getD (Fin.ofNat 4 (Config.openField 19))) q.signer s
  | .error _ => s

/-- R29: ROUND_OPEN. The checks end at once; the round opens at ROUND_OPEN_EFFECT. -/
def openRound (c : Cmd) (policyVA slotVA slotBytes openBeat : U64) (p : Part) (s : State) : State :=
  if testHolds s p then done c 0x10 .busy s
  else if (s.part p).phase ≠ .loaded ∨ (s.part p).img.image = none then done c 0x10 .invalidState s
  else
    let (s, r) := readOperand p policyVA.toNat policyBytes s
    match r with
    | .error e => done c 0x10 e s
    | .ok b => match slotFault s p slotVA.toNat slotBytes.toNat with
      | some (a, e) => done c 0x10 e (operandFault p a 5 e s)
      | none =>
        let s := judgeSigner p b s
        match openChecks s p c b slotVA.toNat slotBytes.toNat openBeat.toNat with
        | .error e => done c 0x10 e s
        | .ok (k, o) => State.onCtx p k (fun x => { x with claim := some o, keptSigner := none }) s

/-- (DEDUCED, log entry 10) -/
def execRoundOpen (c : Cmd) (policyVA slotVA slotBytes openBeat : U64) (s : State) : Out :=
  .next (roundCommand c 0x10 (.roundOpen c policyVA slotVA slotBytes openBeat) (openRound c policyVA slotVA slotBytes openBeat) s)

/-- The mode counters of a round that opens. -/
def openedCtx (i : Image) (o : OpenClaim) : RoundCtx :=
  let q := o.policy
  { ({} : RoundCtx) with
    phase := .opened, policy := q, policyHash := o.policyHash, openBeat := o.openBeat,
    lastBeat := o.openBeat + q.deadlineBeats - 1, slotVA := o.slotVA, slotBytes := o.slotBytes, layout := o.layout,
    header := { roundId := q.roundId, format := q.format }, openCmd := some o.cmd,
    masked := { segments := if q.mode = .masked then q.segments else 0 },
    shared := { wireLen := if q.mode = .shared then q.wireLen else 0, proofLen := if q.mode = .shared then q.proofLen else 0 },
    enc := { ctCount := if q.mode = .encrypted then q.ctCount else 0,
             budget := if q.mode = .encrypted then ((i.rings[q.paramSet]?).map fun r => r.budget.getD q.level 0).getD 0 else 0 },
    tal := { payloadLen := q.payloadLen i.rings } }

/-- R30: the boundary before the open beat. An open that fails here releases its claims. -/
def openEffect (p : Part) (k : Ctx) (s : State) : State :=
  match (s.ctx p k).claim with
  | none => s
  | some o =>
    if s.beatOf p < o.openBeat then s
    else
      let x := s.part p
      let drop := State.onCtx p k fun c => { c with claim := none }
      if x.phase = .fenced then done o.cmd 0x10 .fenced (drop s)
      else if x.phase ≠ .loaded then done o.cmd 0x10 .invalidState (drop s)
      else
        let s := when o.claimsEntry (ledgerCreate o.policy.signer) s
        let s := State.onCtx p k (fun _ => openedCtx (s.imageOf p) o) s
        let s := deviceZero p (accRange s p k).1 (accRange s p k).2 s
        tryHeader p k .openHeader s

def execRoundOpenEffect (p : Part) (k : Ctx) (s : State) : Out := .next (openEffect p k s)

/-- Beats from stamping to processing: D of a pair (R259), or of the pair whose log a field replay takes. -/
def PartState.delay (x : PartState) : Nat := if x.bound || x.twin.replayStatus == 1 then x.twin.orderDelay else 0

/-! ### Classification (R54, R55) -/

/-- k_i. -/
def segCount (c : RoundCtx) (i : Nat) : Nat := tget c.masked.counts i 0

/-- Pairs of neighbours (owner, peer) with a greater count at the peer. -/
def neededPairs (c : RoundCtx) : Nat :=
  ((tkeys c.masked.counts).map fun j => ((List.range c.policy.rosterLen).filter fun i =>
    c.policy.neighbour i j && decide (segCount c i < segCount c j)).length).sum

/-- A leader classifies the whole roster; a member its own residue class, and needs no seed. (DEDUCED, log entry 97) -/
def RoundCtx.classify (c : RoundCtx) : RoundCtx :=
  let q := c.policy
  let size := if q.groupRank = 0 then q.rosterLen
    else ((List.range q.rosterLen).filter fun i => i % q.groupSize == q.groupRank).length
  let full := (c.masked.counts.filter fun x => x.2 == q.segments).length
  let some_ := (c.masked.counts.filter fun x => decide (1 ≤ x.2)).length
  { c with included := full, excluded := some_ - full,
           masked := { c.masked with
             classified := true, complete := full, partialCount := some_ - full, dropped := size - some_,
             needSelf := if q.groupRank = 0 then some_ else 0, needPair := if q.groupRank = 0 then neededPairs c else 0 } }

/-- Every member's transfer has been merged. -/
def allMerged (c : RoundCtx) : Bool :=
  ((List.range c.policy.groupSize).filter (· != 0)).all c.masked.merged.contains

/-- R57: the counts are computed once the last stamps are processed and, on a leader, every member has been merged. -/
def classifyRound (p : Part) (k : Ctx) : State → State :=
  State.onCtx p k fun c =>
    if (c.phase == .opened || c.phase == .closing) && c.policy.mode == .masked && c.stampsDone && !c.masked.classified
        && (c.policy.groupRank != 0 || allMerged c) then c.classify else c

/-! ### The end of admission (R31, R54, R57, R97) -/

/-- Header of accumulated ciphertext `j` of a SUM round (R97). -/
def sumHeader (r : RingSet) (c : RoundCtx) (j : Nat) : ObjHeader :=
  let q := c.policy
  let n := tget c.enc.added j 0
  { fmt := 1, ckks := r.ckks, logN := r.logN, level := q.level, parts := 2,
    noise := if n = 0 then 0 else min 255 (tget c.enc.nbMax j 0 + quarterLog n),
    scale := if r.ckks then Config.openField 15 else 0, keyset := q.keysetId, ntt := q.encNtt, poisoned := false,
    paramSet := q.paramSet, bodyBytes := Policy.bodyBytes r 2 q.level }

/-- A program word that a close program runs: an operation of R101 or a molt. -/
def closeOp : Instr → Bool
  | .ctAdd _ _ | .ctSub _ _ | .ctAddp _ _ | .ctMulp _ _ | .ctMul _ _ | .ctRot _ _ | .ctConj _ _ | .ctRescale _ _ | .ctDrop _ _
  | .ctNtt _ _ | .ctIntt _ _ | .ctSlotsum _ _ | .molt _ _ | .moltEx _ _ => true
  | _ => false

/-- Entry `n` of a job's schedule runs part of the close program on some image die. -/
def closeEntry (i : Image) (job n : Nat) : Bool :=
  (List.range i.dieCount).any fun d => (((i.schedules.getD d []).getD job [])[n]?).any fun e =>
    e.refs.any fun g => g.any fun g => (unitWords (i.programs.getD d ⟨[], []⟩) g 0).any fun w => (decodeWord w).any closeOp

/-- The close program of a SUM round has run: every entry that holds part of it has committed in a step that began once the headers
stood; at once where none does (R105). (DEDUCED, log entry 180) -/
def closeProgramDone (s : State) (p : Part) (k : Ctx) : Bool := match layoutOf s p k with
  | none => true
  | some r =>
    let i := s.imageOf p
    let cycle := max ((i.jobs[r.job]?).map (·.cycleLen)).getD 1 1
    let start := (s.ctx p k).enc.closeFrom
    let step := ((s.part p).img.jobs.toList.getD r.job {}).step
    (List.range cycle).all fun n => !closeEntry i r.job n || decide (start + (n + cycle - start % cycle) % cycle < step)

/-- The step of the round's job in which its close program may first run: the one that no cluster has begun. -/
def closeStart (s : State) (p : Part) (k : Ctx) : Nat := match layoutOf s p k with
  | none => 0
  | some r =>
    let j := (s.part p).img.jobs.toList.getD r.job {}
    if j.done.toList.all (· == 0) then j.step else j.step + 1

/-- The classes of an encrypted round (R96), and the headers of a SUM round's accumulators (R97). -/
def sumHeaders (p : Part) (k : Ctx) (s : State) : State :=
  let c := s.ctx p k
  let q := c.policy
  match (s.imageOf p).rings[q.paramSet]? with
  | none => s
  | some r =>
    let full := (c.enc.counts.filter fun x => x.2 == q.ctCount).length
    let some_ := (c.enc.counts.filter fun x => decide (1 ≤ x.2)).length
    let heads := if q.combine then [] else (List.range q.ctCount).map fun j => (j, sumHeader r c j)
    let s := forAll heads (fun (j, h) =>
      deviceWrite p ((accRange s p k).1 + j * (64 + Policy.bodyBytes r 2 q.level)) h.bytes) s
    State.onCtx p k (fun c => { c with
      included := full, excluded := some_ - full,
      enc := { c.enc with headersSet := true, closeFrom := closeStart s p k, complete := full, partialCount := some_ - full, dropped := q.maxCohort - some_,
                          nbAcc := heads.foldl (fun m h => max m h.2.noise) 0 } }) s

/-- The stamps of the last admitting beat have been processed, at the end of that beat or of the next one the partition ran in
(R33, R57): the counts of the round are final. -/
def endAdmission (p : Part) (k : Ctx) (s : State) : State :=
  let c := s.ctx p k
  if (c.phase == .opened || c.phase == .closing) && !c.stampsDone
      && c.passBeat.any (fun b => decide (c.lastBeat + (s.part p).delay ≤ b)) && (s.part p).stamps.all (fun t => t.ctx != k || decide (c.lastBeat < t.beat)) then
    let s := State.onCtx p k (fun c => { c with stampsDone := true }) s
    classifyRound p k (when (c.policy.mode == .encrypted) (sumHeaders p k) s)
  else s

/-- Entry to CLOSING. -/
def enterClosing (p : Part) (k : Ctx) (s : State) : State :=
  endAdmission p k (State.onCtx p k (fun c => { c with phase := .closing }) s)

/-- The messages a round's mode did not stamp. -/
def RoundCtx.malformed (c : RoundCtx) : Nat := match c.policy.mode with
  | .masked => c.masked.malformed
  | .shared => c.shared.malformed
  | .encrypted => c.enc.malformed

/-- The summary events of a round, once its close is over (R32, R51, R377, R378). (DEDUCED, log entry 40) -/
def noteClose (p : Part) (k : Ctx) (s : State) : State :=
  let c := s.ctx p k
  let rejected := c.shared.rejProof + c.shared.rejTimeout + c.shared.rejAbsent
  let one (kind value : Nat) : State → State := when (decide (0 < value)) (postRound p k .ok .notice kind value)
  if c.lateNoted || c.phase == .free || c.phase == .opened || c.phase == .closing then s
  else one 6 rejected (one 4 c.malformed (one 3 c.late (State.onCtx p k (fun c => { c with lateNoted := true }) s)))

/-- ACCEPT_DIGEST: SHA-256 of the bitmap of 2 MiB. -/
def acceptDigest (l : List Nat) : U256 :=
  Crypto.sha256 ((List.range (2 ^ 21)).map fun i =>
    BitVec.ofNat 8 (((List.range 8).map fun j => if l.contains (8 * i + j) then 2 ^ j else 0).sum))

def closeRound (c : Cmd) (r : RoundRef) (p : Part) (s : State) : State :=
  withRound p c 0x11 r (fun k s =>
    match (s.ctx p k).phase with
    | .opened => roundDone p k c 0x11 .ok
        (enterClosing p k (State.onCtx p k (fun x => { x with lastBeat := min x.lastBeat (s.beatOf p - 1) }) s))
    | .closing => roundDone p k c 0x11 .ok s
    | .closed => roundDone p k c 0x11 .ok s
    | _ => roundDone p k c 0x11 .invalidState s) s

/-- R31: ROUND_CLOSE, fetched at the boundary that ended the beat before the current one. -/
def execRoundClose (c : Cmd) (r : RoundRef) (s : State) : Out := .next (roundCommand c 0x11 (.roundClose c r) (closeRound c r) s)

/-! The events at the end of a beat `b`. The boundary that ends the beat takes them in this order at its step 1 (R38); each has a
row of its own too, which takes it at the boundary before the current beat where it is still due. (DESIGN CHOICE, log entry 163) -/

/-- R31: the last admitting beat has ended. -/
def admissionDeadline (p : Part) (k : Ctx) (b : Nat) (s : State) : State :=
  when ((s.ctx p k).phase == .opened && decide ((s.ctx p k).lastBeat ≤ b)) (enterClosing p k) s

def execAdmissionDeadline (p : Part) (k : Ctx) (s : State) : Out := .next (when (decide (0 < s.beatOf p)) (admissionDeadline p k (s.beatOf p - 1)) s)

/-- R31: the beat that ended brought the admitted count to MAX_COHORT. -/
def cohortLimit (p : Part) (k : Ctx) (b : Nat) (s : State) : State :=
  when ((s.ctx p k).phase == .opened && decide ((s.ctx p k).policy.maxCohort ≤ (s.ctx p k).admitted))
    (fun s => enterClosing p k (State.onCtx p k (fun x => { x with lastBeat := min x.lastBeat b }) s)) s

def execCohortLimitReached (p : Part) (k : Ctx) (s : State) : Out := .next (cohortLimit p k (s.beatOf p - 1) s)

/-! ### The end of close work (R36, R59) -/

/-- A share or PART awaits a decision. -/
def ShareRec.pending (r : ShareRec) : Bool := r.verdict.isNone && (r.admittedAt.isSome || r.partAt.isSome)

/-- The mode's part of the close work. -/
def closeWorkDone (s : State) (p : Part) (k : Ctx) : Bool :=
  let c := s.ctx p k
  match c.policy.mode with
  | .masked =>
    if 0 < c.policy.groupRank then c.masked.handedOff && c.masked.merged.contains c.policy.groupRank
    else c.masked.classified && c.masked.needSelf == 0 && c.masked.needPair == 0 && c.masked.queue.isEmpty
  | .shared =>
    if 0 < c.policy.partyIndex then c.shared.closeSent && c.shared.merged.getLsbD 0
    else c.shared.index.all (fun x => !x.2.pending)
      && (List.range c.policy.parties).all fun j => j == 0 || (c.shared.merged.getLsbD j && (tfind c.shared.done j).isSome)
  | .encrypted => c.enc.headersSet && (if c.policy.combine then
      c.enc.sourceRead && (c.tilesPoisoned || (List.range c.policy.ctCount).all c.enc.decoded.contains)
    else closeProgramDone s p k)

/-- The close work of a round is complete: no earlier than the first run beat after the last stamps were processed (R36, R59). -/
def closeReady (s : State) (p : Part) (k : Ctx) : Bool :=
  (s.ctx p k).phase == .closing && (s.ctx p k).stampsDone && (s.ctx p k).finalRun && closeWorkDone s p k

/-- R36: CLOSED. -/
def closeWorkComplete (p : Part) (k : Ctx) (s : State) : State :=
  when (closeReady s p k) (fun s => noteClose p k (State.onCtx p k (fun c => { c with
    phase := .closed, shared := { c.shared with acceptDigest :=
      if c.policy.mode = .shared then acceptDigest c.shared.acceptedSet else c.shared.acceptDigest } }) s)) s

def execCloseWorkComplete (p : Part) (k : Ctx) (s : State) : Out := .next (closeWorkComplete p k s)

/-- R36, R59: RECOVERY_BEATS have passed at the end of beat `b`; close work that is complete by then goes first. -/
def recoveryTimeout (p : Part) (k : Ctx) (b : Nat) (s : State) : State :=
  let c := s.ctx p k
  when (c.phase == .closing && decide (c.lastBeat + c.policy.recoveryBeats ≤ b) && !closeReady s p k)
    (fun s => holdRound p k .recovery (poisonRound p k (endUnmasks p k .invalidState s))) s

def execRecoveryTimeout (p : Part) (k : Ctx) (s : State) : Out :=
  .next (when (decide (0 < s.beatOf p)) (recoveryTimeout p k (s.beatOf p - 1)) s)

/-! ### ROUND_FINALIZE (R36, R37, R40) -/

/-- Step 1 of R40. -/
def startFinalize (p : Part) (k : Ctx) (s : State) : State :=
  tryHeader p k .finalizeHeader (State.onCtx p k (fun c => { c with
    phase := .finalizing, holdCause := .none, header := c.header.next .filling .ok,
    tal := { payloadLen := c.tal.payloadLen, lastStatus := c.tal.lastStatus } }) s)

/-- Step 5 of R40 at its boundary: the mark, or the "ledger refused" case. In re-enactment, steps 5 to 7 of a round the ledger
records as released are skipped: the slot already holds its READY header (R268). -/
def ledgerStep (p : Part) (k : Ctx) (s : State) : State :=
  let q := (s.ctx p k).policy
  let s := judgeEntry p k q.signer s
  if replayedRelease s p k then
    headerDone p k .readyHeader (State.onCtx p k (fun c => { c with header := readyAs c (payloadOf s p k) }) s)
  else if ledgerUsable s q.signer q.roundId then
    State.onCtx p k (fun c => { c with finStep := .writing }) (ledgerMark q.signer q.roundId s)
  else failFinalize p k .ledger .policyRefused s

/-- The comparison of step 4. -/
def compareRelease (p : Part) (k : Ctx) (s : State) : State :=
  let c := s.ctx p k
  match c.releaseFp, c.partnerFp with
  | some a, some b => if a = b then ledgerStep p k s else failFinalize p k .diverged .twinDiverged s
  | _, _ => s

/-- A retry after TWIN_ABSENT resumes where the pair's exchange stopped. -/
def resumeFinalize (p : Part) (k : Ctx) (s : State) : State :=
  let s := State.onCtx p k (fun c => { c with phase := .finalizing, holdCause := .none }) s
  if (s.ctx p k).finStep = .restart then s
  else match (s.ctx p k).releaseFp with
  | some fp => compareRelease p k (State.onCtx p k (fun c => { c with finStep := .waitTwin, fpSentAt := some s.sys.beat })
      (twinSend p 6 (s.sys.beat - 1) (leBytes 8 (s.ctx p k).policy.roundId ++ zeroBytes 8 ++ beBytes 16 fp.toNat) s))
  | none => drawNoise p k s

/-- The release checks of R37; a field replay goes no further (R269). A re-enacted command passed the ledger when it was given. -/
def releaseChecks (p : Part) (k : Ctx) (c : Cmd) (s : State) : State :=
  let x := s.ctx p k
  let s := judgeEntry p k x.policy.signer s
  if !ledgerUsable s x.policy.signer x.policy.roundId && !(s.part p).twin.replaying then
    roundDone p k c 0x13 .policyRefused (holdRound p k .ledger s)
  else if x.included < x.policy.minCohort then roundDone p k c 0x13 .policyRefused (holdRound p k .cohort s)
  else if roundPoisoned s p k then roundDone p k c 0x13 .poisonedInput (holdRound p k .poison s)
  else if (s.part p).twin.replayStatus = 1 then roundDone p k c 0x13 .ok s
  else
    let s := State.onCtx p k (fun y => { y with finCmd := some c, finDeadline := s.beatOf p + y.policy.finalizeBeats - 1 }) s
    if x.phase = .held ∧ x.holdCause = .twinAbsent then resumeFinalize p k s else startFinalize p k s

/-- R36: the id that a FREE context's last signer has released; a claimed context keeps no signer. -/
def freedFinalize (p : Part) (k : Ctx) (r : RoundRef) (s : State) : Status :=
  match (s.ctx p k).keptSigner with
  | some key => if (s.ctx p k).isFree && ledgerRecorded s key r.roundId.toNat then .policyRefused else .invalidState
  | none => .invalidState

def finalizeRound (c : Cmd) (r : RoundRef) (p : Part) (s : State) : State :=
  if h : r.context.toNat < 4 then
    let k : Ctx := ⟨r.context.toNat, h⟩
    let x := s.ctx p k
    if x.phase = .free then
      let s := match x.keptSigner with
        | some key => judgeEntry p k key s
        | none => s
      done c 0x13 (freedFinalize p k r s) s
    else if x.policy.roundId ≠ r.roundId.toNat then done c 0x13 .invalidState s
    else match x.phase with
      | .closed => releaseChecks p k c s
      | .held => releaseChecks p k c s
      | .finalizing => roundDone p k c 0x13 .busy s
      | .released => roundDone p k c 0x13 .policyRefused s
      | _ => roundDone p k c 0x13 .invalidState s
  else done c 0x13 .invalidCommand s

def execRoundFinalize (c : Cmd) (r : RoundRef) (s : State) : Out := .next (roundCommand c 0x13 (.roundFinalize c r) (finalizeRound c r) s)

/-- Step 3 of R40: the release fingerprint. -/
def releaseFingerprint (s : State) (p : Part) (k : Ctx) : U128 :=
  let c := s.ctx p k
  Crypto.first128 (Crypto.sha256 (leBytes 8 c.policy.roundId ++ leBytes 8 c.tal.payloadLen ++ leBytes 4 c.included
    ++ Crypto.bytes256 (Crypto.sha256 (payloadOf s p k))))

/-- Steps 3 to 5 of R40, when step 2 has ended. -/
def sealRelease (p : Part) (k : Ctx) (s : State) : State :=
  let fp := releaseFingerprint s p k
  let s := State.onCtx p k (fun c => { c with releaseFp := some fp, finStalled := false, tal := { c.tal with step := 7, lastStatus := .ok } }) s
  if (s.ctx p k).policy.twinRelease then
    compareRelease p k (State.onCtx p k (fun c => { c with finStep := .waitTwin, fpSentAt := some s.sys.beat })
      (twinSend p 6 (s.sys.beat - 1) (leBytes 8 (s.ctx p k).policy.roundId ++ zeroBytes 8 ++ beBytes 16 fp.toNat) s))
  else ledgerStep p k s

/-- The release ends with every tile poisoned (R148, R150). -/
def poisonRelease (p : Part) (k : Ctx) (s : State) : State := failFinalize p k .poison .poisonedInput (poisonRound p k s)

/-- The values of a format, `w` bytes each, that are not finite. -/
def nonfiniteIn (F : FpFormat) (w : Nat) (b : Bytes) : Nat :=
  ((List.range (b.length / w)).filter fun i => !ffinite F (fieldLE b (w * i) w)).length

/-- Non-finite values of an aggregate section in a floating-point FORMAT. -/
def nonfiniteAgg (q : Policy) (b : Bytes) : Nat := match q.format with
  | 0x01 => nonfiniteIn fp32 4 b
  | 0x02 => nonfiniteIn fp64 8 b
  | 0x03 => nonfiniteIn bf16 2 b
  | 0x04 => nonfiniteIn fp16 2 b
  | _ => 0

/-- The INT32 elements whose latest encode found a value that was not finite. -/
def nonfiniteInts (l : List (Nat × Nat × Nat)) : List Nat :=
  l.foldl (fun t r => if r.1 = 6 then t.filter fun i => !decide (r.2.1 ≤ i ∧ i < r.2.1 + r.2.2)
    else if r.1 = 8 then insertSet t r.2.1 else t) []

/-- TAL_NONFINITE after encode (R148): the non-finite values of the payload's floating-point fields, and the elements of an INT32
aggregate that were not finite before conversion. -/
def countNonfinite (s : State) (p : Part) (k : Ctx) : Nat :=
  let c := s.ctx p k
  if c.policy.isSum then 0
  else ((placeSections 0 c.policy.sections).map fun x =>
    let b := stagedAt s p k x.2.1 x.2.2
    match x.1 with
    | .aggregate => if c.policy.format = 0x05 then (nonfiniteInts c.tal.cover).length else nonfiniteAgg c.policy b
    | .optimizer => nonfiniteIn fp32 4 b
    | .statistics => ((List.range (b.length / 48)).map fun i => nonfiniteIn fp64 8 (fieldB b (48 * i + 8) 40)).sum).sum

/-- The end of step 2, where the payload's non-finite values number `n` (R148). -/
def endPipeline (p : Part) (k : Ctx) (n : Nat) (s : State) : State :=
  let s := State.onCtx p k (fun c => { c with tal := { c.tal with nonfinite := min n 0xFFFFFFFF } }) s
  if 0 < n && !(s.ctx p k).policy.nonfiniteRelease then poisonRelease p k s else sealRelease p k s

/-- R148, R419: step 2 has ended when the last section is encoded. -/
def execReleasePipelineDone (p : Part) (k : Ctx) (s : State) : Out :=
  let c := s.ctx p k
  .next (if c.phase != .finalizing || c.finStep != .pipeline || c.tal.step != 6 then s
    else endPipeline p k (countNonfinite s p k) s)

/-- Steps 6 to 8 of R40: the slot write ends, unless one of its pages faults. -/
def execSlotWriteComplete (p : Part) (k : Ctx) (s : State) : Out :=
  .next (when ((s.ctx p k).phase == .finalizing && (s.ctx p k).finStep == .writing && (s.ctx p k).headerWait == .none)
    (tryPayload p k) s)

/-- A draw of step 2 stands still: the NOISE contribution, or a draw that was refused in the last beat the round's job ran in
(R41, R152). (DEDUCED, log entry 53) -/
def entropyStalled (s : State) (p : Part) (k : Ctx) : Bool :=
  (s.rng.phase == .alarm || s.rng.phase == .failed)
    && (((s.ctx p k).finStep == .pipeline && (s.ctx p k).finStalled) || s.rng.waiting.any fun w => w.use == .noise p k)

/-- R41: an entropy stall has lasted past the finalize deadline at the end of beat `b`. -/
def finalizeDeadline (p : Part) (k : Ctx) (b : Nat) (s : State) : State :=
  when ((s.ctx p k).phase == .finalizing && decide ((s.ctx p k).finDeadline ≤ b) && entropyStalled s p k)
    (failFinalize p k .entropy .entropyFail) s

def execFinalizeDeadline (p : Part) (k : Ctx) (s : State) : Out :=
  .next (when (decide (0 < s.beatOf p)) (finalizeDeadline p k (s.beatOf p - 1)) s)

/-- R41: the round waits for its twin no longer; the header stays FILLING, and what was formed is kept. -/
def holdAbsent (p : Part) (k : Ctx) (s : State) : State :=
  finishFinalize p k .twinAbsent 0 (holdRound p k .twinAbsent s)

/-- R41: no release fingerprint of the twin for 64 beats. -/
def execTwinReleaseTimeout (p : Part) (k : Ctx) (s : State) : Out :=
  let c := s.ctx p k
  .next (when (c.phase == .finalizing && c.finStep == .waitTwin && match c.fpSentAt with
      | some b => decide (b + 64 ≤ s.sys.beat)
      | none => false) (holdAbsent p k) s)

/-- R263: no NOISE contribution of the twin for 64 beats. -/
def execTwinNoiseTimeout (p : Part) (k : Ctx) (s : State) : Out :=
  let c := s.ctx p k
  .next (when (c.phase == .finalizing && c.finStep == .waitNoise && match c.noiseSentAt with
      | some b => decide (b + 64 ≤ s.sys.beat)
      | none => false) (holdAbsent p k) s)

/-- The staging of a round holds something: during step 2, from its end to the end of the slot write, and while a round waits for
its twin in HELD (TWIN_ABSENT) (R41). -/
def RoundCtx.stagingLive (c : RoundCtx) : Bool :=
  let step2 := c.finStep == .pipeline || c.finStep == .waitTwin
  match c.phase with
  | .finalizing => (step2 || c.finStep == .writing) && c.headerWait != .readyHeader
  | .held => c.holdCause == .twinAbsent && c.finStep == .waitTwin
  | _ => false

/-- R150: an uncorrectable error in staging, or in the tally unit during step 2: the staging goes, and step 2 restarts at the next
boundary; after step 5 the release ends. Staging is mapped nowhere (R27), so the MEMORY event goes to F0 alone (R378).
(DEDUCED, log entry 146; DEDUCED, log entry 159; its SOURCE and DETAIL are open, log entry 14) -/
def stagingError (p : Part) (k : Ctx) (s : State) : State :=
  let c := s.ctx p k
  if !c.stagingLive then s
  else
    let s := postF0 .memory .uncorrectableMemory .error (Config.openField 8) (BitVec.ofNat 64 (Config.openField 16))
      (State.onCtx p k (fun c => { c with tal := { c.tal with cover := [], errors := c.tal.errors + 1, errorDue := false } }) (dropStaging p k s))
    if c.finStep = .writing then failFinalize p k .ledger .uncorrectableMemory (setWait p k .none s)
    else State.onCtx p k (fun c => { c with
      finStep := .restart, releaseFp := none, fpSentAt := none, release := {}, tal := { c.tal with restarted := true, step := 0 } }) s

def execStagingError (p : Part) (k : Ctx) (s : State) : Out := .next (stagingError p k s)

/-- The boundary after an error of R150: step 2 restarts with fresh draws; a second error of the finalize poisons the round. -/
def restartPipeline (p : Part) (k : Ctx) (s : State) : State :=
  let c := s.ctx p k
  if c.finStep ≠ .restart then s
  else if 2 ≤ c.tal.errors then poisonRelease p k s
  else when (c.phase == .finalizing) (startPipeline p k) s

/-- The events of a context at the end of beat `b` (R38). -/
def roundEvents (p : Part) (b : Nat) (k : Ctx) (s : State) : State :=
  let s := recoveryTimeout p k b (closeWorkComplete p k (cohortLimit p k b (admissionDeadline p k b s)))
  restartPipeline p k (finalizeDeadline p k b s)

/-! ### ROUND_ABORT and RESULT_ACK (R43, R44) -/

/-- A ROUND_OPEN whose header still waits completes when its round ends. (DEDUCED, log entry 91) -/
def endOpen (p : Part) (k : Ctx) (st : Status) (s : State) : State :=
  match (s.ctx p k).openCmd with
  | some o => complete o 0x10 st k.val (s.ctx p k).openBeat (State.onCtx p k (fun c => { c with openCmd := none }) s)
  | none => s

def abortCommand (c : Cmd) (r : RoundRef) (p : Part) (s : State) : State :=
  withRound p c 0x14 r (fun k s =>
    match (s.ctx p k).phase with
    | .finalizing => roundDone p k c 0x14 .busy s
    | .released => roundDone p k c 0x14 .invalidState s
    | .fenced => roundDone p k c 0x14 .fenced s
    | _ => abortRound p k (some c) (endOpen p k .ok (endUnmasks p k .invalidState s))) s

def execRoundAbort (c : Cmd) (r : RoundRef) (s : State) : Out := .next (roundCommand c 0x14 (.roundAbort c r) (abortCommand c r) s)

/-- R44: the zeroing and the header write have ended. -/
def execAbortZeroingComplete (p : Part) (k : Ctx) (s : State) : Out :=
  let c := s.ctx p k
  .next (if c.aborting && c.headerWait == .none then
      let s := State.onCtx p k (fun c => { ({} : RoundCtx) with keptSigner := c.keptSigner }) s
      match c.abortCmd with
        | some a => done a 0x14 .ok s
        | none => s
    else s)

def ackCommand (c : Cmd) (r : RoundRef) (p : Part) (s : State) : State :=
  withRound p c 0x15 r (fun k s =>
    match (s.ctx p k).phase with
    | .released =>
      if (s.ctx p k).acking then roundDone p k c 0x15 .busy s
      else tryAckZero p k (State.onCtx p k (fun x => { x with acking := true, ackCmd := some c }) s)
    | _ => roundDone p k c 0x15 .invalidState s) s

def execResultAck (c : Cmd) (r : RoundRef) (s : State) : Out := .next (roundCommand c 0x15 (.resultAck c r) (ackCommand c r) s)

/-- R43: the payload is zeros; the RETIRED header ends the round. -/
def execResultAckComplete (p : Part) (k : Ctx) (s : State) : Out :=
  .next (when ((s.ctx p k).phase == .released && (s.ctx p k).acking && (s.ctx p k).headerWait == .none)
    (fun s => tryHeader p k .ackHeader (State.onCtx p k (fun c => { c with header := { c.header with
      state := .retired, gen := (c.header.gen + 1) % 2 ^ 32 } }) s)) s)

end Sys2Proof.Machine
end

