-- ==== Sys2Proof/Machine/Units.lean ====
section
/-! DEFINITION. What a unit's instructions are written over: the gate of an instruction, index registers and the loop stack,
modulus entries and reductions (R64, R89, R179), registers and tiles (R128 to R132, R178, R189), memory accesses with their
faults and the journal (R158, R185, R192, R193), and the issue of asynchronous and cluster operations (R190, R191). -/

namespace Sys2Proof.Machine

/-! ### The gate -/

def State.unitOf (s : State) (u : UnitId) : UnitState := s.unit u.die u.cluster u.unit
def State.clusterOf (s : State) (u : UnitId) : ClusterRun := s.cluster u.die u.cluster
def onUnitOf (u : UnitId) (f : UnitState → UnitState) : State → State := State.onUnit u.die u.cluster u.unit f
def onWork (u : UnitId) (f : UnitRegs → UnitRegs) : State → State := onUnitOf u fun x => { x with work := f x.work }

/-- The cluster of the unit runs its beat, and its die has a clock. (DEDUCED, log entry 102) -/
def clusterRuns (s : State) (u : UnitId) : Bool :=
  s.ownerOf u.die == some u.part && (s.clusterOf u).running && !(s.clusterOf u).aborted && !clockOff s u.die

/-- The unit issues: it runs, waits for nothing, and its program has not ended. -/
def unitReady (s : State) (u : UnitId) : Bool :=
  clusterRuns s u && (s.unitOf u).wait == .none && decide ((s.unitOf u).pos < (s.unitOf u).progCount)

/-- A loop body that has ended repeats, or leaves the stack (R187). -/
def loopBack : Nat → UnitState → UnitState
  | 0, x => x
  | n + 1, x => match x.loops with
    | [] => x
    | f :: t =>
      if x.pos ≤ f.last then x
      else if 1 < f.left then { x with pos := f.start, loops := { f with left := f.left - 1 } :: t }
      else loopBack n { x with loops := t }

/-- The next word. -/
def UnitState.next (x : UnitState) : UnitState := loopBack 4 { x with pos := x.pos + 1 }

/-- The instruction issues where its unit can, after its SYNC wait (R183); a word check 8 refuses never runs (R182).
(DEDUCED, log entry 7; DESIGN CHOICE, log entry 8) -/
def issue (u : UnitId) (sync valid : Bool) (body : State → State) (s : State) : Out :=
  if !unitReady s u || (sync && !(s.unitOf u).asyncs.isEmpty) then .next s
  else if !valid then .fault .invalidWord
  else
    let t := body s
    .next (if (t.clusterOf u).aborted then t else onUnitOf u UnitState.next t)

/-- The status latch takes the first status that is not OK (R178). -/
def latchStatusAt (u : UnitId) (st : Status) (index : Nat) : State → State :=
  onWork u fun w => if w.latchStatus = .ok then { w with latchStatus := st, latchIndex := index } else w
def latch (u : UnitId) (st : Status) (s : State) : State := latchStatusAt u st (s.unitOf u).pos s

/-! ### Index registers -/

def xGet (x : Vector U64 8) (i : BitVec 3) : U64 := if i = 0 then 0 else x[i.toFin]
def xPut (x : Vector U64 8) (i : BitVec 3) (v : U64) : Vector U64 8 := if i = 0 then x else vput x i.toFin v
def State.x (s : State) (u : UnitId) (i : BitVec 3) : U64 := xGet (s.unitOf u).x i
def setX (u : UnitId) (i : BitVec 3) (v : U64) : State → State := onUnitOf u fun x => { x with x := xPut x.x i v }

/-! ### Moduli (R64, R89, R179) -/

/-- The entry a MOD field names in the unit's table. -/
def modEntry (s : State) (u : UnitId) (mod : Nat) : ModEntry :=
  ((s.imageOf u.part).modtab.getD u.unit.val []).getD (if mod = 16 then (s.unitOf u).work.msel.toNat else mod) {}

/-- The sequence of R89 on a KIND 1 entry. -/
def barrett (e : ModEntry) (x : Nat) : Nat :=
  let q1 := x / 2 ^ (e.shift - 1)
  let q3 := q1 * e.recip / 2 ^ (e.shift + 1)
  let r := (((x : Int) - q3 * e.modulus) % 2 ^ (e.shift + 2)).toNat
  let r := if e.modulus ≤ r then r - e.modulus else r
  if e.modulus ≤ r then r - e.modulus else r

/-- Reduction under an entry: Barrett, the low 32 bits, or the special form, which is exact. -/
def reduce (e : ModEntry) (x : Nat) : Nat :=
  match e.kind with
  | 1 => barrett e x
  | 2 => x % 2 ^ 32
  | 3 => x % goldilocks
  | _ => x

/-- The modulus of an entry as a number. -/
def ModEntry.size (e : ModEntry) : Nat := max e.modulus 1

def modAdd (e : ModEntry) (a b : Nat) : Nat := reduce e (a + b)
def modSub (e : ModEntry) (a b : Nat) : Nat := reduce e (a + (e.size - b % e.size))
def modMul (e : ModEntry) (a b : Nat) : Nat := reduce e (a * b)

/-- A 64-bit immediate modulo m. -/
def immMod (e : ModEntry) (imm : U64) : Nat := imm.toNat % e.size

/-- Wide mode (R189). -/
def ModEntry.wide (e : ModEntry) : Bool := e.kind == 3

/-! ### Registers and tiles -/

/-- The elements of a register: 32 words, or 16 field elements. -/
def VReg.elems (wide : Bool) (r : VReg) : List Nat :=
  if wide then (List.range 16).map fun i => (r.words.toList.getD (2 * i) 0).toNat + 2 ^ 32 * (r.words.toList.getD (2 * i + 1) 0).toNat
  else r.words.toList.map (·.toNat)

def VReg.ofElems (wide : Bool) (l : List Nat) (poison : Bool) : VReg :=
  { words := Vector.ofFn fun i : Fin 32 => BitVec.ofNat 32 (if wide then l.getD (i.val / 2) 0 / 2 ^ (32 * (i.val % 2)) else l.getD i.val 0)
    poison := poison }

/-- The elements of a tile as they stand: lanes of 48 bits, or lane pairs of 96. -/
def Tile.elems (wide : Bool) (t : Tile) : List Nat :=
  if wide then (List.range 16).map fun i => (t.lanes.toList.getD (2 * i) 0).toNat + 2 ^ 48 * (t.lanes.toList.getD (2 * i + 1) 0).toNat
  else t.lanes.toList.map (·.toNat)

def Tile.ofElems (wide : Bool) (l : List Nat) (count : Nat) (poison : Bool) : Tile :=
  { lanes := Vector.ofFn fun i : Fin 32 => BitVec.ofNat 48 (if wide then l.getD (i.val / 2) 0 / 2 ^ (48 * (i.val % 2)) else l.getD i.val 0)
    count := count
    poison := poison }

/-- A tile reduced in place (R130), under the modulus of the instruction that asks: a tile records none (R65, R188). (DEDUCED, log entry 48) -/
def Tile.reduced (e : ModEntry) (t : Tile) : Tile := Tile.ofElems e.wide ((t.elems e.wide).map (reduce e)) 1 t.poison

/-- A tile write (R129, R130, R132): `l` holds reduced values. -/
def Tile.write (e : ModEntry) (acc : Bool) (l : List Nat) (poison : Bool) (t : Tile) : Tile :=
  if acc then
    let t := if t.count = 2 ^ 16 then t.reduced e else t
    Tile.ofElems e.wide ((t.elems e.wide).zipWith (· + ·) l) (t.count + 1) (t.poison || poison)
  else Tile.ofElems e.wide l 1 poison

def UnitRegs.setReg (w : UnitRegs) (i : Nat) (r : VReg) : UnitRegs := { w with v := tput w.v i r }
def UnitRegs.tile (w : UnitRegs) (i : Nat) : Tile := tget w.tiles i {}
def UnitRegs.setTile (w : UnitRegs) (i : Nat) (t : Tile) : UnitRegs := { w with tiles := tput w.tiles i t }

/-- A tile write of a unit; the tile belongs to the beat's fingerprint (R261). -/
def putTile (u : UnitId) (e : ModEntry) (i : Nat) (f : Tile → Tile) : State → State :=
  onUnitOf u fun x => { x with work := x.work.setTile i (f (x.work.tile i)), tilesWritten := tput x.tilesWritten i e }

/-! ### Accesses (R185, R192, R193) -/

/-- R185: the leaf lies in the issuing cluster's slice. -/
def ownLeaf (u : UnitId) (e : U64) : Bool :=
  leafBacking e == 0 && (e.extractLsb' 16 3).toNat == u.die.val && (sramLeafCluster e).val == u.cluster.val

/-- The first page of an access that faults. `perm` is 0 for a read and 1 for a write; `own` asks for the unit's own slice. -/
def unitFault (s : State) (u : UnitId) (own : Bool) (va len perm : Nat) : Option (Nat × Status) :=
  if va / 2 ^ 56 = 0xFE then some (va, .accessDenied)
  else (pagesOf va (boundLen va len)).findSome? fun n =>
    let a := max va (n * 2 ^ 16)
    match s.translate u.part a perm with
    | .error e => some (a, e)
    | .ok _ => match s.leafAt u.part a with
      | some e => if own && !ownLeaf u e then some (a, .accessDenied) else none
      | none => none

/-- The cluster's beat aborts on a fault and waits for FAULT_RESUME (R192, R204). -/
def raiseFault (u : UnitId) (va access : Nat) (cause : Status) (s : State) : State :=
  let (s, w) := postFault u.part va 1 access cause true (u.die.val ||| u.cluster.val <<< 3 ||| u.unit.val <<< 8)
    (.cluster u.die u.cluster) (abortCluster u.die u.cluster s)
  State.onCluster u.die u.cluster (fun r => { r with waitFault := w }) s

def regionOfUnit (u : UnitId) : Region := ⟨u.cluster.val / 8, by omega⟩

/-- A read of a host-backed page: the log keeps its bytes, and re-enactment takes them from the log (R265, R268). -/
def hostRead (p : Part) (va len key : Nat) (s : State) : State × Bytes :=
  let x := (s.part p).twin
  let log := if x.replayStatus = 1 then x.replayLog else x.records
  match (if x.replaying then log.find? fun r => r.kind == 4 && r.beat == x.replayAt && r.aux == va && r.body.length == len else none) with
  | some r => (s, r.body)
  | none => (if x.replaying then s else logRecord p 4 va (s.bytesAt key len) s, s.bytesAt key len)

/-- Bytes the journal of a cluster holds: 1 MiB in lines of 64 bytes (R158). (DEDUCED, log entry 55) -/
def journalLimit : Nat := 16384

/-- A write of a cluster: the old bytes and marks go to the journal first. (DEDUCED, log entry 55) -/
def journalWrite (d : Die) (c : Cluster) (key : Nat) (b : Bytes) (poison : Bool) (s : State) : State :=
  let lines := linesOf key b.length
  let old := (List.range b.length).map fun i => (key + i, s.byteAt (key + i))
  let marks := lines.map fun n => (n, s.mem.poison.contains n)
  let s := State.onCluster d c (fun r => { r with
    journal := old.reverse ++ r.journal, journalPoison := marks ++ r.journalPoison,
    journalLines := lines.foldl insertSet r.journalLines }) s
  let s := s.store key b poison
  if journalLimit < (s.cluster d c).journalLines.length then overrunCluster d c s else s

/-! ### Lines that two units touch in one step (R191) -/

/-- Another unit of the partition has written the line in this step, and no barrier orders the write before what the unit does
now. (DEDUCED, log entry 143) -/
def raced (s : State) (u : UnitId) (line : Nat) : Bool :=
  let me := State.unitKey u.die u.cluster u.unit
  s.units.any fun (k, x) => k != me && (if h : k / 256 < 8 then s.ownerOf ⟨k / 256, h⟩ else none) == some u.part
    && x.written.any fun w => w.line == line && !w.after.any fun a => a.1 == me && decide (a.2 ≤ (s.unitOf u).syncs)

/-- The bytes a unit reads at a key: those of memory, free ones on a raced line. (DEDUCED, log entry 143) -/
def unitBytes (u : UnitId) (key n : Nat) (s : State) : State × Bytes :=
  let b := s.bytesAt key n
  if (linesOf key n).any (raced s u) then
    ({ s with draws := s.draws + 1 },
      b.zipIdx.map fun (x, i) => if raced s u (lineOf (key + i)) then Config.freeByte s.draws i else x)
  else (s, b)

/-- The address lies in the accumulator range of a round of the partition. (DEDUCED, log entry 136) -/
def inTiles (s : State) (p : Part) (va len : Nat) : Bool :=
  (List.finRange 4).any fun k =>
    (s.ctx p k).phase != .free && overlaps (accRange s p k).1 (accRange s p k).2 va len

/-- The lines of a write at `va` that stay poisoned whatever is written: poison in the accumulator range of a round sticks
(R132). (DEDUCED, log entry 154) -/
def stickyLines (s : State) (p : Part) (va key len : Nat) : List Nat :=
  if s.mem.poison.isEmpty then []
  else (linesOf key len).filter fun n => s.mem.poison.contains n && inTiles s p (va - key % 64 + 64 * (n - lineOf key)) 64

/-- A write of a unit: a raced line holds free bytes afterwards, and the unit has written its lines. (DEDUCED, log entry 143) -/
def unitStore (u : UnitId) (key : Nat) (b : Bytes) (poison : Bool) (s : State) : State :=
  let lines := linesOf key b.length
  let t := (lines.filter (raced s u)).foldl (fun t n =>
      if !clusterRuns t u then t
      else { journalWrite u.die u.cluster (64 * n) ((List.range 64).map (Config.freeByte t.draws)) poison t with draws := t.draws + 1 })
    (journalWrite u.die u.cluster key b poison s)
  if clusterRuns t u then
    onUnitOf u (fun x => { x with written := lines.map (⟨·, []⟩) ++ x.written.filter fun w => !lines.contains w.line }) t
  else t

/-- The named units have met: what any of them wrote, or knows to be written, comes before what each of them does next.
(DEDUCED, log entry 143) -/
def meet (l : List Nat) (s : State) : State :=
  let at_ := (s.units.filter fun (k, _) => l.contains k).map fun (k, x) => (k, x.syncs + 1)
  let known (k : Nat) (w : WriteRec) : WriteRec :=
    if l.contains k || w.after.any fun a => l.contains a.1 then
      { w with after := w.after ++ at_.filter fun a => !w.after.any fun b => b.1 == a.1 }
    else w
  { s with units := s.units.map fun (k, x) =>
      (k, { x with written := x.written.map (known k), syncs := if l.contains k then x.syncs + 1 else x.syncs }) }

/-- A unit's read: the bytes and whether any line of them is poisoned; none when it faulted. (DESIGN CHOICE, log entry 47) -/
def unitRead (u : UnitId) (own : Bool) (va len : Nat) (s : State) : State × Option (Bytes × Bool) :=
  let s := noteWalks u.part (.region u.die (regionOfUnit u)) va (boundLen va len) s
  match unitFault s u own va len 0 with
  | some (a, e) => (raiseFault u a 0 e s, none)
  | none => (pageSplit va len).foldl (fun (x : State × Option (Bytes × Bool)) (a, n) =>
      match x.1.translate u.part a 0, x.2 with
      | .ok k, some (b, p) =>
        if 2 ^ 64 ≤ k then let (s, d) := hostRead u.part a n k x.1; (s, some (b ++ d, p))
        else
          let (s, d) := unitBytes u k n (x.1.noteRead k n)
          (s, some (b ++ d, p || x.1.poisonedAt k n))
      | _, _ => x) (s, some ([], false))

/-- A unit's write, on pages all of which translate; the poison of a round stays. (DEDUCED, log entry 154) -/
def unitWrite (u : UnitId) (own : Bool) (va : Nat) (b : Bytes) (poison : Bool) (s : State) : State :=
  let s := noteWalks u.part (.region u.die (regionOfUnit u)) va (boundLen va b.length) s
  match unitFault s u own va b.length 1 with
  | some (a, e) => raiseFault u a 1 e s
  | none => (pageSplit va b.length).foldl (fun s (a, n) =>
      if !clusterRuns s u then s
      else match s.translate u.part a 1 with
        | .ok k =>
          let sticky := stickyLines s u.part a k n
          let s := unitStore u k ((b.drop (a - va)).take n) poison s
          if sticky.isEmpty || !clusterRuns s u then s
          else s.onStore fun m => { m with poison := sticky.foldl insertSet m.poison }
        | .error _ => s) s

/-! ### Asynchronous operations (R191) -/

def addr (x : U64) (off : Nat) : Nat := (x.toNat + off) % 2 ^ 64
def signedOff (o : U32) : Nat := (o.toInt % 2 ^ 64).toNat

/-- Bytes per element of the words TDEC reads (R142). -/
def decodeWidth (p : Policy) : Nat := match p.mode with
  | .masked => 4
  | _ => 8

/-- The ranges of partition addresses an operation writes. -/
def AsyncOp.writes (s : State) (p : Part) (o : AsyncOp) : List (Nat × Nat) :=
  let xg := xGet o.x
  let dst (f : SFmt) (n : Nat) : Nat × Nat := (addr (xg f.xd) (signedOff f.doff), n)
  let pol (c : BitVec 2) : Policy := (s.ctx p c.toFin).policy
  let into (f : TFmt) (n : Nat) : Nat × Nat := ((xg f.xd).toNat, n)
  match o.instr with
  | .scopy _ f => [dst f f.len.toNat]
  | .szero _ f => [dst f f.len.toNat]
  | .prg _ f => [dst f ((if f.sub = 1 then 8 else 16) * f.len.toNat)]
  | .hash _ f => [dst f 32]
  | .sample _ f => [dst f (8 * f.len.toNat)]
  | .vjoint _ f => [dst f (8 * ((pol f.ctx).gadgets + 2))]
  | .tdec _ f => [into f (8 * f.elems.toNat)]
  | .tred _ f => [into f (8 * (f.elems.toNat / 2 ^ 16 + 2))]
  | .tmerge _ f => [into f 8]
  | .tclip _ f => [into f (8 * f.elems.toNat)]
  | .tnoise _ f => [into f (8 * f.elems.toNat)]
  | .tstat _ f => [into f (48 * (f.elems.toNat / 2 ^ (pol f.ctx).statG + 1))]
  | .topt _ f => [into f (4 * ((pol f.ctx).optimizer * (pol f.ctx).stretchLen + f.elems.toNat))]
  | .tenc _ f => [into f ((pol f.ctx).formatBytes * f.elems.toNat)]
  | _ => []

/-- The ranges of partition addresses an operation reads. -/
def AsyncOp.reads (s : State) (p : Part) (o : AsyncOp) : List (Nat × Nat) :=
  let xg := xGet o.x
  let src (f : SFmt) (n : Nat) : Nat × Nat := (addr (xg f.xs) (signedOff f.soff), n)
  let pol (c : BitVec 2) : Policy := (s.ctx p c.toFin).policy
  let from_ (f : TFmt) (w : Nat) : Nat × Nat := ((xg f.xs).toNat, w * f.elems.toNat)
  match o.instr with
  | .fpadd _ f => [((xg f.xa).toNat, f.imm.toNat)]
  | .scopy _ f => [src f f.len.toNat]
  | .prg _ f => ((xg f.xc).toNat, 48) :: if 2 ≤ f.sub.toNat then o.writes s p else []
  | .hash _ f => [src f f.len.toNat]
  | .vjoint _ f => [src f 32]
  | .xmit _ f => [src f f.len.toNat]
  | .tdec _ f => [from_ f (decodeWidth (pol f.ctx))]
  | .tclip _ f => [from_ f 8, ((xg f.xc).toNat, 8)]
  | .topt _ f => [from_ f 8, ((xg f.xc).toNat, 4 * ((pol f.ctx).optimizer * (pol f.ctx).stretchLen + f.elems.toNat))]
  | .tred _ f => [from_ f 8]
  | .tmerge _ f => [from_ f 8]
  | .tnoise _ f => [from_ f 8]
  | .tstat _ f => [from_ f 8]
  | .tenc _ f => [from_ f 8]
  | _ => []

/-- Two ranges share a 64-byte line. -/
def shareLine (a b : Nat × Nat) : Bool :=
  decide (0 < a.2 ∧ 0 < b.2 ∧ a.1 / 64 ≤ (b.1 + b.2 - 1) / 64 ∧ b.1 / 64 ≤ (a.1 + a.2 - 1) / 64)

/-- The interlock: an access to a line that an operation still running touches waits. -/
def interlocked (s : State) (u : UnitId) (va len : Nat) : Bool :=
  (s.unitOf u).asyncs.any fun o => (o.reads s u.part ++ o.writes s u.part).any (shareLine (va, len))

/-- Writes of a unit's operations to one line take effect in issue order: an earlier operation still running writes a line that
the operation writes too (R191). -/
def behindWrite (s : State) (u : UnitId) (o : AsyncOp) : Bool :=
  ((s.unitOf u).asyncs.takeWhile (· != o)).any fun e => (e.writes s u.part).any fun r => (o.writes s u.part).any (shareLine r)

/-- Issue an asynchronous operation; its effect comes at ASYNC_OP_COMPLETE. (DEDUCED, log entry 46) -/
def issueAsync (u : UnitId) (sync : Bool) (e : Engine) (i : Instr) (s : State) : Out :=
  issue u sync i.wf (onUnitOf u fun x => { x with asyncs := x.asyncs ++ [⟨e, i, x.pos, x.x, x.syncs⟩] }) s

/-! ### Cluster operations (R190) -/

def allUnits (u : UnitId) : List UnitId := (List.finRange 8).map fun n => { u with unit := n }

/-- The keys of the cluster's units. -/
def eight (u : UnitId) : List Nat := (allUnits u).map fun v => State.unitKey v.die v.cluster v.unit

/-- All eight units have issued the same number of cluster operations and wait. (DEDUCED, log entry 45) -/
def clusterOpReady (s : State) (u : UnitId) : Bool :=
  (allUnits u).all fun v => (s.unitOf v).wait == .clusterOp && (s.unitOf v).clusterOps == (s.unitOf u).clusterOps

/-- A cluster operation starts when all eight units have issued it; then it completes and they resume. (DEDUCED, log entry 45) -/
def clusterOp (u : UnitId) (f : OFmt) (valid : Bool) (effect : State → State) (s : State) : Out :=
  if !unitReady s u || (f.sync && !(s.unitOf u).asyncs.isEmpty) then .next s
  else if !valid then .fault .invalidWord
  else
    let s := onUnitOf u (fun x => { x with wait := .clusterOp, clusterOps := x.clusterOps + 1 }) s
    if !clusterOpReady s u then .next s
    else
      let s := effect (meet (eight u) s)
      if (s.clusterOf u).aborted then .next s
      else .next (forAll (allUnits u) (fun v => onUnitOf v fun x => { x.next with wait := .none }) (meet (eight u) s))

/-- A status latched in all eight units, each with the index of the word in its own program. -/
def latchAll (u : UnitId) (st : Status) (s : State) : State := forAll (allUnits u) (fun v => latch v st) s

end Sys2Proof.Machine
end

