-- ==== Sys2Proof/Machine/UnitOps.lean ====
section
/-! DEFINITION. The X, V and M formats (R184 to R189): control, vectors and tiles, and the memory instructions of a unit; and
the release of its barriers. -/

namespace Sys2Proof.Machine

/-! ### Control (format X) -/

/-- NOP. -/
def execNop (u : UnitId) (f : XFmt) (s : State) : Out := issue u f.sync true id s

/-- XADD. -/
def execXadd (u : UnitId) (f : XFmt) (s : State) : Out :=
  issue u f.sync true (fun s => setX u f.xd (s.x u f.xa + s.x u f.xb + f.imm) s) s

/-- The reserved-area form of R185 names the commit list. -/
def commitListAddr (a : Nat) : Bool :=
  a / 2 ^ 56 == 0xFE && a / 2 ^ 22 % 2 ^ 34 == 0 && decide (0x180000 ≤ a % 2 ^ 22 ∧ a % 2 ^ 22 + 8 ≤ 0x190000)

/-- The load of XLD: the commit list through its reserved form, or a word of the own slice. -/
def loadX (u : UnitId) (xd : BitVec 3) (a : Nat) (s : State) : State :=
  if commitListAddr a then
    match reservedKey s u.die u.cluster (a % 2 ^ 22) with
    | some k => setX u xd (BitVec.ofNat 64 (leNat (s.bytesAt k 8))) (s.noteRead k 8)
    | none => raiseFault u a 0 .uncorrectableMemory s
  else match unitRead u true a 8 s with
    | (s, some (b, _)) => setX u xd (BitVec.ofNat 64 (leNat b)) s
    | (s, none) => s

/-- XLD. -/
def execXld (u : UnitId) (f : XFmt) (s : State) : Out :=
  let a := addr (s.x u f.xa) f.imm.toNat
  if interlocked s u a 8 then .next s else issue u f.sync true (loadX u f.xd a) s

/-- A body of `n` words enters the loop stack for `passes` passes (R187). (DEDUCED, log entry 49) -/
def pushLoop (u : UnitId) (n passes : Nat) : State → State :=
  onUnitOf u fun x =>
    if n = 0 ∨ passes = 0 then { x with pos := x.pos + n }
    else { x with loops := ⟨x.pos + 1, x.pos + n, passes⟩ :: x.loops }

/-- LOOP. (DEDUCED, log entry 49) -/
def execLoop (u : UnitId) (f : XFmt) (s : State) : Out :=
  issue u f.sync (Instr.loop u f).wf (pushLoop u f.body.toNat f.imm.toNat) s

/-- LOOPX: more passes than declared abort the beat (R187). (DEDUCED, log entry 49) -/
def execLoopx (u : UnitId) (f : XFmt) (s : State) : Out :=
  issue u f.sync true (fun s =>
    if f.imm.toNat < (s.x u f.xa).toNat then overrunCluster u.die u.cluster s
    else pushLoop u f.body.toNat (s.x u f.xa).toNat s) s

/-- MSEL. -/
def execMsel (u : UnitId) (f : XFmt) (s : State) : Out :=
  issue u f.sync ((modEntry s u (f.imm.toNat % 16)).kind != 0)
    (onWork u fun w => { w with msel := f.imm.extractLsb' 0 4 }) s

/-- WAITS. -/
def execWaits (u : UnitId) (f : XFmt) (s : State) : Out :=
  issue u f.sync true (onUnitOf u fun x => if x.asyncs.isEmpty then x else { x with wait := .asyncs }) s

/-- BARRIER. -/
def execBarrier (u : UnitId) (f : XFmt) (s : State) : Out :=
  issue u f.sync true (onUnitOf u fun x => { x with wait := .barrier, barriers := x.barriers + 1 }) s

/-- RBARRIER. -/
def execRbarrier (u : UnitId) (f : XFmt) (s : State) : Out :=
  issue u f.sync true (onUnitOf u fun x =>
    { x with wait := .rbarrier, rbarriers := x.rbarriers + 1, rmask := f.imm.extractLsb' 0 8 }) s

/-- FPADD. -/
def execFpadd (u : UnitId) (f : XFmt) (s : State) : Out := issueAsync u f.sync .fingerprint (.fpadd u f) s

/-! ### Barriers -/

/-- All eight units of a cluster have reached their k-th BARRIER. -/
def barrierMet (s : State) (d : Die) (c : Cluster) (k : Nat) : Bool :=
  (List.finRange 8).all fun u => decide (k ≤ (s.unit d c u).barriers)

/-- Every named cluster of the region has reached its k-th RBARRIER with all its units. (DEDUCED, log entry 45) -/
def rbarrierMet (s : State) (d : Die) (c : Cluster) (mask : U8) (k : Nat) : Bool :=
  (List.finRange 8).all fun j => !mask.getLsbD j.val ||
    (List.finRange 8).all fun u => decide (k ≤ (s.unit d ⟨8 * (c.val / 8) + j.val, by omega⟩ u).rbarriers)

/-- The units of a cluster whose barrier is met resume. -/
def releaseBarrier (d : Die) (c : Cluster) (s : State) : State :=
  let go := (List.finRange 8).filter fun u => (s.unit d c u).wait == .barrier && barrierMet s d c (s.unit d c u).barriers
  forAll go (fun u => State.onUnit d c u fun x => { x with wait := .none }) (meet (go.map (State.unitKey d c)) s)

/-- The units of a region whose region barrier is met resume. -/
def releaseRbarrier (d : Die) (c : Cluster) (s : State) : State :=
  let all : List (Cluster × UnitIx) := (List.finRange 8).flatMap fun j => (List.finRange 8).map fun u => (⟨8 * (c.val / 8) + j.val, by omega⟩, u)
  let go := all.filter fun (c', u) =>
    (s.unit d c' u).wait == .rbarrier && rbarrierMet s d c' (s.unit d c' u).rmask (s.unit d c' u).rbarriers
  forAll go (fun (c', u) => State.onUnit d c' u fun x => { x with wait := .none })
    (meet (go.map fun (c', u) => State.unitKey d c' u) s)

/-- R184: the last party has arrived. -/
def execBarrierRelease (p : Part) (d : Die) (c : Cluster) (region : Bool) (s : State) : Out :=
  .next (if s.ownerOf d ≠ some p then s else if region then releaseRbarrier d c s else releaseBarrier d c s)

/-! ### Vectors (format V) -/

/-- A stepped field at repetition `r` (R183). -/
def stepped (step : BitVec 4) (i start r : Nat) : Nat := start + if step.getLsbD i then r else 0

def vVd (f : VFmt) (r : Nat) : Nat := stepped f.step 0 f.vd.toNat r
def vVa (f : VFmt) (r : Nat) : Nat := stepped f.step 1 f.va.toNat r
def vVb (f : VFmt) (r : Nat) : Nat := stepped f.step 2 f.vb.toNat r
def vTile (f : VFmt) (r : Nat) : Nat := stepped f.step 3 f.tile.toNat r

/-- The MOD field names an entry that is not empty. -/
def modOk (s : State) (u : UnitId) (mod : BitVec 5) : Bool := (modEntry s u mod.toNat).kind != 0

/-- The repetitions of a V word, in order. -/
def vectorOp (u : UnitId) (f : VFmt) (one : ModEntry → Nat → State → State) (s : State) : Out :=
  issue u f.sync (f.wf && modOk s u f.mod)
    (forAll (List.range (f.rep.toNat + 1)) (one (modEntry s u f.mod.toNat))) s

/-- VD takes a function of VA; its poison is that of VA (R193). -/
def unaryOp (u : UnitId) (f : VFmt) (g : ModEntry → Nat → Nat) : State → Out :=
  vectorOp u f fun e r => onWork u fun w =>
    let a := w.reg (vVa f r)
    w.setReg (vVd f r) (VReg.ofElems e.wide ((a.elems e.wide).map (g e)) a.poison)

/-- VD takes a function of VA and VB; poison of either reaches it (R193). -/
def binaryOp (u : UnitId) (f : VFmt) (g : ModEntry → Nat → Nat → Nat) : State → Out :=
  vectorOp u f fun e r => onWork u fun w =>
    let a := w.reg (vVa f r)
    let b := w.reg (vVb f r)
    w.setReg (vVd f r) (VReg.ofElems e.wide ((a.elems e.wide).zipWith (g e) (b.elems e.wide)) (a.poison || b.poison))

/-- VADD. -/
def execVadd (u : UnitId) (f : VFmt) (s : State) : Out := binaryOp u f modAdd s
/-- VSUB. -/
def execVsub (u : UnitId) (f : VFmt) (s : State) : Out := binaryOp u f modSub s
/-- VNEG. -/
def execVneg (u : UnitId) (f : VFmt) (s : State) : Out := unaryOp u f (fun e a => modSub e 0 a) s
/-- VMOV. -/
def execVmov (u : UnitId) (f : VFmt) (s : State) : Out := unaryOp u f (fun _ a => a) s
/-- VMUL. -/
def execVmul (u : UnitId) (f : VFmt) (s : State) : Out := binaryOp u f modMul s
/-- VMULS. -/
def execVmuls (u : UnitId) (f : VFmt) (s : State) : Out := unaryOp u f (fun e a => modMul e a (immMod e f.imm)) s
/-- VRED. -/
def execVred (u : UnitId) (f : VFmt) (s : State) : Out := unaryOp u f reduce s

/-- VSPLAT: the register is clean (R193). -/
def execVsplat (u : UnitId) (f : VFmt) (s : State) : Out :=
  vectorOp u f (fun e r => onWork u fun w =>
    w.setReg (vVd f r) (VReg.ofElems e.wide (List.replicate 32 (immMod e f.imm)) false)) s

/-! ### Tiles -/

/-- TACC. (DEDUCED, log entry 48) -/
def execTacc (u : UnitId) (f : VFmt) (s : State) : Out :=
  vectorOp u f (fun e r s =>
    let a := (s.unitOf u).work.reg (vVa f r)
    putTile u e (vTile f r) (Tile.write e f.acc ((a.elems e.wide).map (reduce e)) a.poison) s) s

/-- TMAC. -/
def execTmac (u : UnitId) (f : VFmt) (s : State) : Out :=
  vectorOp u f (fun e r s =>
    let a := (s.unitOf u).work.reg (vVa f r)
    let b := (s.unitOf u).work.reg (vVb f r)
    putTile u e (vTile f r)
      (Tile.write e f.acc ((a.elems e.wide).zipWith (modMul e) (b.elems e.wide)) (a.poison || b.poison)) s) s

/-- TMACS. -/
def execTmacs (u : UnitId) (f : VFmt) (s : State) : Out :=
  vectorOp u f (fun e r s =>
    let a := (s.unitOf u).work.reg (vVa f r)
    putTile u e (vTile f r) (Tile.write e f.acc ((a.elems e.wide).map fun x => modMul e x (immMod e f.imm)) a.poison) s) s

/-- TREAD: the tile is reduced in place (R130). (DEDUCED, log entry 48) -/
def execTread (u : UnitId) (f : VFmt) (s : State) : Out :=
  vectorOp u f (fun e r => onWork u fun w =>
    let t := (w.tile (vTile f r)).reduced e
    (w.setTile (vTile f r) t).setReg (vVd f r) (VReg.ofElems e.wide (t.elems e.wide) t.poison)) s

/-- TPOIS. -/
def execTpois (u : UnitId) (f : VFmt) (s : State) : Out :=
  vectorOp u f (fun e r => putTile u e (vTile f r) fun t => { t with poison := true }) s

/-! ### Memory (format M) -/

def mVd (f : MFmt) (r : Nat) : Nat := stepped f.step 0 f.vd.toNat r
def mTile (f : MFmt) (r : Nat) : Nat := stepped f.step 3 f.tile.toNat r
/-- The address of repetition `r`. -/
def mAddr (f : MFmt) (s : State) (u : UnitId) (r : Nat) : Nat := addr (s.x u f.xa) (f.off.toNat + 128 * r)

/-- The repetitions of an M word, in order, until a fault aborts the beat; the word waits for the lines of an earlier
asynchronous operation (R191). -/
def memoryOp (u : UnitId) (f : MFmt) (valid : Bool) (one : Nat → State → State) (s : State) : Out :=
  if interlocked s u (mAddr f s u 0) (128 * (f.rep.toNat + 1)) then .next s
  else issue u f.sync valid (forAll (List.range (f.rep.toNat + 1)) fun r s => if clusterRuns s u then one r s else s) s

/-- The words of 128 bytes. -/
def VReg.ofBytes (b : Bytes) (poison : Bool) : VReg :=
  { words := Vector.ofFn fun i : Fin 32 => BitVec.ofNat 32 (fieldLE b (4 * i.val) 4), poison := poison }

def VReg.bytes (r : VReg) : Bytes := r.words.toList.flatMap fun w => leBytes 4 w.toNat

/-- LD. -/
def execLd (u : UnitId) (f : MFmt) (s : State) : Out :=
  memoryOp u f (Instr.ld u f).wf (fun r s =>
    match unitRead u true (mAddr f s u r) 128 s with
    | (s, some (b, p)) => onWork u (fun w => w.setReg (mVd f r) (VReg.ofBytes b p)) s
    | (s, none) => s) s

/-- ST. -/
def execSt (u : UnitId) (f : MFmt) (s : State) : Out :=
  memoryOp u f (Instr.st u f).wf (fun r s =>
    let v := (s.unitOf u).work.reg (mVd f r)
    unitWrite u true (mAddr f s u r) v.bytes v.poison s) s

/-- TLD. (DEDUCED, log entry 48) -/
def execTld (u : UnitId) (f : MFmt) (s : State) : Out :=
  let e := modEntry s u f.mod.toNat
  memoryOp u f ((Instr.tld u f).wf && modOk s u f.mod) (fun r s =>
    match unitRead u true (mAddr f s u r) 128 s with
    | (s, some (b, p)) =>
      putTile u e (mTile f r) (Tile.write e f.acc (((VReg.ofBytes b p).elems e.wide).map (reduce e)) p) s
    | (s, none) => s) s

/-- TST: the tile is reduced in place (R130). (DEDUCED, log entry 48) -/
def execTst (u : UnitId) (f : MFmt) (s : State) : Out :=
  let e := modEntry s u f.mod.toNat
  memoryOp u f ((Instr.tst u f).wf && modOk s u f.mod) (fun r s =>
    let t := ((s.unitOf u).work.tile (mTile f r)).reduced e
    unitWrite u true (mAddr f s u r) (VReg.ofElems e.wide (t.elems e.wide) t.poison).bytes t.poison
      (onWork u (fun w => w.setTile (mTile f r) t) s)) s

end Sys2Proof.Machine
end

