-- ==== Sys2Proof/Machine/Streams.lean ====
section
/-! DEFINITION. The S format (R184, R191 to R193): the stream instructions issue here, and their effects, which
ASYNC_OP_COMPLETE makes. -/

namespace Sys2Proof.Machine

/-! ### Issue -/

def execScopy (u : UnitId) (f : SFmt) (s : State) : Out := issueAsync u f.sync .crossbar (.scopy u f) s
def execSzero (u : UnitId) (f : SFmt) (s : State) : Out := issueAsync u f.sync .crossbar (.szero u f) s
/-- A PRG, HASH or SAMPLE of length zero completes at once. -/
def execPrg (u : UnitId) (f : SFmt) (s : State) : Out :=
  if f.len = 0 then issue u f.sync true id s else issueAsync u f.sync .aes (.prg u f) s
def execHash (u : UnitId) (f : SFmt) (s : State) : Out :=
  if f.len = 0 then issue u f.sync true id s else issueAsync u f.sync .fingerprint (.hash u f) s
def execVjoint (u : UnitId) (f : SFmt) (s : State) : Out := issueAsync u f.sync .aes (.vjoint u f) s
def execXmit (u : UnitId) (f : SFmt) (s : State) : Out := issueAsync u f.sync .port (.xmit u f) s

/-- The release instance of a context can serve a draw (R320, R322). (DEDUCED, log entry 53) -/
def drawsServed (s : State) (p : Part) (k : Ctx) : Bool :=
  (s.ctx p k).release.key.isSome && s.rng.phase == .healthy

/-- Step 2 of the round's finalize runs (R40): the release pipeline may write staging. -/
def RoundCtx.inStepTwo (c : RoundCtx) : Bool := c.phase == .finalizing && c.finStep == .pipeline

/-- A consumer whose draw is refused does not issue: the unit waits for the commit window (R192). (DEDUCED, log entry 53) -/
def refuseDraw (u : UnitId) (k : Ctx) (s : State) : State :=
  latch u .entropyFail (onUnitOf u (fun x => { x with wait := .entropy })
    (State.onCtx u.part k (fun c => { c with finStalled := c.phase == .finalizing }) s))

/-- An instruction that draws: it issues, or is refused. A FREE context draws nothing (R192). (DEDUCED, log entry 53) -/
def issueDraw (u : UnitId) (sync : Bool) (k : Ctx) (draws : Bool) (go : State → Out) (s : State) : Out :=
  if !unitReady s u || (sync && !(s.unitOf u).asyncs.isEmpty) then .next s
  else if draws && (s.ctx u.part k).phase != .free && !drawsServed s u.part k then .next (refuseDraw u k s)
  else go s

def execSample (u : UnitId) (f : SFmt) (s : State) : Out :=
  if f.len = 0 then issue u f.sync true id s
  else issueDraw u f.sync f.ctx.toFin true (issueAsync u f.sync .sampler (.sample u f)) s

/-! ### Effects -/

def srcOf (o : AsyncOp) (f : SFmt) : Nat := addr (xGet o.x f.xs) (signedOff f.soff)
def dstOf (o : AsyncOp) (f : SFmt) : Nat := addr (xGet o.x f.xd) (signedOff f.doff)

/-- A write of an engine, while the cluster's beat has not aborted. -/
def engineWrite (u : UnitId) (va : Nat) (b : Bytes) (poison : Bool) (s : State) : State :=
  if clusterRuns s u then unitWrite u false va b poison s else s

/-- What a beat adds to a context (R153, R320): the counters rise, and the cluster can take it back. (DEDUCED, log entry 100) -/
def addDelta (u : UnitId) (d : CtxDelta) (s : State) : State :=
  State.onCluster u.die u.cluster (fun r => { r with deltas := r.deltas ++ [d] })
    (State.onCtx u.part d.ctx (fun c => { c with
      tal := { c.tal with
        saturated := min (c.tal.saturated + d.saturated) 0xFFFFFFFF,
        samples := c.tal.samples + d.samples, samplerRetry := min (c.tal.samplerRetry + d.retry) 0xFFFFFFFF,
        cover := c.tal.cover ++ d.cover },
      shared := { c.shared with expandBytes := c.shared.expandBytes + d.expand },
      release := { c.release with nextIndex := vupd c.release.nextIndex d.kind (· + d.indices) } }) s)

/-- FPADD: the range joins the beat's fingerprint (R261). -/
def fpaddEffect (u : UnitId) (o : AsyncOp) (f : XFmt) (s : State) : State :=
  let va := (xGet o.x f.xa).toNat
  match unitRead u false va f.imm.toNat s with
  | (s, some _) => onUnitOf u (fun x => { x with fpRanges := x.fpRanges ++ [(va, f.imm.toNat)] }) s
  | (s, none) => s

/-- SCOPY: line by line, with the poison marks (R193). -/
def scopyEffect (u : UnitId) (o : AsyncOp) (f : SFmt) (s : State) : State :=
  let src := srcOf o f
  let dst := dstOf o f
  match unitRead u false src f.len.toNat s with
  | (s, none) => s
  | (s, some (b, false)) => engineWrite u dst b false s
  | (s, some (b, true)) =>
    forAll (List.range (ceilDiv b.length 64)) (fun i t =>
      let part := (b.drop (64 * i)).take 64
      engineWrite u (dst + 64 * i) part (poisonVA s u.part (src + 64 * i) part.length 0) t) s

/-- SZERO. -/
def szeroEffect (u : UnitId) (o : AsyncOp) (f : SFmt) (s : State) : State :=
  engineWrite u (dstOf o f) (zeroBytes f.len.toNat) false s

/-- A keystream block of PRG (R47, R72). -/
def prgBlock (key : U256) (ctr i : Nat) : Bytes := Crypto.aes key (beBytes 16 ((ctr + i) % 2 ^ 128))

/-- A keystream block as a field element (R72). -/
def blockElem (b : Bytes) : Nat := leNat b % goldilocks

/-- Words of two byte strings combined modulo 2^32. -/
def wordsWith (g : Nat → Nat → Nat) (a b : Bytes) : Bytes :=
  (List.range (a.length / 4)).flatMap fun i => leBytes 4 (g (fieldLE a (4 * i) 4) (fieldLE b (4 * i) 4))

/-- PRG. (DEDUCED, log entry 100) -/
def prgEffect (u : UnitId) (o : AsyncOp) (f : SFmt) (s : State) : State :=
  let dst := dstOf o f
  let n := f.len.toNat
  match unitRead u false (xGet o.x f.xc).toNat 48 s with
  | (s, none) => s
  | (s, some (kb, p)) =>
    let key := Crypto.of256 kb
    let ctr := beNat (kb.drop 32)
    let stream := (List.range n).map (prgBlock key ctr)
    let s := when (f.sub == 1 && (s.ctx u.part f.ctx.toFin).phase != .free && (s.ctx u.part f.ctx.toFin).policy.mode == .shared) (addDelta u { ctx := f.ctx.toFin, expand := 16 * n }) s
    let finish (p : Bool) (b : Bytes) (s : State) : State :=
      engineWrite u dst b p (if p then latchStatusAt u .poisonedInput o.index s else s)
    if f.sub = 0 then finish p stream.flatten s
    else if f.sub = 1 then finish p (stream.flatMap fun b => leBytes 8 (blockElem b)) s
    else match unitRead u false dst (16 * n) s with
      | (s, none) => s
      | (s, some (old, q)) =>
        let g : Nat → Nat → Nat := if f.sub = 2 then fun a b => a + 2 ^ 32 - b else fun a b => a + b
        finish (p || q) (wordsWith g old stream.flatten) s

/-- HASH. -/
def hashEffect (u : UnitId) (o : AsyncOp) (f : SFmt) (s : State) : State :=
  match unitRead u false (srcOf o f) f.len.toNat s with
  | (s, none) => s
  | (s, some (b, p)) =>
    engineWrite u (dstOf o f) (Crypto.bytes256 (Crypto.sha256 b)) p (if p then latchStatusAt u .poisonedInput o.index s else s)

/-- Draws of one kind from index `i` on: the values and the repeated attempts. -/
def drawRun (c : RoundCtx) (kind i n : Nat) : List Int × Nat :=
  match c.release.key with
  | none => (List.replicate n 0, 0)
  | some key =>
    let q := c.policy
    let (num, den) := if kind = 1 then (256, 25) else (q.sigmaNum, q.sigmaDen)
    let l := (List.range n).map fun j => drawValue key (i + j) kind num den q.floodBits
    (l.map (·.1), (l.map (·.2)).sum)

/-- A 64-bit two's-complement integer. -/
def intBytes (z : Int) : Bytes := leBytes 8 (z % 2 ^ 64).toNat

/-- SAMPLE: the context's next LEN indices of the kind. -/
def sampleEffect (u : UnitId) (o : AsyncOp) (f : SFmt) (s : State) : State :=
  let k : Ctx := f.ctx.toFin
  let c := s.ctx u.part k
  if c.phase = .free then latchStatusAt u .invalidState o.index s
  else if c.release.key.isNone then s
  else
    let n := f.len.toNat
    let (l, retry) := drawRun c f.sub.toNat c.release.nextIndex[f.sub.toFin] n
    addDelta u { ctx := k, samples := n, retry := retry, kind := f.sub.toFin, indices := n }
      (engineWrite u (dstOf o f) (l.flatMap intBytes) false s)

/-! ### Joint randomness (R72, R73) -/

/-- An element of the expansion of S*: the keystream block under domain 0x10. -/
def jointElem (seed : U256) (roundId contrib q : Nat) : Nat :=
  blockElem (Crypto.aes seed (beBytes 8 roundId ++ beBytes 3 contrib ++ [0x10] ++ beBytes 4 q))

/-- The query point: the first element from block `q` on that is no root of the 2D domain, with the blocks tried. -/
def queryPoint (seed : U256) (roundId contrib d : Nat) : Nat → Nat → Nat → Nat × Nat
  | 0, _, n => (0, n)
  | fuel + 1, q, n =>
    let t := jointElem seed roundId contrib q
    if Crypto.powMod goldilocks 64 t (2 * d) ≠ 1 then (t, n + 1) else queryPoint seed roundId contrib d fuel (q + 1) (n + 1)

/-- r_1 to r_(L+1), then t; and the blocks expanded. -/
def jointRandomness (p : Policy) (seed : U256) (contrib : Nat) : List Nat × Nat :=
  let r := (List.range (p.gadgets + 1)).map (jointElem seed p.roundId contrib)
  let t := queryPoint seed p.roundId contrib p.domain (2 ^ 32) (p.gadgets + 1) 0
  (r ++ [t.1], p.gadgets + 1 + t.2)

/-- VJOINT: the contributor is in X[XC]. (DEDUCED, log entry 50; DEDUCED, log entry 100) -/
def vjointEffect (u : UnitId) (o : AsyncOp) (f : SFmt) (s : State) : State :=
  let k : Ctx := f.ctx.toFin
  let c := s.ctx u.part k
  if c.phase = .free then latchStatusAt u .invalidState o.index s
  else match unitRead u false (srcOf o f) 32 s with
    | (s, none) => s
    | (s, some (b, p)) =>
      let (l, n) := jointRandomness c.policy (Crypto.of256 b) ((xGet o.x f.xc).toNat % 2 ^ 24)
      engineWrite u (dstOf o f) (l.flatMap (leBytes 8)) p
        (addDelta u { ctx := k, expand := 16 * n } (if p then latchStatusAt u .poisonedInput o.index s else s))

/-! ### XMIT (R243) -/

/-- Why the data of an XMIT stays unsent: the connection is DRAINING (R231) or in ERROR (R246), or the page's key generation is
stale (R242, R284). -/
def xmitRefused (s : State) (n : Nat) : Option Status :=
  let c := s.conn n
  if c.state = .draining then some .flushed
  else if c.state = .error then some .remoteNak
  else if !sealable s n then some .partitionGone
  else none

/-- XMIT: one sealed XFER message on a fabric connection of the partition; an abort of the beat cancels it. -/
def xmitEffect (u : UnitId) (o : AsyncOp) (f : SFmt) (s : State) : State :=
  let n := (xGet o.x f.xc).toNat % 2 ^ 24
  match unitRead u false (srcOf o f) f.len.toNat s with
  | (s, none) => s
  | (s, some (b, _)) =>
    if !fabricConn s u.part n then s
    else
      let m := (s.conn n).txMsg
      let t := sendFabric u.part n (signedOff f.doff) b (match xmitRefused s n with
        | some st => latchStatusAt u st o.index s
        | none => s)
      when ((t.conn n).txMsg != m) (State.onCluster u.die u.cluster fun r => { r with sent := r.sent ++ [(n, m)] }) t

end Sys2Proof.Machine
end

