-- ==== Sys2Proof/Machine/Tally.lean ====
section
/-! DEFINITION. The T format (R184) and the release pipeline it runs (R136 to R149): decode, reductions, clip-scale, noise,
statistics, optimizer and encode, over the staging area of the named context. -/

namespace Sys2Proof.Machine

/-! ### Issue -/

def execTdec (u : UnitId) (f : TFmt) (s : State) : Out := issueAsync u f.sync .tally (.tdec u f) s
def execTred (u : UnitId) (f : TFmt) (s : State) : Out := issueAsync u f.sync .tally (.tred u f) s
def execTmerge (u : UnitId) (f : TFmt) (s : State) : Out := issueAsync u f.sync .tally (.tmerge u f) s
def execTclip (u : UnitId) (f : TFmt) (s : State) : Out := issueAsync u f.sync .tally (.tclip u f) s
/-- TNOISE draws where its round has NOISE set, and is refused as a SAMPLE is (R322). -/
def execTnoise (u : UnitId) (f : TFmt) (s : State) : Out :=
  issueDraw u f.sync f.ctx.toFin (s.ctx u.part f.ctx.toFin).policy.stepNoise (issueAsync u f.sync .tally (.tnoise u f)) s
def execTstat (u : UnitId) (f : TFmt) (s : State) : Out := issueAsync u f.sync .tally (.tstat u f) s
def execTopt (u : UnitId) (f : TFmt) (s : State) : Out := issueAsync u f.sync .tally (.topt u f) s
def execTenc (u : UnitId) (f : TFmt) (s : State) : Out := issueAsync u f.sync .tally (.tenc u f) s

/-! ### The staging area (R27, R167) -/

/-- The offset of a range that lies in the staging area of a context's round. (DEDUCED, log entry 52) -/
def stageOff (s : State) (p : Part) (k : Ctx) (va len : Nat) : Option Nat := match layoutOf s p k with
  | some r => if r.stageVA ≤ va ∧ va + len ≤ r.stageVA + r.stageBytes then some (va - r.stageVA) else none
  | none => none

/-- A tally read: staging, or partition memory through translation. -/
def tallyRead (u : UnitId) (k : Ctx) (va len : Nat) (s : State) : State × Option (Bytes × Bool) :=
  match stageOff s u.part k va len with
  | some off =>
    let (t, b) := unitBytes u (stageKey u.part.val k.val off) len s
    (t, some (b, s.poisonedAt (stageKey u.part.val k.val off) len))
  | none => unitRead u false va len s

/-- A tally write: into the staging area, else the beat aborts (R192). -/
def tallyWrite (u : UnitId) (k : Ctx) (va : Nat) (b : Bytes) (s : State) : State :=
  if !clusterRuns s u then s
  else match stageOff s u.part k va b.length with
    | some off => unitStore u (stageKey u.part.val k.val off) b false s
    | none => raiseFault u va 1 .accessDenied s

/-- A poisoned input is an uncorrectable error of step 2 (R142, R150, R193); its boundary acts on it. -/
def tallyPoison (u : UnitId) (k : Ctx) : State → State :=
  State.onCtx u.part k fun c => { c with tal := { c.tal with errorDue := true } }

/-- A tally operation on a context that holds a round (R192): it reads `len` bytes at X[XS] and goes on when they are clean. Outside
step 2 of the round's finalize it does nothing: the staging is sealed, and the counters cover step 2 (R151, R153).
(DESIGN CHOICE, log entry 168) -/
def tallyOp (u : UnitId) (o : AsyncOp) (f : TFmt) (len : Policy → Nat) (body : Policy → Bytes → State → State) (s : State) :
    State :=
  let k : Ctx := f.ctx.toFin
  let c := s.ctx u.part k
  if c.phase = .free then latchStatusAt u .invalidState o.index s
  else if !c.inStepTwo then s
  else match tallyRead u k (xGet o.x f.xs).toNat (len c.policy) s with
    | (s, none) => s
    | (s, some (_, true)) => tallyPoison u k s
    | (s, some (b, false)) => body c.policy b s

/-- The FP64 values of a byte string. -/
def f64s (b : Bytes) : List Nat := (List.range (b.length / 8)).map fun i => fieldLE b (8 * i) 8

def f64Bytes (l : List Nat) : Bytes := l.flatMap (leBytes 8)

/-- The write of an operation's result at X[XD], with what it adds to the context. -/
def tallyResult (u : UnitId) (o : AsyncOp) (f : TFmt) (b : Bytes) (d : CtxDelta) (s : State) : State :=
  let s := tallyWrite u f.ctx.toFin (xGet o.x f.xd).toNat b s
  if clusterRuns s u then addDelta u d s else s

def stepDone (f : TFmt) (step : Nat) : CtxDelta := { ctx := f.ctx.toFin, cover := [(step, f.first.toNat, f.elems.toNat)] }

/-! ### Decode (R61, R83, R142) -/

/-- A signed reading of a 32-bit word. -/
def signed32 (n : Nat) : Int := if n < 2 ^ 31 then n else (n : Int) - 2 ^ 32

/-- R83. -/
def liftElem (p : Policy) (v : Nat) : Int :=
  if p.circuit = 2 ∧ (goldilocks - 1) / 2 < v then (v : Int) - goldilocks else v

/-- A floating-point value times 2^(−f). -/
def fpScale (f : Nat) : Fp → Fp
  | .fin n m e => .fin n m (e - f)
  | x => x

/-- The decoded value of one stored word. -/
def decodeElem (p : Policy) (w : Nat) : Nat :=
  match p.mode with
  | .masked => (Fp.ofInt (signed32 w) p.decodeF).toBits fp64
  | .shared => (Fp.ofInt (liftElem p w) p.decodeF).toBits fp64
  | .encrypted => if p.combine then (fpScale p.decodeF (Fp.ofBits fp64 w)).toBits fp64 else Config.sumDecode w % 2 ^ 64

def tdecEffect (u : UnitId) (o : AsyncOp) (f : TFmt) (s : State) : State :=
  tallyOp u o f (fun p => decodeWidth p * f.elems.toNat) (fun p b =>
    let w := decodeWidth p
    tallyResult u o f (f64Bytes ((List.range f.elems.toNat).map fun i => decodeElem p (fieldLE b (w * i) w))) (stepDone f 1)) s

/-! ### Reductions (R136, R137) -/

/-- A list cut into runs of `r`. -/
def runsOf {α : Type} (r : Nat) : Nat → List α → List (List α)
  | 0, _ => []
  | fuel + 1, l => if l.isEmpty then [] else l.take r :: runsOf r fuel (l.drop r)

/-- The FP32 sum of a run, from its first term on. (DEDUCED, log entry 51) -/
def runSum (l : List Nat) : Nat := match l with
  | [] => 0
  | a :: t => t.foldl (fadd fp32) a

/-- What the runs of a chain add to its total, in order (R136): with R = 1 the FP64 terms, else the FP32 sum of each run. -/
def runSums (r : Nat) (sq : Bool) (l : List Nat) : List Nat :=
  if r = 1 then l.map fun x => if sq then fmul fp64 x x else x
  else (runsOf r l.length l).map fun run => fconv fp32 fp64 (runSum (run.map fun x =>
    let y := fconv fp64 fp32 x
    if sq then fmul fp32 y y else y))

/-- A chain's FP64 total. -/
def chainTotal (r : Nat) (sq : Bool) (l : List Nat) : Nat := (runSums r sq l).foldl (fadd fp64) 0

/-- The tile shape W. -/
def shapeWidth (p : Policy) : Nat := if p.mode = .shared then 16 else 32

/-- The elements of column `c` of a block. -/
def columnOf {α : Type} (w c : Nat) (l : List α) : List α :=
  (List.range ((l.length + w - 1 - c) / w)).flatMap fun i => (l.drop (w * i + c)).take 1

/-- T[c] + T[c + h] for h = W/2, W/4, …, 1. -/
def foldHalves {α : Type} (op : α → α → α) : Nat → List α → List α
  | 0, l => l
  | n + 1, l => if l.length ≤ 1 then l else foldHalves op n ((l.take (l.length / 2)).zipWith op (l.drop (l.length / 2)))

/-- Neighbours combined, a last unpaired one carried up. -/
def pairLevel {α : Type} (op : α → α → α) : List α → List α
  | a :: b :: t => op a b :: pairLevel op t
  | l => l

/-- Level by level until one is left. -/
def pairAll {α : Type} (op : α → α → α) : Nat → List α → List α
  | 0, l => l
  | n + 1, l => if l.length ≤ 1 then l else pairAll op n (pairLevel op l)

/-- The total of a block of SHAPE. (DEDUCED, log entry 51) -/
def blockTotal (p : Policy) (sq : Bool) (l : List Nat) : Nat :=
  let w := shapeWidth p
  (foldHalves (fadd fp64) 6 ((List.range w).map fun c => chainTotal p.runLen sq (columnOf w c l))).headD 0

/-- Elements per block of SHAPE. -/
def blockSize : Nat := 65536

/-- A group cut at its blocks. -/
def blocksOf {α : Type} (l : List α) : List (List α) := runsOf blockSize l.length l

/-- The partial totals of whole runs or blocks of a group: one per run of the chain of SEQ, one per block of SHAPE. -/
def wholeTotals (p : Policy) (sq : Bool) (l : List Nat) : List Nat :=
  if p.seqOrder then runSums p.runLen sq l else (blocksOf l).map (blockTotal p sq)

/-- Partial totals combined in the fixed order. -/
def mergeTotals (p : Policy) (l : List Nat) : Nat :=
  if p.seqOrder then l.foldl (fadd fp64) 0 else (pairAll (fadd fp64) 64 l).headD 0

/-- The reduction of a whole group. -/
def reduceGroup (p : Policy) (sq : Bool) (l : List Nat) : Nat := mergeTotals p (wholeTotals p sq l)

/-- Elements that one partial total covers. -/
def partialSpan (p : Policy) : Nat := if p.seqOrder then p.runLen else blockSize

/-- The partial totals of a range of the whole stretch from element `first` on. The spec states a total for whole runs and blocks
alone: what a range that cuts one writes is free. (DEDUCED, log entry 51; DESIGN CHOICE, log entry 169) -/
def partialTotals (p : Policy) (sq : Bool) (first : Nat) (l : List Nat) : List Nat :=
  let n := partialSpan p
  if first % n = 0 ∧ (l.length % n = 0 ∨ p.stretchLen ≤ first + l.length) then wholeTotals p sq l
  else (List.range (ceilDiv (first + l.length) n - first / n)).map fun i => Config.partialTotal first l i % 2 ^ 64

/-- (DEDUCED, log entry 51) -/
def tredEffect (u : UnitId) (o : AsyncOp) (f : TFmt) (s : State) : State :=
  tallyOp u o f (fun _ => 8 * f.elems.toNat) (fun p b =>
    tallyResult u o f (f64Bytes (partialTotals p f.sq f.first.toNat (f64s b))) { ctx := f.ctx.toFin }) s

def tmergeEffect (u : UnitId) (o : AsyncOp) (f : TFmt) (s : State) : State :=
  tallyOp u o f (fun _ => 8 * f.elems.toNat) (fun p b =>
    tallyResult u o f (leBytes 8 (mergeTotals p (f64s b))) { ctx := f.ctx.toFin }) s

/-! ### Clip-scale (R143) -/

/-- 1 as FP64 and as FP32. -/
def one64 : Nat := 0x3FF0000000000000
def one32 : Nat := 0x3F800000

/-- c, from the sum of squares. -/
def clipFactor (p : Policy) (total : Nat) : Nat :=
  let n := fsqrt fp64 total
  if p.stepClip ∧ fgt fp64 n p.clipNorm.toNat then fdiv fp64 p.clipNorm.toNat n else one64

/-- s, with the included count. -/
def scaleFactor (p : Policy) (included : Nat) : Nat :=
  if p.gscaleMode = 1 then fdiv fp64 p.gscale.toNat (f64OfNat included) else p.gscale.toNat

def tclipEffect (u : UnitId) (o : AsyncOp) (f : TFmt) (s : State) : State :=
  let k : Ctx := f.ctx.toFin
  tallyOp u o f (fun _ => 8 * f.elems.toNat) (fun p b s =>
    let go (total : Nat) (s : State) : State :=
      let c := clipFactor p total
      let g := scaleFactor p (s.ctx u.part k).included
      tallyResult u o f (f64Bytes ((f64s b).map fun v => fmul fp64 (fmul fp64 v c) g)) (stepDone f 2) s
    if !p.stepClip then go 0 s
    else match tallyRead u k (xGet o.x f.xc).toNat 8 s with
      | (s, none) => s
      | (s, some (_, true)) => tallyPoison u k s
      | (s, some (t, false)) => go (leNat t) s) s

/-! ### Noise (R144, R320) -/

/-- (DEDUCED, log entry 52) -/
def tnoiseEffect (u : UnitId) (o : AsyncOp) (f : TFmt) (s : State) : State :=
  let k : Ctx := f.ctx.toFin
  tallyOp u o f (fun _ => 8 * f.elems.toNat) (fun p b s =>
    if !p.stepNoise then tallyResult u o f b (stepDone f 3) s
    else if (s.ctx u.part k).release.key.isNone then s
    else
      let v := f64s b
      let (z, retry) := drawRun (s.ctx u.part k) 0 f.first.toNat v.length
      tallyResult u o f (f64Bytes (v.zipWith (fun v z => (Fp.add (Fp.ofBits fp64 v) (Fp.ofInt z p.decodeF)).toBits fp64) z))
        { stepDone f 3 with samples := v.length, retry := retry } s) s

/-! ### Statistics (R138, R145) -/

/-- A Welford chain: the count, and m and M2 as FP64. -/
structure Welford where
  n : Nat := 0
  m : Nat := 0
  m2 : Nat := 0
  deriving DecidableEq, Repr

def Welford.update (a : Welford) (x : Nat) : Welford :=
  let n := a.n + 1
  let d := fsub fp64 x a.m
  let m := fadd fp64 a.m (fdiv fp64 d (f64OfNat n))
  ⟨n, m, fadd fp64 a.m2 (fmul fp64 d (fsub fp64 x m))⟩

def Welford.merge (a b : Welford) : Welford :=
  if a.n = 0 then b
  else if b.n = 0 then a
  else
    let n := a.n + b.n
    let d := fsub fp64 b.m a.m
    let n64 := f64OfNat n
    ⟨n, fadd fp64 a.m (fmul fp64 d (fdiv fp64 (f64OfNat b.n) n64)),
      fadd fp64 (fadd fp64 a.m2 b.m2)
        (fmul fp64 (fmul fp64 d d) (fdiv fp64 (fmul fp64 (f64OfNat a.n) (f64OfNat b.n)) n64))⟩

def welfordBlock (p : Policy) (l : List Nat) : Welford :=
  let w := shapeWidth p
  (foldHalves Welford.merge 6 ((List.range w).map fun c => (columnOf w c l).foldl Welford.update {})).headD {}

def welfordGroup (p : Policy) (l : List Nat) : Welford :=
  if p.seqOrder then l.foldl Welford.update {} else (pairAll Welford.merge 64 ((blocksOf l).map (welfordBlock p))).headD {}

/-- The FP64 fields of a group's record, in order. -/
def statFields (p : Policy) (l : List Nat) : List Nat :=
  let w := welfordGroup p l
  let sumsq := reduceGroup p true l
  [reduceGroup p false l, sumsq, w.m, fdiv fp64 w.m2 (f64OfNat w.n), fsqrt fp64 sumsq]

/-- The groups that begin in a range of the stretch, as offsets from its first element and sizes. -/
def groupsIn (p : Policy) (first n : Nat) : List (Nat × Nat) :=
  let g := 2 ^ p.statG
  (List.range (ceilDiv (first + n) g - ceilDiv first g)).filterMap fun i =>
    let start := (ceilDiv first g + i) * g
    if start < p.stretchLen then some (start - first, min g (p.stretchLen - start)) else none

/-- The elements the records of a range need, from its first one on. -/
def statSpan (p : Policy) (first n : Nat) : Nat := (groupsIn p first n).foldl (fun m g => max m (g.1 + g.2)) n

/-- (DEDUCED, log entry 52) -/
def tstatEffect (u : UnitId) (o : AsyncOp) (f : TFmt) (s : State) : State :=
  let first := f.first.toNat
  tallyOp u o f (fun p => if p.stepStats then 8 * statSpan p first f.elems.toNat else 0) (fun p b s =>
    if !p.stepStats then s
    else
      let recs := (groupsIn p first f.elems.toNat).map fun g => (g.2, statFields p ((f64s b).drop g.1 |>.take g.2))
      tallyResult u o f (recs.flatMap fun r => leBytes 8 r.1 ++ f64Bytes r.2) (stepDone f 4) s) s

/-! ### The optimizer (R146) -/

/-- β^k in FP64, by square-and-multiply from the most significant bit of k on; `n` bits are left. -/
def powBits (beta k : Nat) : Nat → Nat → Nat
  | 0, r => r
  | n + 1, r =>
    let r := fmul fp64 r r
    powBits beta k n (if k.testBit n then fmul fp64 r beta else r)

/-- FP32(1 − β^k). -/
def biasCorrection (beta : U32) (k : Nat) : Nat :=
  let b := fconv fp32 fp64 beta.toNat
  fconv fp64 fp32 (fsub fp64 one64 (powBits b k (bitLen k) one64))

/-- One element: the gradient and the state arrays' values to the new state. -/
def optElem (p : Policy) (g : Nat) (st : List Nat) : List Nat :=
  let w := st.getD 0 0
  let lr := p.lr.toNat
  match p.optimizer with
  | 0 => [fsub fp32 w (fmul fp32 lr g)]
  | 1 =>
    let m := fadd fp32 (fmul fp32 p.beta1.toNat (st.getD 1 0)) g
    [fsub fp32 w (fmul fp32 lr m), m]
  | _ =>
    let b1 := p.beta1.toNat
    let b2 := p.beta2.toNat
    let m := fadd fp32 (fmul fp32 b1 (st.getD 1 0)) (fmul fp32 (fsub fp32 one32 b1) g)
    let v := fadd fp32 (fmul fp32 b2 (st.getD 2 0)) (fmul fp32 (fsub fp32 one32 b2) (fmul fp32 g g))
    let a := fdiv fp32 m (biasCorrection p.beta1 p.optStep)
    let u := fdiv fp32 a (fadd fp32 (fsqrt fp32 (fdiv fp32 v (biasCorrection p.beta2 p.optStep))) p.epsilon.toNat)
    [fsub fp32 w (fmul fp32 lr u), m, v]

/-- Read one after the other; the last answer tells whether all were read clean. -/
def tallyReads (u : UnitId) (k : Ctx) : List (Nat × Nat) → State → State × Option (List Bytes × Bool)
  | [], s => (s, some ([], false))
  | (va, len) :: t, s => match tallyRead u k va len s with
    | (s, none) => (s, none)
    | (s, some (b, p)) => match tallyReads u k t s with
      | (s, none) => (s, none)
      | (s, some (l, q)) => (s, some (b :: l, p || q))

/-- TOPT: array a of the state is at X[XC] + 4 · STRETCH_LEN · a, and of the new state at X[XD] the same.
(DEDUCED, log entry 52) -/
def toptEffect (u : UnitId) (o : AsyncOp) (f : TFmt) (s : State) : State :=
  let k : Ctx := f.ctx.toFin
  let n := f.elems.toNat
  tallyOp u o f (fun _ => 8 * n) (fun p b s =>
    if !p.stepOpt then s
    else match tallyReads u k ((List.range p.optArrays).map fun a => ((xGet o.x f.xc).toNat + 4 * p.stretchLen * a, 4 * n)) s with
      | (s, none) => s
      | (s, some (_, true)) => tallyPoison u k s
      | (s, some (st, false)) =>
        let out := (List.range n).map fun i =>
          optElem p (fconv fp64 fp32 (fieldLE b (8 * i) 8)) (st.map fun a => fieldLE a (4 * i) 4)
        let s := forAll (List.range p.optArrays) (fun a =>
          tallyWrite u k ((xGet o.x f.xd).toNat + 4 * p.stretchLen * a) (out.flatMap fun e => leBytes 4 (e.getD a 0))) s
        if clusterRuns s u then addDelta u (stepDone f 5) s else s) s

/-! ### Encode (R147, R148) -/

/-- The encoded element, whether an INT32 conversion found it not finite, and whether it saturated. -/
def encodeElem (p : Policy) (v : Nat) : Bytes × Bool × Bool :=
  let fmt (F : FpFormat) (w : Nat) : Bytes × Bool × Bool := (leBytes w (fconv fp64 F v), false, false)
  match p.format with
  | 0x01 => fmt fp32 4
  | 0x02 => fmt fp64 8
  | 0x03 => fmt bf16 2
  | 0x04 => fmt fp16 2
  | _ => match Fp.ofBits fp64 v with
    | .fin n m e =>
      let z := Fp.roundInt n m (e + p.outF)
      let w := max (-2 ^ 31) (min (2 ^ 31 - 1) z)
      (leBytes 4 (w % 2 ^ 32).toNat, false, w != z)
    | _ => (leBytes 4 0x80000000, true, false)

def tencEffect (u : UnitId) (o : AsyncOp) (f : TFmt) (s : State) : State :=
  tallyOp u o f (fun _ => 8 * f.elems.toNat) (fun p b s =>
    if p.isSum then s
    else
      let out := (f64s b).map (encodeElem p)
      let bad := (List.range out.length).filter fun i => (out.getD i ([], false, false)).2.1
      tallyResult u o f (out.flatMap (·.1))
        { stepDone f 6 with
          cover := (6, f.first.toNat, f.elems.toNat) :: bad.map fun i => (8, f.first.toNat + i, 1)
          saturated := (out.filter (·.2.2)).length } s) s

/-! ### Progress (R153, R419) -/

/-- The ranges cover [0, n). -/
def covered (l : List (Nat × Nat)) : Nat → Nat → Nat → Bool
  | 0, at_, n => decide (n ≤ at_)
  | fuel + 1, at_, n => match l.find? fun r => decide (r.1 ≤ at_ ∧ at_ < r.1 + r.2) with
    | some r => covered l fuel (r.1 + r.2) n
    | none => decide (n ≤ at_)

/-- A step has covered its elements. -/
def stepCovered (c : RoundCtx) (step : Nat) : Bool :=
  let l := (c.tal.cover.filter fun r => r.1 == step).map (·.2)
  covered l (l.length + 1) 0 (if c.policy.isSum then c.policy.ctCount else c.policy.stretchLen)

/-- STEP: the last step completed, every enabled one before it with it. -/
def talStep (c : RoundCtx) : Nat :=
  let p := c.policy
  if p.isSum then if stepCovered c 6 then 6 else 0
  else
    let need : List (Nat × Bool) := [(1, true), (2, true), (3, p.stepNoise), (4, p.stepStats), (5, p.stepOpt), (6, !p.omitAgg)]
    let ok := need.takeWhile fun e => !e.2 || stepCovered c e.1
    if ok.length = 6 then 6 else ((ok.filter (·.2)).map (·.1)).foldl max 0

end Sys2Proof.Machine
end

