-- ==== Sys2Proof/Machine/Async.lean ====
section
/-! DEFINITION. The completion of an asynchronous operation (R191). -/

namespace Sys2Proof.Machine

/-- The effect of an operation. (DEDUCED, log entry 46) -/
def asyncEffect (u : UnitId) (o : AsyncOp) (s : State) : State :=
  match o.instr with
  | .fpadd _ f => fpaddEffect u o f s
  | .scopy _ f => scopyEffect u o f s
  | .szero _ f => szeroEffect u o f s
  | .prg _ f => prgEffect u o f s
  | .hash _ f => hashEffect u o f s
  | .sample _ f => sampleEffect u o f s
  | .vjoint _ f => vjointEffect u o f s
  | .xmit _ f => xmitEffect u o f s
  | .tdec _ f => tdecEffect u o f s
  | .tred _ f => tredEffect u o f s
  | .tmerge _ f => tmergeEffect u o f s
  | .tclip _ f => tclipEffect u o f s
  | .tnoise _ f => tnoiseEffect u o f s
  | .tstat _ f => tstatEffect u o f s
  | .topt _ f => toptEffect u o f s
  | .tenc _ f => tencEffect u o f s
  | _ => s

/-- The operation leaves the unit's list; a unit that waits for its last one resumes. (DEDUCED, log entry 46) -/
def retireAsync (o : AsyncOp) (x : UnitState) : UnitState :=
  let l := x.asyncs.erase o
  { x with asyncs := l, wait := if x.wait = .asyncs ∧ l.isEmpty then .none else x.wait }

/-- The unit as it stood among the barriers when it issued the operation. (DEDUCED, log entry 143) -/
def asIssued (u : UnitId) (o : AsyncOp) (s : State) : State := onUnitOf u (fun x => { x with syncs := o.syncs }) s

/-- R191: the unit's oldest operation of the engine completes, unless its writes wait for an earlier operation's. -/
def execAsyncOpComplete (u : UnitId) (e : Engine) (s : State) : Out :=
  .next (if !clusterRuns s u then s
    else match (s.unitOf u).asyncs.find? (fun o => o.engine == e) with
      | none => s
      | some o =>
        if behindWrite s u o then s else
        let passed := (s.unitOf u).syncs
        let s := asyncEffect u o (asIssued u o s)
        let s := onUnitOf u (fun x => { x with syncs := passed }) s
        if clusterRuns s u then onUnitOf u (retireAsync o) s else s)

end Sys2Proof.Machine
end

