-- ==== Sys2Proof/Machine/Contexts.lean ====
section
/-! DEFINITION. The saved context of a unit in the save area of its cluster's slice (R133, R175, R195). -/

namespace Sys2Proof.Machine

/-- Bytes of one unit's context: the accumulator image, V0 and V1, and the program state (R175). -/
def contextBytes : Nat := 12864

/-- Where the context of a unit lies for a job (R195); that the eight units' contexts follow one another is the model's choice.
(DESIGN CHOICE, log entry 41) -/
def saveKey (s : State) (d : Die) (c : Cluster) (j : Fin 4) (u : UnitIx) : Option Nat :=
  reservedKey s d c (0x100000 + 0x20000 * j.val + contextBytes * u.val)

/-- Bytes of a tile's lanes, and its metadata word (R133). -/
def Tile.image (t : Tile) : Bytes := t.lanes.toList.flatMap fun l => leBytes 6 l.toNat
def Tile.info (t : Tile) : Bytes := leBytes 4 (t.count + if t.poison then 2 ^ 17 else 0)

/-- The program state of R175 and R178: step counter, done bit, status latch, MSEL, and the poison bits of V0 and V1.
(DESIGN CHOICE, log entry 41) -/
def programState (step : Nat) (done : Bool) (w : UnitRegs) : Bytes :=
  leBytes 8 step ++ leBytes 1 (if done then 1 else 0) ++ leBytes 1 w.latchStatus.code ++ leBytes 4 w.latchIndex
    ++ leBytes 1 w.msel.toNat ++ leBytes 1 ((if (w.reg 0).poison then 1 else 0) + if (w.reg 1).poison then 2 else 0)

/-- Write a unit's context at a key. The image is not reduced. -/
def saveContext (key step : Nat) (done : Bool) (w : UnitRegs) (s : State) : State :=
  let s := s.zeroRange key contextBytes
  let s := forAll w.tiles (fun (i, t) s => (s.store (key + 192 * i) t.image false).store (key + 0x3000 + 4 * i) t.info false) s
  (s.store (key + 0x3100) ((w.reg 0).bytes ++ (w.reg 1).bytes) false).store (key + 0x3200) (programState step done w) false

/-- Tile `i` of a saved image: an uncorrectable word poisons the tile, and a metadata word's COUNT is then 2^16 (R133). -/
def savedTile (s : State) (key i : Nat) : Tile :=
  let b := s.bytesAt (key + 192 * i) 192
  let w := leNat (s.bytesAt (key + 0x3000 + 4 * i) 4)
  let lost := s.poisonedAt (key + 0x3000 + 4 * i) 4
  { lanes := Vector.ofFn fun l : Fin 32 => BitVec.ofNat 48 (fieldLE b (6 * l.val) 6)
    count := if lost then 2 ^ 16 else w % 2 ^ 17
    poison := lost || s.poisonedAt (key + 192 * i) 192 || w.testBit 17 }

/-- Nothing of a saved context is other than zero. -/
def contextBlank (s : State) (key : Nat) : Bool :=
  (s.mem.cells.all fun c => !decide (key ≤ c.1 ∧ c.1 < key + contextBytes)) && !s.poisonedAt key contextBytes

/-- The context a job finds: tiles, V0 and V1, latch and modulus selection; the rest of the register file is dead, and `n` numbers
what it holds. (DESIGN CHOICE, log entry 20) -/
def savedContext (s : State) (key n : Nat) : UnitRegs :=
  if contextBlank s key then { dead := some n, v := [(0, {}), (1, {})] }
  else
    let st := s.bytesAt (key + 0x3200) 64
    let flags := fieldLE st 15 1
    let reg (i : Nat) : VReg := VReg.ofBytes (s.bytesAt (key + 0x3100 + 128 * i) 128)
      (flags.testBit i || s.poisonedAt (key + 0x3100 + 128 * i) 128)
    { v := [(0, reg 0), (1, reg 1)]
      tiles := ((List.range 64).map fun i => (i, savedTile s key i)).filter fun t => t.2 != {}
      latchStatus := (Status.ofCode (fieldLE st 9 1)).getD .ok
      latchIndex := fieldLE st 10 4
      msel := BitVec.ofNat 4 (fieldLE st 14 1)
      dead := some n }

end Sys2Proof.Machine
end

