-- ==== Sys2Proof/Machine/Rings.lean ====
section
/-! DEFINITION. Limbs and field arithmetic of the cluster operations: NTT stages and transforms (R90), automorphisms, and the
verifier of shared mode (R67 to R75). -/

namespace Sys2Proof.Machine

/-! ### NTT (R90) -/

/-- The low `w` bits of `n` reversed. -/
def brv : Nat → Nat → Nat
  | 0, _ => 0
  | w + 1, n => n % 2 * 2 ^ w + brv w (n / 2)

def addQ (q a b : Nat) : Nat := (a + b) % q
def subQ (q a b : Nat) : Nat := (a + (q - b % q)) % q
def mulQ (q a b : Nat) : Nat := a * b % q

/-- Cooley–Tukey stage `s` of a limb of 2^logN words. -/
def ctStage (q psi logN s : Nat) (l : List Nat) : List Nat :=
  let a := l.toArray
  let t := 2 ^ (logN - 1 - s)
  (List.range (2 ^ logN)).map fun j =>
    let w := Crypto.powMod q 32 psi (brv logN (2 ^ s + j / (2 * t)))
    if j % (2 * t) < t then addQ q (a.getD j 0) (mulQ q (a.getD (j + t) 0) w)
    else subQ q (a.getD (j - t) 0) (mulQ q (a.getD j 0) w)

/-- Gentleman–Sande stage `s`; the last one folds N^(−1) in. -/
def gsStage (q psi logN s : Nat) (l : List Nat) : List Nat :=
  let a := l.toArray
  let t := 2 ^ s
  let fold := if s + 1 = logN then Crypto.invMod q (2 ^ logN) else 1
  (List.range (2 ^ logN)).map fun j =>
    let w := Crypto.invMod q (Crypto.powMod q 32 psi (brv logN (2 ^ (logN - 1 - s) + j / (2 * t))))
    mulQ q fold (if j % (2 * t) < t then addQ q (a.getD j 0) (a.getD (j + t) 0)
      else mulQ q (subQ q (a.getD (j - t) 0) (a.getD j 0)) w)

def nttLimb (q psi logN : Nat) (l : List Nat) : List Nat := (List.range logN).foldl (fun a s => ctStage q psi logN s a) l
def inttLimb (q psi logN : Nat) (l : List Nat) : List Nat := (List.range logN).foldl (fun a s => gsStage q psi logN s a) l

/-- Where position `i` of a limb in NTT form moves under X ↦ X^g. -/
def autoTarget (logN g i : Nat) : Nat := brv logN ((g * (2 * brv logN i + 1) % 2 ^ (logN + 1)) / 2)

/-- The permuted limb. -/
def autoLimb (logN g : Nat) (l : List Nat) : List Nat :=
  let t := l.zipIdx.foldl (fun (t : Array Nat) (e : Nat × Nat) => t.setIfInBounds (autoTarget logN g e.2) e.1)
    (Array.replicate (2 ^ logN) 0)
  t.toList

/-- The root ψ of a modulus for a ring degree: a ring parameter set's, or a molt set's. (DEDUCED, log entry 50) -/
def nttRoot (i : Image) (logN q : Nat) : Option Nat :=
  ((i.rings.filter fun r => r.logN == logN).flatMap fun r => (r.q ++ r.p).zip (r.psiQ ++ r.psiP))
      ++ ((i.molts.filter fun m => m.logNm == logN).flatMap fun m => [(m.primeA, m.psiA), (m.primeB, m.psiB)])
    |>.find? (fun e => e.1 == q) |>.map (·.2)

/-- The 32-bit words of a byte string. -/
def wordsOf (b : Bytes) : List Nat := (List.range (b.length / 4)).map fun i => fieldLE b (4 * i) 4

def wordBytes (l : List Nat) : Bytes := l.flatMap (leBytes 4)

/-! ### Writes of a cluster operation -/

/-- Operations on a limb: the limb at `src`, its image at `dst`; poison of any of its words reaches all of it.
(DEDUCED, log entry 50) -/
def limbOp (u : UnitId) (src dst logN : Nat) (g : List Nat → List Nat) (s : State) : State :=
  match unitRead u false src (4 * 2 ^ logN) s with
  | (s, none) => s
  | (s, some (b, p)) => if clusterRuns s u then unitWrite u false dst (wordBytes (g (wordsOf b))) p s else s

/-- The image of a limb under a stage or transform that needs a root: where none is stated, the words are free. -/
def rooted (s : State) (u : UnitId) (f : OFmt) (op : Nat) (g : Nat → Nat → List Nat → List Nat) (ok : Bool) (l : List Nat) :
    List Nat :=
  let e := modEntry s u f.mod.toNat
  match nttRoot (s.imageOf u.part) f.p8.toNat e.modulus with
  | some psi => if ok && e.kind == 1 then g e.modulus psi l
      else (List.range l.length).map fun n => Config.limbWord op l n % 2 ^ 32
  | none => (List.range l.length).map fun n => Config.limbWord op l n % 2 ^ 32

/-- A stage or transform in place on the limb at X[XA]. -/
def limbInPlace (u : UnitId) (f : OFmt) (op : Nat) (g : Nat → Nat → List Nat → List Nat) (ok : Bool) (s : State) : State :=
  limbOp u (s.x u f.xa).toNat (s.x u f.xa).toNat f.p8.toNat (rooted s u f op g ok) s

/-- The stage number of NSTAGE and ISTAGE. -/
def stageOf (f : OFmt) : Nat := f.p24.toNat % 32

def execNstage (u : UnitId) (f : OFmt) (s : State) : Out :=
  clusterOp u f (f.wf && modOk s u f.mod)
    (limbInPlace u f 0x30 (fun q psi => ctStage q psi f.p8.toNat (stageOf f)) (decide (stageOf f < f.p8.toNat))) s

def execIstage (u : UnitId) (f : OFmt) (s : State) : Out :=
  clusterOp u f (f.wf && modOk s u f.mod)
    (limbInPlace u f 0x31 (fun q psi => gsStage q psi f.p8.toNat (stageOf f)) (decide (stageOf f < f.p8.toNat))) s

def execNttl (u : UnitId) (f : OFmt) (s : State) : Out :=
  clusterOp u f (f.wf && modOk s u f.mod) (limbInPlace u f 0x32 (fun q psi => nttLimb q psi f.p8.toNat) true) s

def execInttl (u : UnitId) (f : OFmt) (s : State) : Out :=
  clusterOp u f (f.wf && modOk s u f.mod) (limbInPlace u f 0x33 (fun q psi => inttLimb q psi f.p8.toNat) true) s

/-- AUTOL: g is odd (R184); LOG_N is in P8. (DEDUCED, log entry 59) -/
def execAutol (u : UnitId) (f : OFmt) (s : State) : Out :=
  clusterOp u f (Instr.autol u f).wf
    (fun s => limbOp u (s.x u f.xa).toNat (s.x u f.xd).toNat f.p8.toNat (autoLimb f.p8.toNat (f.p24.toNat % 2 ^ 18)) s) s

/-! ### The verifier (R68, R69, R74, R75) -/

def addP (a b : Nat) : Nat := (a + b) % goldilocks
def subF (a b : Nat) : Nat := (a + (goldilocks - b % goldilocks)) % goldilocks
def mulP (a b : Nat) : Nat := a * b % goldilocks
def powP (a e : Nat) : Nat := Crypto.powMod goldilocks 64 a e
def invP (a : Nat) : Nat := Crypto.invMod goldilocks a

/-- The smallest h with h^((p−1)/64) = 8 (R68); `fuel` candidates. -/
def smallestH : Nat → Nat → Nat
  | 0, h => h
  | n + 1, h => if powP h ((goldilocks - 1) / 64) = 8 then h else smallestH n (h + 1)

/-- ω_M for M a power of two. -/
def omega_ (m : Nat) : Nat := powP (smallestH 4096 1) ((goldilocks - 1) / m)

/-- The gadget calls of an input share, in order from call 1 (R69); `lead` is party 0, which carries the constants. -/
def gadgetCalls (p : Policy) (lead : Bool) (x : List Nat) : List (Nat × Nat) :=
  let c (n : Nat) : Nat := if lead then n else 0
  let bit (w : Nat) : Nat × Nat := (w, subF w (c 1))
  match p.circuit with
  | 2 => x.map bit ++ (List.range p.stretchLen).map fun e =>
      let v := (List.range p.bits).foldl (fun a j => addP a (mulP (2 ^ j) (x.getD (e * p.bits + j) 0))) 0
      let v := subF v (c (2 ^ (p.bits - 1)))
      (v, v)
  | _ => x.map bit

/-- Σ of a list in the field. -/
def sumP (l : List Nat) : Nat := l.foldl addP 0

/-- P(α_ℓ) of a proof share. -/
def proofAt (pi_ : List Nat) (l : Nat) : Nat := pi_.getD (2 + 2 * l) 0

/-- y of R69 over an input and a proof share; `r` holds r_1 to r_(L+1). -/
def circuitOutput (p : Policy) (lead : Bool) (x pi_ r : List Nat) : Nat :=
  let c (n : Nat) : Nat := if lead then n else 0
  let l := p.gadgets
  match p.circuit with
  | 2 =>
    let nb := p.stretchLen * p.bits
    let w := bitLen p.normBound
    let bits := sumP ((List.range (nb + w)).map fun i => mulP (r.getD i 0) (proofAt pi_ (i + 1)))
    let norm := sumP ((List.range p.stretchLen).map fun e => proofAt pi_ (nb + w + 1 + e))
    let gap := sumP ((List.range w).map fun j => mulP (2 ^ j) (x.getD (nb + j) 0))
    addP bits (mulP (r.getD l 0) (subF (addP norm gap) (c p.normBound)))
  | 3 =>
    addP (sumP ((List.range l).map fun i => mulP (r.getD i 0) (proofAt pi_ (i + 1))))
      (mulP (r.getD l 0) (subF (sumP (x.take p.stretchLen)) (c 1)))
  | _ => sumP ((List.range l).map fun i => mulP (r.getD i 0) (proofAt pi_ (i + 1)))

/-- The weights λ_j^M(t) of R74. -/
def weights (m t : Nat) : List Nat :=
  let w := omega_ m
  let top := subF (powP t m) 1
  (List.range m).map fun j =>
    let a := powP w j
    mulP (mulP top a) (invP (mulP (m % goldilocks) (subF t a)))

/-- The dot product of two lists. -/
def dotP (a b : List Nat) : Nat := sumP (a.zipWith mulP b)

/-- The verifier share of a party (R74). -/
def verifierShare (p : Policy) (lead : Bool) (x pi_ r : List Nat) (t : Nat) : VerifierShare :=
  let calls := gadgetCalls p lead x
  let wd := weights p.domain t
  ⟨BitVec.ofNat 64 (dotP wd (pi_.getD 0 0 :: calls.map (·.1))), BitVec.ofNat 64 (dotP wd (pi_.getD 1 0 :: calls.map (·.2))),
    BitVec.ofNat 64 (dotP (weights (2 * p.domain) t) (pi_.drop 2)), BitVec.ofNat 64 (circuitOutput p lead x pi_ r)⟩

/-- R75: the sums of all parties' shares. -/
def proofAccepted (l : List VerifierShare) : Bool :=
  let tot (f : VerifierShare → U64) : Nat := sumP (l.map fun v => (f v).toNat)
  mulP (tot (·.u)) (tot (·.v)) == tot (·.pt) && tot (·.y) == 0

def shareBytes (v : VerifierShare) : Bytes :=
  leBytes 8 v.u.toNat ++ leBytes 8 v.v.toNat ++ leBytes 8 v.pt.toNat ++ leBytes 8 v.y.toNat

def shareOfBytes (b : Bytes) : VerifierShare :=
  ⟨BitVec.ofNat 64 (fieldLE b 0 8), BitVec.ofNat 64 (fieldLE b 8 8), BitVec.ofNat 64 (fieldLE b 16 8),
    BitVec.ofNat 64 (fieldLE b 24 8)⟩

/-- The 64-bit words of a byte string. -/
def elemsOf (b : Bytes) : List Nat := (List.range (b.length / 8)).map fun i => fieldLE b (8 * i) 8

/-- The context a cluster operation names. (DEDUCED, log entry 50) -/
def opCtx (f : OFmt) : Ctx := (f.p8.extractLsb' 0 2).toFin

/-- A write of a cluster operation. -/
def opWriteMem (u : UnitId) (va : Nat) (b : Bytes) (poison : Bool) (s : State) : State :=
  if clusterRuns s u then unitWrite u false va b poison s else s

/-- VSHARE: the body at X[XA] is the expanded share, and r and t stand at X[XB] as VJOINT writes them. (DEDUCED, log entry 50) -/
def vshareEffect (u : UnitId) (f : OFmt) (s : State) : State :=
  let c := s.ctx u.part (opCtx f)
  if c.phase = .free then latchAll u .invalidState s
  else
    let p := c.policy
    match unitRead u false (s.x u f.xa).toNat (8 * (p.wireLen + p.proofLen)) s with
    | (s, none) => s
    | (s, some (b, q1)) => match unitRead u false (s.x u f.xb).toNat (8 * (p.gadgets + 2)) s with
      | (s, none) => s
      | (s, some (j, q2)) =>
        let e := elemsOf b
        let r := elemsOf j
        opWriteMem u (s.x u f.xd).toNat
          (shareBytes (verifierShare p (p.partyIndex == 0) (e.take p.wireLen) (e.drop p.wireLen) (r.take (p.gadgets + 1))
            (r.getD (p.gadgets + 1) 0))) (q1 || q2) s

def execVshare (u : UnitId) (f : OFmt) (s : State) : Out := clusterOp u f f.wf (vshareEffect u f) s

/-- VCHECK: the verdict byte is 0 for ACCEPT and 1 for PROOF. (DEDUCED, log entry 50) -/
def vcheckEffect (u : UnitId) (f : OFmt) (s : State) : State :=
  let c := s.ctx u.part (opCtx f)
  if c.phase = .free then latchAll u .invalidState s
  else match unitRead u false (s.x u f.xa).toNat (32 * c.policy.parties) s with
    | (s, none) => s
    | (s, some (b, q)) =>
      let l := (List.range c.policy.parties).map fun i => shareOfBytes (fieldB b (32 * i) 32)
      opWriteMem u (s.x u f.xd).toNat [if proofAccepted l then 0 else 1] q s

def execVcheck (u : UnitId) (f : OFmt) (s : State) : Out := clusterOp u f f.wf (vcheckEffect u f) s

end Sys2Proof.Machine
end

