-- ==== Sys2Proof/Machine/Poly.lean ====
section
/-! DEFINITION. Polynomials by their limbs (R88, R90, R92): bodies of objects, the key switch of R102 over the key words of
R98, and the arithmetic of the ciphertext operations (R101). A polynomial is kept here in coefficient form. The base conversions
are free values, and everything around them is exact. (DESIGN CHOICE, log entry 18) -/

namespace Sys2Proof.Machine

/-- The limbs of a polynomial, in the order of its basis. -/
abbrev Limbs := List (List Nat)

/-- A basis: each prime with its root ψ. -/
abbrev Basis := List (Nat × Nat)

/-- q_0 to q_ℓ of a set. -/
def RingSet.basis (r : RingSet) (level : Nat) : Basis := (r.q.zip r.psiQ).take (level + 1)

/-- The special primes of a set. -/
def RingSet.special (r : RingSet) : Basis := r.p.zip r.psiP

/-- Words cut into limbs of 2^logN. -/
def cutLimbs (logN : Nat) (w : List Nat) : Limbs :=
  (List.range (w.length / 2 ^ logN)).map fun i => (w.drop (i * 2 ^ logN)).take (2 ^ logN)

/-! ### Arithmetic by limbs -/

/-- Limbs combined position by position, each modulo its prime. -/
def zipLimbs (b : Basis) (g : Nat → Nat → Nat → Nat) (x y : Limbs) : Limbs :=
  (b.zip (x.zip y)).map fun e => e.2.1.zipWith (g e.1.1) e.2.2

/-- Every coefficient times a constant that each prime gives. -/
def scaleLimbs (b : Basis) (c : Nat → Nat) (x : Limbs) : Limbs := b.zipWith (fun e l => l.map (mulQ e.1 (c e.1 % e.1))) x

/-- A polynomial with integer coefficients. -/
def liftInts (b : Basis) (l : List Int) : Limbs := b.map fun e => l.map fun v => (v % e.1).toNat

def toNtt (logN : Nat) (b : Basis) (x : Limbs) : Limbs := b.zipWith (fun e l => nttLimb e.1 e.2 logN l) x
def toCoef (logN : Nat) (b : Basis) (x : Limbs) : Limbs := b.zipWith (fun e l => inttLimb e.1 e.2 logN l) x

/-- The product in the ring. -/
def mulPoly (logN : Nat) (b : Basis) (x y : Limbs) : Limbs :=
  toCoef logN b (zipLimbs b mulQ (toNtt logN b x) (toNtt logN b y))

/-- X ↦ X^g (R90). -/
def autoPoly (logN g : Nat) (b : Basis) (x : Limbs) : Limbs := toCoef logN b ((toNtt logN b x).map (autoLimb logN g))

/-- A limb times X^e in the ring of degree `n`. -/
def shiftLimb (q n : Nat) (e : Int) (l : List Nat) : List Nat :=
  let a := l.toArray
  (List.range n).map fun i =>
    let j := (((i : Int) - e) % (2 * n : Nat)).toNat
    if j < n then a.getD j 0 else subQ q 0 (a.getD (j - n) 0)

def shiftPoly (n : Nat) (e : Int) (b : Basis) (x : Limbs) : Limbs := b.zipWith (fun p l => shiftLimb p.1 n e l) x

/-! ### Key words (R98) -/

/-- The words of a key from its blocks: 1,008 of each, after the 64-byte header. -/
def keyWords (b : Bytes) : List Nat := (List.range (b.length / 4096)).flatMap fun i => wordsOf (fieldB b (4096 * i + 64) 4032)

/-- A key: its words, where its section begins (R119), and the number of limbs of its basis, special primes included. -/
structure KeyView where
  words : List Nat
  start : Nat
  limbs : Nat
  deriving DecidableEq, Repr

/-- The limb of a key: digit by digit, then part by part, then limb by limb, then coefficient by coefficient (R98). -/
def KeyView.limb (k : KeyView) (logN digit part i : Nat) : List Nat :=
  (k.words.drop (k.start + ((digit * 2 + part) * k.limbs + i) * 2 ^ logN)).take (2 ^ logN)

/-! ### The key switch (R102) -/

/-- The limb, modulo `q`, of the value whose limbs over the basis are given: the conversion is free.
(DESIGN CHOICE, log entry 18) -/
def convertLimb (b : Basis) (x : Limbs) (q : Nat) : List Nat :=
  (List.range (x.headD []).length).map fun n => Config.baseWord ((b.zip x).map fun e => (e.2.getD n 0, e.1.1)) q % q

/-- β of R98: digits of a polynomial of `n` limbs under `k` special primes. -/
def digitCount (n k : Nat) : Nat := ceilDiv n (max k 1)

/-- Digit `j` of a polynomial over the whole basis: its own limbs stand as they are, the others are converted from them. -/
def digitLimbs (q p : Basis) (x : Limbs) (j : Nat) : Limbs :=
  let k := max p.length 1
  let own {α : Type} (l : List α) : List α := (l.drop (j * k)).take k
  (q ++ p).zipIdx.map fun e =>
    if j * k ≤ e.2 ∧ e.2 < (j + 1) * k ∧ e.2 < q.length then x.getD e.2 [] else convertLimb (own q) (own x) e.1.1

/-- Division by P of a polynomial over the whole basis: each limb less the converted special limbs, times P^(−1). -/
def modDown (q p : Basis) (x : Limbs) : Limbs :=
  let special := x.drop q.length
  let prod := (p.map (·.1)).foldl (· * ·) 1
  (q.zip x).map fun e =>
    (e.2.zipWith (subQ e.1.1) (convertLimb p special e.1.1)).map (mulQ e.1.1 (Crypto.invMod e.1.1 (prod % e.1.1)))

/-- The key switch of one polynomial over q_0 to q_ℓ: the two parts to add. Each digit times its key polynomials, summed over the
whole basis, then divided by P. The key's limbs of the levels above ℓ are left out. (DEDUCED, log entry 18) -/
def keySwitch (logN : Nat) (q p : Basis) (key : KeyView) (x : Limbs) : Limbs × Limbs :=
  let all := q ++ p
  let digits := (List.range (digitCount q.length p.length)).map fun j => toNtt logN all (digitLimbs q p x j)
  let place (i : Nat) : Nat := if i < q.length then i else key.limbs - p.length + (i - q.length)
  let part (t : Nat) : Limbs :=
    let terms := digits.zipIdx.map fun d =>
      zipLimbs all mulQ d.1 ((List.range all.length).map fun i => key.limb logN d.2 t (place i))
    let zero : Limbs := all.map fun _ => List.replicate (2 ^ logN) 0
    modDown q p (toCoef logN all (terms.foldl (zipLimbs all addQ) zero))
  (part 0, part 1)

/-! ### Ciphertexts -/

/-- A ciphertext in coefficient form. -/
abbrev Ct := Limbs × Limbs

def ctAdd (b : Basis) (x y : Ct) : Ct := (zipLimbs b addQ x.1 y.1, zipLimbs b addQ x.2 y.2)
def ctSub (b : Basis) (x y : Ct) : Ct := (zipLimbs b subQ x.1 y.1, zipLimbs b subQ x.2 y.2)
def ctMap (f : Limbs → Limbs) (x : Ct) : Ct := (f x.1, f x.2)

/-- Part 1 is switched, and part 0 takes its share of the result. -/
def ctSwitch (logN : Nat) (q p : Basis) (key : KeyView) (x : Ct) : Ct :=
  let y := keySwitch logN q p key x.2
  (zipLimbs q addQ x.1 y.1, y.2)

/-- X ↦ X^g of a ciphertext, switched back to its secret. -/
def ctAuto (logN g : Nat) (q p : Basis) (key : KeyView) (x : Ct) : Ct := ctSwitch logN q p key (ctMap (autoPoly logN g q) x)

/-- The residues of one coefficient as the integer below the product of the primes, and that product. -/
def crt : List (Nat × Nat) → Nat × Nat
  | [] => (0, 1)
  | (x, q) :: t =>
    let r := crt t
    (r.1 + r.2 * mulQ q (subQ q x r.1) (Crypto.invMod q (r.2 % q)), r.2 * q)

/-- The centred representative in (−q/2, q/2]. -/
def centred (x q : Nat) : Int := if q < 2 * x then (x : Int) - q else x

/-- ⌊a / b + 1/2⌋. -/
def roundDiv (a : Int) (b : Nat) : Int := (2 * a + b) / (2 * b : Nat)

end Sys2Proof.Machine
end

