-- ==== Sys2Proof/Machine/Cipher.lean ====
section
/-! DEFINITION. Objects and the operations on them (R91, R92, R100 to R104): the ciphertext operations, the noise of an
encrypted release (R106) and the combination of decryption shares (R107, R108). The checks, headers, noise bounds, poison and
polynomial arithmetic are exact; the base conversions, encodings and slot transforms are free values. -/

namespace Sys2Proof.Machine

/-! ### Objects in memory -/

/-- An operand: its address, its header fields as they stand, whether it is valid and clean (R92), whether it has the shape
its parameter set gives it, and its body. -/
structure Operand where
  va : Nat
  h : ObjHeader
  clean : Bool
  shape : Bool
  body : Bytes
  deriving DecidableEq, Repr

/-- The header fields of 64 bytes, checked or not. -/
def headerFields (b : Bytes) : ObjHeader :=
  ⟨fieldLE b 0 1, fieldLE b 1 1 == 1, fieldLE b 2 1, fieldLE b 3 1, fieldLE b 4 1, fieldLE b 5 1, fieldLE b 6 2, fieldLE b 8 8,
    (fieldLE b 0x10 1).testBit 0, (fieldLE b 0x10 1).testBit 1, fieldLE b 0x11 1, fieldLE b 0x18 8⟩

/-- The header agrees with its parameter set. (DEDUCED, log entry 56) -/
def shapeOk (i : Image) (h : ObjHeader) : Bool := match i.rings[h.paramSet]? with
  | some r => h.ckks == r.ckks && h.logN == r.logN && decide (h.level < r.q.length)
      && h.bodyBytes == Policy.bodyBytes r h.parts h.level && h.parts == (if h.fmt = 1 then 2 else 1)
  | none => false

/-- Read an operand; none when an access faults. -/
def readObject (u : UnitId) (va : Nat) (s : State) : State × Option Operand :=
  match unitRead u false va 64 s with
  | (s, none) => (s, none)
  | (s, some (b, p)) =>
    let h := headerFields b
    let shape := shapeOk (s.imageOf u.part) h || h.fmt == 3
    if p || (ObjHeader.parse b).isNone || h.poisoned then (s, some ⟨va, h, false, shape, []⟩)
    else if !shape then (s, some ⟨va, h, true, false, []⟩)
    else match unitRead u false (va + 64) h.bodyBytes s with
      | (s, none) => (s, none)
      | (s, some (d, q)) => (s, some ⟨va, h, !q, true, d⟩)

/-- Read operands one after the other. -/
def readObjects (u : UnitId) : List Nat → State → State × Option (List Operand)
  | [], s => (s, some [])
  | va :: t, s => match readObject u va s with
    | (s, none) => (s, none)
    | (s, some o) => match readObjects u t s with
      | (s, none) => (s, none)
      | (s, some l) => (s, some (o :: l))

/-- A header with POISONED set; in a round's tiles it poisons them (R104, R132). A failed check writes no more (R100, R104, R123).
An operation that aborts after it began leaves the unspecified body that R92 gives the object.
(DEDUCED, log entries 56 and 145) -/
def writePoisoned (u : UnitId) (began : Bool) (va : Nat) (h : ObjHeader) (s : State) : State :=
  let t := opWriteMem u va { h with poisoned := true }.bytes (inTiles s u.part va 64) s
  if began && shapeOk (s.imageOf u.part) h && clusterRuns t u && (unitFault t u false (va + 64) h.bodyBytes 1).isNone then
    let b := (List.range h.bodyBytes).map (Config.freeByte t.draws)
    unitWrite u false (va + 64) b (inTiles s u.part va 64) { t with draws := t.draws + 1 }
  else t

/-! ### Outcomes (R104, R109) -/

/-- The rounds an operation of the unit's beat belongs to: those of the running job in encrypted mode. (DEDUCED, log entry 58) -/
def roundsOfJob (s : State) (p : Part) : List Ctx :=
  (List.finRange 4).filter fun k =>
    (s.ctx p k).phase != .free && (s.ctx p k).policy.mode == .encrypted
      && match layoutOf s p k with
        | some r => r.job == (s.part p).img.curJob.val
        | none => false

/-- ENC_OP_STATUS after an operation that ended with a poisoned destination; the first failure of a round posts an event.
(DEDUCED, log entry 58) -/
def noteFailure (p : Part) (index : Nat) (st : Status) (k : Ctx) (s : State) : State :=
  let first := (s.ctx p k).enc.firstStatus == .ok
  let s := State.onCtx p k (fun c => { c with enc := { c.enc with
    poisonedOps := min (c.enc.poisonedOps + 1) 0xFFFFFF, firstStatus := if first then st else c.enc.firstStatus } }) s
  if first then postRound p k st .error 8 index s else s

/-- The operation ends in poison: every destination's header, the latches and the rounds' registers. -/
def failOp (u : UnitId) (began : Bool) (dsts : List (Nat × ObjHeader)) (st : Status) (s : State) : State :=
  let index := (s.unitOf u).pos
  let s := forAll dsts (fun d => writePoisoned u began d.1 d.2) s
  if clusterRuns s u then latchAll u st (forAll (roundsOfJob s u.part) (noteFailure u.part index st) s) else s

/-! ### Keys (R100, R120) -/

/-- Words of a molt key (R118, R119). -/
def moltKeyWords (i : Image) (m : MoltSet) (kind : Nat) : Nat :=
  match i.rings[m.outerSet]? with
  | none => 0
  | some r =>
    let n := 2 ^ r.logN
    let k := r.p.length
    let no := m.outLevel + 1
    if kind = 4 then 12 * m.brDigits * m.lweN * 2 ^ m.logNm
    else 2 * (1 + k) * n + (1 + r.logN) * (2 * ceilDiv no (max k 1) * (no + k) * n)

/-- A molt key has the size and level range its set gives it. -/
def moltKeyOk (i : Image) (r : KeyRec) : Bool :=
  if r.kind = 4 ∨ r.kind = 5 then match i.molts.find? fun m => m.outerSet == r.paramSet with
    | some m => r.levelLo == 0 && r.levelHi == (if r.kind = 4 then 0 else m.outLevel)
        && r.blockCount == ceilDiv (moltKeyWords i m r.kind) 1008
    | none => false
  else true

/-- The key an operation needs: kind, Galois element and level. -/
structure KeyNeed where
  kind : Nat
  galois : Nat
  level : Nat
  deriving DecidableEq, Repr

/-- The slot and the key that a lookup finds. -/
def findKey (s : State) (p : Part) (keyset paramSet : Nat) (n : KeyNeed) : Option (KsSlot × KeyRec) :=
  let i := s.imageOf p
  let sets := match i.rings[paramSet]? with
    | some r => !r.p.isEmpty || n.kind == 6
    | none => false
  if !sets then none
  else match (s.part p).keysets.toList.find? fun k => k.registered && k.id.toNat == keyset with
    | none => none
    | some k => (k.keys.find? fun r => r.kind == n.kind && r.galois == n.galois && r.paramSet == paramSet
        && decide (r.levelLo ≤ n.level ∧ n.level ≤ r.levelHi) && moltKeyOk i r).map fun r => (k, r)

/-- A block's tag is the expected one. -/
def tagOk (k : KsSlot) (r : KeyRec) (b : Bytes) (i : Nat) : Bool :=
  fieldLE b 0 8 == k.id.toNat && fieldLE b 8 1 == r.kind && fieldLE b 9 1 == r.levelLo && fieldLE b 10 1 == r.levelHi
    && fieldLE b 0x10 4 == i

/-- Stream `n` blocks of a key from block `i` on, until one is faulty: the bytes, or the status of the first faulty block; none
when an access faults. -/
def streamBlocks (u : UnitId) (k : KsSlot) (r : KeyRec) : Nat → Nat → State → State × Option (Except Status Bytes)
  | 0, _, s => (s, some (.ok []))
  | n + 1, i, s => match unitRead u false (k.va.toNat + 4096 * (r.firstBlock + i)) 4096 s with
    | (s, none) => (s, none)
    | (s, some (b, p)) =>
      if p then (s, some (.error .uncorrectableMemory))
      else if !tagOk k r b i then (s, some (.error .keyStreamFault))
      else match streamBlocks u k r n (i + 1) s with
        | (s, some (.ok l)) => (s, some (.ok (b ++ l)))
        | x => x

/-- The limbs of a key's basis: q_0 to q_(LEVEL_HI) and the special primes (R98). -/
def keyLimbs (i : Image) (r : KeyRec) : Nat := r.levelHi + 1 + ((i.rings[r.paramSet]?).map fun x => x.p.length).getD 0

/-- Stream keys one after the other, until one fails. -/
def streamKeys (u : UnitId) : List (KsSlot × KeyRec) → State → State × Option (Except Status (List KeyView))
  | [], s => (s, some (.ok []))
  | (k, r) :: t, s => match streamBlocks u k r r.blockCount 0 s with
    | (s, none) => (s, none)
    | (s, some (.error e)) => (s, some (.error e))
    | (s, some (.ok b)) => match streamKeys u t s with
      | (s, some (.ok l)) => (s, some (.ok (⟨keyWords b, 0, keyLimbs (s.imageOf u.part) r⟩ :: l)))
      | x => x

/-! ### An operation (R100, R104) -/

/-- What an operation does with checked operands: whether they agree, the keys it needs, the header it writes, and the body
from the key's words. -/
structure ObjectOp where
  agree : Bool
  keys : List KeyNeed
  out : ObjHeader
  body : List KeyView → Bytes

/-- The budget of a set at a level. -/
def budgetAt (i : Image) (h : ObjHeader) : Nat := match i.rings[h.paramSet]? with
  | some r => r.budget.getD h.level 0
  | none => 0

/-- The status of checks 1 to 4 of R104. (DEDUCED, log entry 56) -/
def operandStatus (s : State) (p : Part) (l : List Operand) (o : ObjectOp) (keys : List (Option (KsSlot × KeyRec))) : Status :=
  if l.any fun x => !x.clean then .poisonedInput
  else if !o.agree || l.any (fun x => !x.shape) then .levelMismatch
  else if (l.any fun x => x.h.keyset != (l.headD ⟨0, headerFields [], false, false, []⟩).h.keyset) || keys.any Option.isNone then .keyMismatch
  else if o.out.fmt == 1 && decide (budgetAt (s.imageOf p) o.out < o.out.noise) then .noiseExhausted
  else .ok

/-- Run an operation on operands read at `vas`, into `dst`. -/
def objectOp (u : UnitId) (dst : Nat) (vas : List Nat) (plan : Image → List Operand → ObjectOp) (s : State) : State :=
  match readObjects u vas s with
  | (s, none) => s
  | (s, some l) =>
    let a := (l.headD ⟨0, headerFields [], false, false, []⟩).h
    let o := plan (s.imageOf u.part) l
    let keys := o.keys.map (findKey s u.part a.keyset a.paramSet)
    match operandStatus s u.part l o keys with
    | .ok => match streamKeys u (keys.filterMap id) s with
      | (s, none) => s
      | (s, some (.error e)) => failOp u true [(dst, o.out)] e s
      | (s, some (.ok kb)) => opWriteMem u (dst + 64) (o.body kb) false (opWriteMem u dst { o.out with poisoned := false }.bytes false s)
    | st => failOp u false [(dst, a)] st s

/-! ### Bodies -/

/-- The ring set of a header. -/
def setOf (i : Image) (h : ObjHeader) : RingSet := (i.rings[h.paramSet]?).getD ⟨false, 0, [], [], 0, 0, 0, 0, 0, 0, [], [], []⟩

/-- The prime of word `n` of a body of the level. -/
def wordPrime (r : RingSet) (level n : Nat) : Nat := r.q.getD (n / 2 ^ r.logN % (level + 1)) 1

/-- Words combined position by position, each modulo its prime. -/
def zipBody (r : RingSet) (level : Nat) (g : Nat → Nat → Nat → Nat) (a b : Bytes) : Bytes :=
  wordBytes (((wordsOf a).zip (wordsOf b)).zipIdx.map fun e => g (wordPrime r level e.2) e.1.1 e.1.2)

/-- A body of free words, each below its prime. -/
def freeBody (r : RingSet) (parts level op : Nat) (inputs : List Bytes) : Bytes :=
  wordBytes ((List.range (parts * (level + 1) * 2 ^ r.logN)).map fun n => Config.objectWord op inputs n % wordPrime r level n)

/-- Limbs of a body, transformed one by one. -/
def mapLimbs (r : RingSet) (level : Nat) (g : Nat → Nat → List Nat → List Nat) (b : Bytes) : Bytes :=
  let n := 2 ^ r.logN
  let w := wordsOf b
  wordBytes ((List.range (w.length / n)).flatMap fun i =>
    g (r.q.getD (i % (level + 1)) 1) (r.psiQ.getD (i % (level + 1)) 1) ((w.drop (n * i)).take n))

/-- Part `t` of an operand, in coefficient form. -/
def partCoef (r : RingSet) (o : Operand) (t : Nat) : Limbs :=
  let n := o.h.level + 1
  let l := ((cutLimbs r.logN (wordsOf o.body)).drop (t * n)).take n
  if o.h.ntt then toCoef r.logN (r.basis o.h.level) l else l

/-- An operand as a ciphertext. -/
def ctOf (r : RingSet) (o : Operand) : Ct := (partCoef r o 0, partCoef r o 1)

/-- A body of polynomials, in the form asked for (R92). -/
def partsBytes (r : RingSet) (level : Nat) (ntt : Bool) (l : List Limbs) : Bytes :=
  wordBytes ((l.flatMap fun x => if ntt then toNtt r.logN (r.basis level) x else x).flatten)

def ctBytes (r : RingSet) (level : Nat) (ntt : Bool) (x : Ct) : Bytes := partsBytes r level ntt [x.1, x.2]

/-- The first key streamed. -/
def keyNth (l : List KeyView) (i : Nat) : KeyView := l.getD i ⟨[], 0, 0⟩

def opNth (l : List Operand) (i : Nat) : Operand := l.getD i ⟨0, headerFields [], false, false, []⟩

/-- Agreement of two operands (R104): scheme, degree, set and level, and the CKKS scale where `scale`. -/
def agreeing (a b : ObjHeader) (scale : Bool) : Bool :=
  a.ckks == b.ckks && a.logN == b.logN && a.paramSet == b.paramSet && a.level == b.level && (!scale || !a.ckks || a.scale == b.scale)

/-! ### The ciphertext operations (R101, R103) -/

/-- ADD and SUB: in the operands' form; of operands in different forms the body is free. (DESIGN CHOICE, log entry 18) -/
def addPlan (op : Nat) (g : Nat → Nat → Nat → Nat) (i : Image) (l : List Operand) : ObjectOp :=
  let a := opNth l 0
  let b := opNth l 1
  let r := setOf i a.h
  { agree := a.h.fmt == 1 && b.h.fmt == 1 && agreeing a.h b.h true
    keys := []
    out := { a.h with noise := noiseAdd a.h.noise b.h.noise }
    body := fun _ => if a.h.ntt == b.h.ntt then zipBody r a.h.level g a.body b.body else freeBody r 2 a.h.level op [a.body, b.body] }

def execCtAdd (u : UnitId) (f : OFmt) (s : State) : Out :=
  clusterOp u f f.wf (fun s => objectOp u (s.x u f.xd).toNat [(s.x u f.xa).toNat, (s.x u f.xb).toNat] (addPlan 0x38 addQ) s) s

def execCtSub (u : UnitId) (f : OFmt) (s : State) : Out :=
  clusterOp u f f.wf (fun s => objectOp u (s.x u f.xd).toNat [(s.x u f.xa).toNat, (s.x u f.xb).toNat] (addPlan 0x39 subQ) s) s

/-- ADD_PLAIN: the plaintext's words are added to part 0, limb by limb, in both schemes: R101 names neither the part nor a scaling
of a BFV plaintext by Q/t, so the plaintext is taken as it stands. (DESIGN CHOICE, log entry 173) -/
def addPlainPlan (i : Image) (l : List Operand) : ObjectOp :=
  let a := opNth l 0
  let b := opNth l 1
  let r := setOf i a.h
  let half := a.body.length / 2
  { agree := a.h.fmt == 1 && b.h.fmt == 2 && agreeing a.h b.h true
    keys := []
    out := { a.h with noise := noiseAdd a.h.noise r.incRnd }
    body := fun _ => if a.h.ntt == b.h.ntt then zipBody r a.h.level addQ (a.body.take half) b.body ++ a.body.drop half
      else freeBody r 2 a.h.level 0x3A [a.body, b.body] }

def execCtAddp (u : UnitId) (f : OFmt) (s : State) : Out :=
  clusterOp u f f.wf (fun s => objectOp u (s.x u f.xd).toNat [(s.x u f.xa).toNat, (s.x u f.xb).toNat] addPlainPlan s) s

/-- MUL_PLAIN: both parts times the plaintext; in NTT form position by position. SCALE is a 16-bit field and wraps.
(DESIGN CHOICE, log entry 173) -/
def mulPlainPlan (i : Image) (l : List Operand) : ObjectOp :=
  let a := opNth l 0
  let b := opNth l 1
  let r := setOf i a.h
  { agree := a.h.fmt == 1 && b.h.fmt == 2 && agreeing a.h b.h false
    keys := []
    out := { a.h with
      noise := noiseAdd (a.h.noise + b.h.noise + 4 * a.h.logN) r.incRnd
      scale := if a.h.ckks then (a.h.scale + b.h.scale) % 2 ^ 16 else a.h.scale }
    body := fun _ =>
      if a.h.ntt != b.h.ntt then freeBody r 2 a.h.level 0x3B [a.body, b.body]
      else if a.h.ntt then zipBody r a.h.level mulQ a.body (b.body ++ b.body)
      else ctBytes r a.h.level false (ctMap (mulPoly r.logN (r.basis a.h.level) (partCoef r b 0)) (ctOf r a)) }

def execCtMulp (u : UnitId) (f : OFmt) (s : State) : Out :=
  clusterOp u f f.wf (fun s => objectOp u (s.x u f.xd).toNat [(s.x u f.xa).toNat, (s.x u f.xb).toNat] mulPlainPlan s) s

/-- The three parts of the tensor product: exact in CKKS; in BFV the manual gives neither the scaling by t/Q nor its rounding, so
they are free. (DESIGN CHOICE, log entry 18) -/
def tensor (r : RingSet) (a b : Operand) : Limbs × Limbs × Limbs :=
  let q := r.basis a.h.level
  if r.ckks then
    let x := ctOf r a
    let y := ctOf r b
    let m := mulPoly r.logN q
    (m x.1 y.1, zipLimbs q addQ (m x.1 y.2) (m x.2 y.1), m x.2 y.2)
  else
    let l := cutLimbs r.logN (wordsOf (freeBody r 3 a.h.level 0x3C [a.body, b.body]))
    let n := a.h.level + 1
    (l.take n, (l.drop n).take n, (l.drop (2 * n)).take n)

/-- MUL: the tensor product, its third part switched with the RELIN key. SCALE wraps at 16 bits.
(DESIGN CHOICE, log entries 18 and 173) -/
def mulPlan (i : Image) (l : List Operand) : ObjectOp :=
  let a := opNth l 0
  let b := opNth l 1
  let r := setOf i a.h
  { agree := a.h.fmt == 1 && b.h.fmt == 1 && agreeing a.h b.h false
    keys := [⟨1, 0, a.h.level⟩]
    out := { a.h with
      noise := noiseAdd (min 255 (max a.h.noise b.h.noise + r.incMul)) r.incKs
      scale := if a.h.ckks then (a.h.scale + b.h.scale) % 2 ^ 16 else a.h.scale }
    body := fun kb =>
      if a.h.ntt != b.h.ntt then freeBody r 2 a.h.level 0x3C [a.body, b.body]
      else
        let t := tensor r a b
        let y := keySwitch r.logN (r.basis a.h.level) r.special (keyNth kb 0) t.2.2
        ctBytes r a.h.level a.h.ntt (ctAdd (r.basis a.h.level) (t.1, t.2.1) y) }

def execCtMul (u : UnitId) (f : OFmt) (s : State) : Out :=
  clusterOp u f f.wf (fun s => objectOp u (s.x u f.xd).toNat [(s.x u f.xa).toNat, (s.x u f.xb).toNat] mulPlan s) s

/-- ROTATE and CONJUGATE: the automorphism on both parts, then the key switch of part 1. -/
def galoisPlan (kind galois : Nat) (i : Image) (l : List Operand) : ObjectOp :=
  let a := opNth l 0
  let r := setOf i a.h
  { agree := a.h.fmt == 1
    keys := [⟨kind, galois, a.h.level⟩]
    out := { a.h with noise := noiseAdd a.h.noise r.incKs }
    body := fun kb => ctBytes r a.h.level a.h.ntt
      (ctAuto r.logN galois (r.basis a.h.level) r.special (keyNth kb 0) (ctOf r a)) }

def execCtRot (u : UnitId) (f : OFmt) (s : State) : Out :=
  clusterOp u f f.wf (fun s => objectOp u (s.x u f.xd).toNat [(s.x u f.xa).toNat]
    (fun i l => galoisPlan 2 (galoisOf (opNth l 0).h.logN f.p24.toInt) i l) s) s

def execCtConj (u : UnitId) (f : OFmt) (s : State) : Out :=
  clusterOp u f f.wf (fun s => objectOp u (s.x u f.xd).toNat [(s.x u f.xa).toNat]
    (fun i l => galoisPlan 3 (2 * 2 ^ (opNth l 0).h.logN - 1) i l) s) s

/-- round(256 · log2 q). -/
def scaleStep (q : Nat) : Nat := Nat.log2 (2 * q ^ 512) / 2

/-- RESCALE: CKKS, above level 0: both parts are divided by q_ℓ, their limb ℓ converted to each other prime. SCALE wraps below zero.
(DESIGN CHOICE, log entries 18 and 173) -/
def rescalePlan (i : Image) (l : List Operand) : ObjectOp :=
  let a := opNth l 0
  let r := setOf i a.h
  let q := r.q.getD a.h.level 1
  { agree := a.h.fmt == 1 && a.h.ckks && decide (1 ≤ a.h.level)
    keys := []
    out := { a.h with
      level := a.h.level - 1, noise := noiseAdd (a.h.noise - quarterLogFloor q) r.incRs
      scale := (a.h.scale + 2 ^ 16 - scaleStep q % 2 ^ 16) % 2 ^ 16, bodyBytes := Policy.bodyBytes r 2 (a.h.level - 1) }
    body := fun _ => ctBytes r (a.h.level - 1) a.h.ntt
      (ctMap (modDown (r.basis (a.h.level - 1)) ((r.basis a.h.level).drop a.h.level)) (ctOf r a)) }

def execCtRescale (u : UnitId) (f : OFmt) (s : State) : Out :=
  clusterOp u f f.wf (fun s => objectOp u (s.x u f.xd).toNat [(s.x u f.xa).toNat] rescalePlan s) s

/-- LEVEL_DROP: limbs 0 to ℓ′ of both parts. -/
def dropPlan (level : Nat) (i : Image) (l : List Operand) : ObjectOp :=
  let a := opNth l 0
  let r := setOf i a.h
  let part := 4 * 2 ^ r.logN * (a.h.level + 1)
  let keep := 4 * 2 ^ r.logN * (level + 1)
  { agree := a.h.fmt == 1 && decide (level < a.h.level)
    keys := []
    out := { a.h with level := level, bodyBytes := Policy.bodyBytes r 2 level }
    body := fun _ => a.body.take keep ++ (a.body.drop part).take keep }

def execCtDrop (u : UnitId) (f : OFmt) (s : State) : Out :=
  clusterOp u f f.wf (fun s => objectOp u (s.x u f.xd).toNat [(s.x u f.xa).toNat] (dropPlan f.p24.toNat) s) s

/-- NTT and INTT of an object in the other form. -/
def formPlan (op : Nat) (ntt : Bool) (i : Image) (l : List Operand) : ObjectOp :=
  let a := opNth l 0
  let r := setOf i a.h
  { agree := a.h.fmt == 1 || a.h.fmt == 2
    keys := []
    out := { a.h with ntt := ntt }
    body := fun _ => if a.h.ntt == ntt then freeBody r a.h.parts a.h.level op [a.body]
      else mapLimbs r a.h.level (fun q psi => if ntt then nttLimb q psi r.logN else inttLimb q psi r.logN) a.body }

def execCtNtt (u : UnitId) (f : OFmt) (s : State) : Out :=
  clusterOp u f f.wf (fun s => objectOp u (s.x u f.xd).toNat [(s.x u f.xa).toNat] (formPlan 0x41 true) s) s

def execCtIntt (u : UnitId) (f : OFmt) (s : State) : Out :=
  clusterOp u f f.wf (fun s => objectOp u (s.x u f.xd).toNat [(s.x u f.xa).toNat] (formPlan 0x42 false) s) s

/-- SLOT_SUM: LOG_S times, the sum of the ciphertext and its rotation by 2^i, from i = 0. -/
def slotSumPlan (i : Image) (l : List Operand) : ObjectOp :=
  let a := opNth l 0
  let r := setOf i a.h
  let n := if a.h.ckks then a.h.logN - 1 else a.h.logN
  { agree := a.h.fmt == 1
    keys := (List.range n).map fun j => ⟨2, galoisOf a.h.logN (2 ^ j : Nat), a.h.level⟩
    out := { a.h with noise := (List.range n).foldl (fun x _ => noiseAdd x (noiseAdd x r.incKs)) a.h.noise }
    body := fun kb => ctBytes r a.h.level a.h.ntt ((List.range n).foldl (fun x j =>
      ctAdd (r.basis a.h.level) x
        (ctAuto r.logN (galoisOf a.h.logN (2 ^ j : Nat)) (r.basis a.h.level) r.special (keyNth kb j) x)) (ctOf r a)) }

def execCtSlotsum (u : UnitId) (f : OFmt) (s : State) : Out :=
  clusterOp u f f.wf (fun s => objectOp u (s.x u f.xd).toNat [(s.x u f.xa).toNat] slotSumPlan s) s

/-! ### CT_FLOOD (R106) -/

/-- The draws of ciphertext `j` (R320): release noise per slot, u, e_0 with the flooding term, and e_1; and the number of draws
and of repeated attempts. -/
def floodDraws (c : RoundCtx) (r : RingSet) (j : Nat) : (List Int × List Int × List Int × List Int) × Nat × Nat :=
  let p := c.policy
  let n := 2 ^ r.logN
  let slots := Policy.slotsOf r
  let z := drawRun c 0 (j * slots) (min slots (p.stretchLen - j * slots))
  let e0 := drawRun c 1 (2 * j * n) n
  let e1 := drawRun c 1 ((2 * j + 1) * n) n
  let uu := drawRun c 2 (j * n) n
  let fl := drawRun c 3 (j * n) n
  let l := [z, uu, e0, e1, fl]
  ((z.1, uu.1, e0.1.zipWith (· + ·) fl.1, e1.1), (l.map fun x => x.1.length).sum, (l.map (·.2)).sum)

/-- The polynomial that encodes noise, slots beyond those given taking zero: z mod t in BFV; z · 2^(−f) at the ciphertext's SCALE in
CKKS. The slot transform is free. (DESIGN CHOICE, log entry 19) -/
def encodeNoise (r : RingSet) (h : ObjHeader) (f : Nat) (z : List Int) : List Int :=
  let slots := z ++ List.replicate (Policy.slotsOf r - z.length) 0
  (List.range (2 ^ r.logN)).map (if r.ckks then Config.encodedCoef [1, r.logN, h.scale, f] slots
    else Config.encodedCoef [0, r.logN, r.t] (slots.map (· % r.t)))

/-- The encryption of `m` under the PUBLIC key: c = (pk_0 · u + e_0 + m, pk_1 · u + e_1) (R106). -/
def encryptUnder (r : RingSet) (level : Nat) (pk : KeyView) (m u e0 e1 : List Int) : Ct :=
  let q := r.basis level
  let lift := liftInts q
  let pkPart (t : Nat) : Limbs := toCoef r.logN q ((List.range (level + 1)).map (pk.limb r.logN 0 t))
  let part (t : Nat) (e : Limbs) : Limbs := zipLimbs q addQ (mulPoly r.logN q (pkPart t) (lift u)) e
  (part 0 (zipLimbs q addQ (lift e0) (lift m)), part 1 (lift e1))

/-- The accumulated ciphertext takes the encrypted noise and flooding; the payload in staging takes the noised ciphertext.
(DEDUCED, log entries 57 and 168) -/
def floodEffect (u : UnitId) (f : OFmt) (s : State) : State :=
  let k := opCtx f
  let c := s.ctx u.part k
  let j := f.p24.toNat
  let dst := (s.x u f.xd).toNat
  if c.phase = .free then latchAll u .invalidState s
  else if !c.inStepTwo then s
  else match readObjects u [dst] s with
    | (s, none) => s
    | (s, some l) =>
      let a := opNth l 0
      let i := s.imageOf u.part
      let r := setOf i a.h
      let ((z, uu, e0, e1), n, retry) := floodDraws c r j
      let o : ObjectOp :=
        { agree := a.h.fmt == 1
          keys := [⟨6, 0, a.h.level⟩]
          out := { a.h with noise := noiseAdd (noiseAdd a.h.noise (4 * c.policy.floodBits)) r.incEnc }
          body := fun kb => ctBytes r a.h.level a.h.ntt (ctAdd (r.basis a.h.level) (ctOf r a)
            (encryptUnder r a.h.level (keyNth kb 0) (encodeNoise r a.h c.policy.decodeF z) uu e0 e1)) }
      let keys := o.keys.map (findKey s u.part a.h.keyset a.h.paramSet)
      match operandStatus s u.part l o keys with
      | .ok => match streamKeys u (keys.filterMap id) s with
        | (s, none) => s
        | (s, some (.error e)) => failOp u true [(dst, o.out)] e s
        | (s, some (.ok kb)) =>
          let b := { o.out with poisoned := false }.bytes ++ o.body kb
          let s := opWriteMem u dst b false s
          let s := if clusterRuns s u then unitStore u (stageKey u.part.val k.val (j * b.length)) b false s else s
          if clusterRuns s u then
            addDelta u { ctx := k, samples := n, retry := retry, cover := [(6, j, 1)] }
              (State.onCtx u.part k (fun c => { c with enc := { c.enc with nbRelease := max c.enc.nbRelease o.out.noise } }) s)
          else s
      | st => failOp u false [(dst, a.h)] st s

def execCtFlood (u : UnitId) (f : OFmt) (s : State) : Out :=
  issueDraw u f.sync (opCtx f) true (clusterOp u f f.wf (floodEffect u f)) s

/-! ### CT_COMBINE (R107, R108) -/

/-- The coefficients of x_j as integers in (−Q/2, Q/2], and Q (R108). -/
def reconstruct (q : Basis) (x : Limbs) : List Int × Nat :=
  let prod := (q.map (·.1)).foldl (· * ·) 1
  ((List.range (x.headD []).length).map fun n => centred (crt ((q.zip x).map fun e => (e.2.getD n 0, e.1.1))).1 prod, prod)

/-- X · 2^(−s/256) in FP64; the power is exact for whole exponents alone. -/
def scaleCoef (s : Nat) (x : Int) : Nat :=
  if s % 256 = 0 then (Fp.ofInt x (s / 256)).toBits fp64 else Config.scaledCoef x s % 2 ^ 64

/-- The decoded slots of x_j, as FP64 encodings (R108): in BFV round(t · X / Q) mod t, the inverse batching transform, lifted to
(−t/2, t/2]; in CKKS the real parts of the inverse canonical embedding. The two transforms are free.
(DESIGN CHOICE, log entry 19) -/
def decodedSlots (r : RingSet) (scale level : Nat) (x : Limbs) : Nat → Nat :=
  let (l, prod) := reconstruct (r.basis level) x
  if r.ckks then
    let v := l.map (scaleCoef scale)
    fun n => Config.embedSlot v n % 2 ^ 64
  else
    let v := l.map fun c => (roundDiv (r.t * c) prod % r.t).toNat
    fun n => (Fp.ofInt (centred (Config.batchSlot r.t v n % r.t) r.t) 0).toBits fp64

/-- x_j = c0_j + Σ λ_k · d_(k,j) from the source and the summed shares at X[XB], which stand in the form of FLAGS bit 0, is decoded to
X[XD]. (DEDUCED, log entry 57) -/
def combineEffect (u : UnitId) (f : OFmt) (s : State) : State :=
  let k := opCtx f
  let c := s.ctx u.part k
  let j := f.p24.toNat
  if c.phase = .free then latchAll u .invalidState s
  else match readObjects u [(s.x u f.xa).toNat] s with
    | (s, none) => s
    | (s, some l) =>
      let a := opNth l 0
      let r := setOf (s.imageOf u.part) a.h
      let slots := Policy.slotsOf r
      let n := min slots (c.policy.stretchLen - j * slots)
      let dst := (s.x u f.xd).toNat
      let one := State.onCtx u.part k fun c => { c with enc := { c.enc with
        decoded := if c.enc.decoded.contains j then c.enc.decoded else j :: c.enc.decoded } }
      let fail (st : Status) (s : State) : State :=
        let s := opWriteMem u dst ((List.range (8 * n)).map (Config.freeByte s.draws)) true { s with draws := s.draws + 1 }
        if clusterRuns s u then one (latchAll u st (noteFailure u.part (s.unitOf u).pos st k s)) else s
      if !a.clean then fail .poisonedInput s
      else if !a.shape || a.h.fmt != 1 || a.h.level != c.policy.level || a.h.paramSet != c.policy.paramSet then fail .levelMismatch s
      else if a.h.keyset ≠ c.policy.keysetId then fail .keyMismatch s
      else match unitRead u false (s.x u f.xb).toNat (Policy.bodyBytes r 1 a.h.level) s with
        | (s, none) => s
        | (s, some (sh, q)) =>
          if q then fail .poisonedInput s
          else
            let q := r.basis a.h.level
            let limbs := cutLimbs r.logN (wordsOf sh)
            let x := zipLimbs q addQ (partCoef r a 0) (if c.policy.encNtt then toCoef r.logN q limbs else limbs)
            let slot := decodedSlots r a.h.scale a.h.level x
            let s := opWriteMem u dst ((List.range n).flatMap fun i => leBytes 8 (slot i)) false s
            when (clusterRuns s u) one s

def execCtCombine (u : UnitId) (f : OFmt) (s : State) : Out := clusterOp u f f.wf (combineEffect u f) s

end Sys2Proof.Machine
end

