-- ==== Sys2Proof/Machine/Admission.lean ====
section
/-! DEFINITION. Admission: the joins of the package (R13, R14), the check of R276 and its repetition when a join or a PCIe
port loses bandwidth (R14, R347). -/

namespace Sys2Proof.Machine

/-! ### Joins (R13) -/

/-- A join: C*n* with its memory-side die, a pair of memory-side dies, a link die with its memory-side die, or H with one. -/
inductive Join where
  | cm (d : Die)
  | mm (i : Fin 6)
  | lm (k : Fin 4)
  | hm (k : Fin 4)
  deriving DecidableEq, Repr

/-- The first module of a join and how many it has. -/
def Join.modules : Join → Nat × Nat
  | .cm d => (4 * d.val, 4)
  | .mm i => (32 + 2 * i.val, 2)
  | .lm k => (44 + 2 * k.val, 2)
  | .hm k => (52 + k.val, 1)

/-- The pair of memory-side dies of an M–M join. -/
def pairOf (i : Fin 6) : Nat × Nat := #v[(0, 1), (0, 2), (0, 3), (1, 2), (1, 3), (2, 3)][i]

/-- The join a module belongs to. -/
def joinOf (m : UcieModule) : Join :=
  if h : m.val < 32 then .cm ⟨m.val / 4, by omega⟩
  else if h : m.val < 44 then .mm ⟨(m.val - 32) / 2, by omega⟩
  else if h : m.val < 52 then .lm ⟨(m.val - 44) / 2, by omega⟩
  else .hm ⟨m.val - 52, by omega⟩

def allJoins : List Join :=
  (List.finRange 8).map .cm ++ (List.finRange 6).map .mm ++ (List.finRange 4).map .lm ++ (List.finRange 4).map .hm

/-- The modules of a join that carry traffic. (DEDUCED, log entry 78) -/
def joinLive (s : State) (j : Join) : Nat :=
  ((List.range j.modules.2).filter fun i =>
    if h : j.modules.1 + i < 56 then (s.ucie[j.modules.1 + i]).trained && !(s.ucie[j.modules.1 + i]).retired else false).length

/-- GB/s per direction that reservations may take of a join: 480 of the 512 of an M–M join (R276), falling by the share of
each module lost (R14); the whole of the others. (DEDUCED, log entry 78) -/
def joinCap (s : State) (j : Join) : Nat :=
  match j with
  | .mm _ => 240 * joinLive s j
  | _ => 256 * joinLive s j

/-! ### What a reservation charges (R276) -/

def PartResv.dies (r : PartResv) : List Die := (List.finRange 8).filter fun d => r.dieMask.getLsbD d.val

/-- Whether memory-side die `j` serves a die of the partition. -/
def PartResv.servedBy (r : PartResv) (j : Nat) : Bool := r.dies.any fun d => d.val / 2 == j

/-- The ports of link die k carry this much of the reservation. -/
def PartResv.linkLoad (r : PartResv) (k : Nat) : Nat := r.portTotal (2 * k) + r.portTotal (2 * k + 1)

/-- The charge of a join. -/
def PartResv.joinLoad (r : PartResv) : Join → Nat
  | .mm i =>
    let (a, b) := pairOf i
    (if r.servedBy b then r.linkLoad a else 0) + (if r.servedBy a then r.linkLoad b else 0)
  | .cm d => if r.dies.contains d then r.memBw / max r.dies.length 1 else 0
  | .lm k => r.linkLoad k.val
  | .hm k => if r.servedBy k.val then r.pcieBw else 0

/-- The reservation fits every join beside the others: only the joins it uses are judged. -/
def fitsJoins (s : State) (others : List PartResv) (r : PartResv) : Bool :=
  allJoins.all fun j => r.joinLoad j == 0 || decide (((others.map fun o => o.joinLoad j).sum + r.joinLoad j) ≤ joinCap s j)

/-- A sub-port's capacity by the port's MODE. -/
def subCap (x : PortState) (b : Nat) : Nat :=
  if x.disabled then 0 else match x.mode.toNat, b with
    | 1, 0 => 200
    | 2, _ => 100
    | _, _ => 0

def fitsPorts (s : State) (others : List PartResv) (r : PartResv) : Bool :=
  (List.finRange 8).all fun q => (List.range 2).all fun b =>
    let mine := r.portBw.toList.getD (2 * q.val + b) 0
    mine == 0 || decide (((others.map fun o => o.portBw.toList.getD (2 * q.val + b) 0).sum + mine) ≤ subCap s.ports[q] b)

def fitsPcie (others : List PartResv) (r : PartResv) (cap : Nat) : Bool :=
  decide (((others.filter fun o => o.pciePort == r.pciePort).map PartResv.pcieBw).sum + r.pcieBw ≤ cap)

/-- The reservations of every partition that exists. -/
def reservations (s : State) : List PartResv := (s.parts.toList.filter fun x => x.phase != .absent).map PartState.resv

/-- Check 8 of R275. -/
def admits (s : State) (r : PartResv) : Bool :=
  let os := reservations s
  r.portBw.toList.any (· != 0) && fitsPorts s os r && fitsJoins s os r
    && fitsPcie os r (if (s.hub.links[r.pciePort]).inL0 then (s.hub.links[r.pciePort]).capacity else 0)
    && decide (r.memBw ≤ 330 * r.dies.length)

/-- The partitions whose reservations no longer fit. Where each fits alone and only the sum passes the reduced join, R14 does
not say which partition degrades: the model judges them in ascending order, each beside those before it that still fit.
(DESIGN CHOICE, log entry 151) -/
def unfit (s : State) : List Part → List PartResv → List Part
  | [], _ => []
  | p :: t, kept =>
    if !s.exists_ p then unfit s t kept
    else
      let r := (s.part p).resv
      let l := s.hub.links[r.pciePort]
      if fitsJoins s kept r && (!l.inL0 || fitsPcie kept r l.capacity) then unfit s t (kept ++ [r]) else p :: unfit s t kept

/-- The check repeated after a loss (R14, R276, R347). -/
def recheck (s : State) : State := forAll (unfit s (List.finRange 8) []) degradeSoon s

end Sys2Proof.Machine
end

