-- ==== Sys2Proof/Machine/Ingest.lean ====
section
/-! DEFINITION. The ingest sequencer: the mode's checks of a completed message (R51, R71, R95), stamping (R24), ingest-ring
doorbells (R365) and the release of what a message occupied (R239, R366). -/

namespace Sys2Proof.Machine

/-- A free slot of a round's MODE_STAGE. -/
def freeStage (s : State) (p : Part) (k : Ctx) : Option Nat :=
  (modeSlots s p k).find? fun a => !(tget (s.part p).rxt.poolSlots k.val []).contains a

/-- The pool entry a tag matches: positions 0 to 3 in turn. -/
def poolCtx (s : State) (p : Part) (tag : U64) : Option Ctx :=
  (List.finRange 4).find? fun k => (s.ctx p k).phase != .free && poolMatches (s.ctx p k).policy tag

/-! ### The mode's checks -/

/-- R51. -/
def maskedMsgOk (q : Policy) (contrib len : Nat) (b : Bytes) : Bool :=
  let g := fieldLE b 4 4
  fieldLE b 0 4 == contrib && fieldLE b 8 4 == q.roundId % 2 ^ 32 && fieldLE b 12 4 == q.stretchId && decide (g < q.segments)
    && len == 16 + 4 * q.segWords g && decide (contrib < q.rosterLen) && contrib % q.groupSize == q.groupRank

/-- R71. -/
def sharedMsgOk (q : Policy) (contrib len : Nat) (b : Bytes) : Bool :=
  let form := fieldLE b 4 1
  fieldLE b 0 4 == contrib && decide (form < 2) && fieldLE b 5 1 == q.partyIndex && zerosAt b 6 2
    && fieldLE b 8 4 == q.roundId % 2 ^ 32 && fieldLE b 12 4 == q.stretchId
    && len == (if form = 1 then 80 else 48 + 8 * (q.wireLen + q.proofLen))
    && (form == 1 || (List.range (q.wireLen + q.proofLen)).all fun i => decide (fieldLE b (48 + 8 * i) 8 < goldilocks))

/-- Every word of a body lies below its limb's prime. -/
def bodyInRange (r : RingSet) (level : Nat) (body : Bytes) : Bool :=
  (List.range (body.length / 4)).all fun i =>
    decide (fieldLE body (4 * i) 4 < r.q.getD (i / 2 ^ r.logN % (level + 1)) 0)

/-- R95. (DEDUCED, log entry 101) -/
def encryptedMsgOk (q : Policy) (rings : List RingSet) (contrib len : Nat) (b : Bytes) : Bool :=
  match rings[q.paramSet]?, ObjHeader.parse (fieldB b 16 64) with
  | some r, some h =>
    let parts := if q.combine then 1 else 2
    fieldLE b 0 4 == contrib && fieldLE b 8 4 == q.roundId % 2 ^ 32 && fieldLE b 12 4 == q.stretchId
      && decide (fieldLE b 4 4 < q.ctCount)
      && (if q.combine then inRange 1 q.maxCohort contrib else decide (contrib < q.maxCohort))
      && h.fmt == q.tagKind && h.paramSet == q.paramSet && h.level == q.level && h.keyset == q.keysetId && h.parts == parts
      && h.ntt == q.encNtt && !h.poisoned && (q.combine || decide (h.noise ≤ q.maxInNoise))
      && h.bodyBytes == Policy.bodyBytes r parts q.level && len == 80 + h.bodyBytes && bodyInRange r q.level (b.drop 80)
  | _, _ => false

def messageOk (s : State) (p : Part) (k : Ctx) (tag : U64) (len : Nat) (b : Bytes) : Bool :=
  let q := (s.ctx p k).policy
  match q.mode with
  | .masked => maskedMsgOk q (tagContrib tag) len b
  | .shared => sharedMsgOk q (tagContrib tag) len b
  | .encrypted => encryptedMsgOk q (s.imageOf p).rings (tagContrib tag) len b

/-- The mode's counter of messages not stamped. -/
def countMalformed (p : Part) (k : Ctx) : State → State :=
  State.onCtx p k fun c => match c.policy.mode with
    | .masked => { c with masked := { c.masked with malformed := sat32 c.masked.malformed } }
    | .shared => { c with shared := { c.shared with malformed := sat32 c.shared.malformed } }
    | .encrypted => { c with enc := { c.enc with malformed := sat32 c.enc.malformed } }

/-! ### Stamping (R24) -/

/-- The ORDER entry of a contribution (R259). -/
def orderEntry (src : StampSource) (len : Nat) : OrderEntry := match src with
  | .conn c m => ⟨1, BitVec.ofNat 24 c, m, BitVec.ofNat 32 len⟩
  | .ring r i => ⟨2, BitVec.ofNat 24 r.val, i, BitVec.ofNat 32 len⟩
  | .forwarded => ⟨3, 0, 0, BitVec.ofNat 32 len⟩

/-- A message is stamped with the next ingest sequence number and a stamping beat. While the pair replays, the message goes
into the log, and re-enactment takes it from there (R267). -/
def stampNow (p : Part) (k : Ctx) (tag : U64) (beat va len : Nat) (b : Bytes) (src : StampSource) (s : State) : State :=
  let q := (s.ctx p k).policy
  let t : Stamp := {
    seq := (s.part p).ingestSeq, beat := beat, ctx := k, contrib := tagContrib tag
    index := if q.mode = .shared then 0 else fieldLE b 4 4
    msgVA := va, length := len
    noise := if q.mode = .encrypted then fieldLE b 21 1 else 0
    source := src }
  let s := State.onPart p (fun x => { x with stamps := x.stamps ++ [t], ingestSeq := x.ingestSeq + 1 }) s
  let s := logRecordAt p (beat + (s.part p).delay) 1 t.seq b s
  if (s.part p).twin.phase == .replaying then
    freeSource p k va src (State.onPart p (fun x => { x with stamps := x.stamps.filter (· != t) }) s)
  else s

/-- A completed message of a round: it is discarded under the mode's checks, stamped, or kept until ORDER names it. -/
def contribute (p : Part) (k : Ctx) (tag : U64) (va len : Nat) (b : Bytes) (src : StampSource) (s : State) : State :=
  if !messageOk s p k tag len b then freeSource p k va src (countMalformed p k s)
  else if (s.part p).silent then
    State.onTwin p (fun w => { w with held := w.held ++ [⟨orderEntry src len, k, tag, va, src⟩] }) s
  else
    let s := if (s.part p).bound then State.onTwin p (fun w => { w with orderDue := w.orderDue ++ [orderEntry src len] }) s else s
    stampNow p k tag s.sys.beat va len b src s

/-! ### Ring doorbells (R365) -/

/-- One entry that a doorbell covers. (DEDUCED, log entry 101) -/
def takeEntry (p : Part) (r : Fin 4) (s : State) : State :=
  let i := (s.part p).ingest[r]
  let index := i.taken
  let va := i.va.toNat + index.toNat % 2 ^ i.logEntries * 2 ^ i.logEntryBytes
  let head := viewVA s p va 64 0
  let tag : U64 := BitVec.ofNat 64 (fieldLE head 0 8)
  let len := fieldLE head 8 4
  let s := State.onPart p (fun x => { x with ingest := vupd x.ingest r fun i => { i with taken := i.taken + 1 } }) s
  match poolCtx s p tag with
  | some k =>
    if zerosAt head 12 52 && decide (len ≤ 2 ^ i.logEntryBytes - 64) then
      contribute p k tag (va + 64) len (viewVA s p (va + 64) len 0) (.ring r index) s
    else drop index s
  | none => drop index s
where
  drop (index : U32) (s : State) : State :=
    freeEntry p r index (State.onPart p (fun x => { x with ingest := vupd x.ingest r fun i => { i with discards := sat32 i.discards } }) s)

def takeEntries (p : Part) (r : Fin 4) : Nat → State → State
  | 0, s => s
  | n + 1, s => takeEntries p r n (takeEntry p r s)

def writeIngDb (p : Part) (r : Fin 4) (v : U32) (s : State) : State :=
  let s := wake s
  let i := (s.part p).ingest[r]
  if i.enabled && doorbellOk i.db i.consumed v i.logEntries then
    takeEntries p r (fwd i.taken v) (State.onPart p (fun x => { x with ingest := vupd x.ingest r fun i => { i with db := v } }) s)
  else dbDiscard (.part p) s

/-- R365: an ingest doorbell. -/
def execIngDb (p : Part) (r : Fin 4) (value : U32) (s : State) : Out := .next (partWrite p (writeIngDb p r value) s)

end Sys2Proof.Machine
end

