-- ==== Sys2Proof/Machine/Masked.lean ====
section
/-! DEFINITION. Masked mode at the close: classification (R54, R55), ROUND_UNMASK and its expansion (R56 to R59), and the
hand-off and merge of a reduction group (R62). -/

namespace Sys2Proof.Machine

/-! ### The accumulator in memory -/

/-- Bytes changed in place: the marks of their lines stay as they are. (DEDUCED, log entry 95) -/
def deviceUpdate (p : Part) (va : Nat) (b : Bytes) (s : State) : State :=
  (pageSplit va b.length).foldl (fun t (a, n) => match s.leafAt p a with
    | some e => if leafType e = 2 then match s.leafKey p e a with
        | some k => t.onStore fun m => { m with cells := cellsPut m.cells k ((b.drop (a - va)).take n) }
        | none => t else t
    | none => t) s

/-- Words from element `first` of the masked accumulator on, combined modulo 2^32 with `b`. -/
def accCombine (g : Nat → Nat → Nat) (p : Part) (k : Ctx) (first : Nat) (b : Bytes) (s : State) : State :=
  let va := (accRange s p k).1 + 4 * first
  deviceUpdate p va (wordsWith g (deviceRead s p va b.length) b) s

def plus32 (a b : Nat) : Nat := (a + b) % 2 ^ 32
def minus32 (a b : Nat) : Nat := (a + 2 ^ 32 - b) % 2 ^ 32

/-! ### ROUND_UNMASK (R56, R57) -/

/-- The record at a position of the list. -/
def seedRec (b : Bytes) (i : Nat) : SeedRec :=
  let r := fieldB b (48 * i) 48
  ⟨fieldLE r 0 1 == 1, fieldLE r 4 4, fieldLE r 8 4, Crypto.of256 (fieldB r 16 32)⟩

/-- Check 2. -/
def seedFormed (q : Policy) (b : Bytes) (i : Nat) : Bool :=
  let r := fieldB b (48 * i) 48
  decide (fieldLE r 0 1 < 2) && zerosAt r 1 3 && zerosAt r 12 4 && decide (fieldLE r 4 4 < q.rosterLen)
    && decide (fieldLE r 8 4 < q.rosterLen) && (fieldLE r 0 1 == 1 || fieldLE r 8 4 == 0)

/-- Check 3. -/
def seedNeeded (c : RoundCtx) (r : SeedRec) : Bool :=
  if r.pair then c.policy.neighbour r.owner r.peer && decide (segCount c r.owner < segCount c r.peer)
  else decide (1 ≤ segCount c r.owner)

/-- Two records supply one seed. -/
def sameSeed (a b : SeedRec) : Bool :=
  a.pair == b.pair && (if a.pair then (a.owner == b.owner && a.peer == b.peer) || (a.owner == b.peer && a.peer == b.owner)
    else a.owner == b.owner)

/-- The seed has been applied. -/
def seedApplied (m : MaskedCtx) (r : SeedRec) : Bool :=
  if r.pair then m.seedsPair.contains (r.owner, r.peer) || m.seedsPair.contains (r.peer, r.owner) else m.seedsSelf.contains r.owner

/-- Checks 2 to 4 on the records from position `i` on; `seen` holds the records before it. -/
def checkSeeds (c : RoundCtx) (b : Bytes) (queued : List SeedRec) : Nat → Nat → List SeedRec → Except (Nat × Status) (List SeedRec)
  | 0, _, seen => .ok seen
  | n + 1, i, seen =>
    let r := seedRec b i
    if !seedFormed c.policy b i then .error (i, .invalidCommand)
    else if !seedNeeded c r then .error (i, .policyRefused)
    else if seedApplied c.masked r || (queued ++ seen).any (sameSeed r) then .error (i, .invalidCommand)
    else checkSeeds c b queued n (i + 1) (seen ++ [r])

/-- A ROUND_UNMASK of the round completes without having been queued; `fail` is FAIL_RECORD. -/
def unmaskDone (p : Part) (k : Ctx) (c : Cmd) (st : Status) (fail : Nat) (s : State) : State :=
  roundDone p k c 0x12 st (State.onCtx p k (fun x => { x with masked := { x.masked with unmaskStatus := st, failRecord := fail } }) s)

/-- R57. The spec does not say which record's position a page failure of check 1 names: the model writes 0.
(DESIGN CHOICE, log entry 165) -/
def unmaskRound (c : Cmd) (r : RoundRef) (listVA : U64) (n : Nat) (p : Part) (s : State) : State :=
  withRound p c 0x12 r (fun k s =>
    let x := s.ctx p k
    if x.phase ≠ .closing ∨ x.policy.mode ≠ .masked then unmaskDone p k c .invalidState 0 s
    else if x.policy.groupRank ≠ 0 then unmaskDone p k c .policyRefused 0 s
    else if !x.masked.classified then unmaskDone p k c .notReady 0 s
    else
      let (s, l) := readOperand p listVA.toNat (48 * n) s
      match l with
      | .error e => unmaskDone p k c e 0 s
      | .ok b => match checkSeeds x b (x.masked.queue.flatMap (·.records)) n 0 [] with
        | .error (i, e) => unmaskDone p k c e i s
        | .ok l => State.onCtx p k (fun x => { x with masked := { x.masked with queue := x.masked.queue ++ [{ cmd := c, records := l }] } }) s) s

/-- A RECORD_COUNT out of range completes with INVALID_COMMAND (R358), which MSK_UNMASK_STATUS of the round it names shows (R63). -/
def malformedUnmask (c : Cmd) (r : RoundRef) (s : State) : State :=
  let s := partCommand c 0x12 false (fun _ => id) s
  match c.fn with
  | .f0 _ => s
  | .part p => if h : r.context.toNat < 4 then
      let k : Ctx := ⟨r.context.toNat, h⟩
      when ((s.part p).phase != .absent && (s.ctx p k).phase != .free && (s.ctx p k).policy.roundId == r.roundId.toNat)
        (State.onCtx p k fun x => { x with masked := { x.masked with unmaskStatus := .invalidCommand, failRecord := 0 } }) s
    else s

def execRoundUnmask (c : Cmd) (r : RoundRef) (listVA : U64) (recordCount : U32) (s : State) : Out :=
  .next (if inRange 1 65536 recordCount.toNat then
      roundCommand c 0x12 (.roundUnmask c r listVA recordCount) (unmaskRound c r listVA recordCount.toNat) s
    else malformedUnmask c r s)

/-! ### Expansion (R47, R55, R58) -/

/-- The segments a record covers: first, and one past the last. -/
def seedSegs (c : RoundCtx) (r : SeedRec) : Nat × Nat :=
  if r.pair then (segCount c r.owner, segCount c r.peer) else (0, segCount c r.owner)

/-- PRG(seed) over `n` words from element `first`, which starts a block. (DEDUCED, log entry 95) -/
def maskStream (q : Policy) (seed : U256) (first n : Nat) : Bytes :=
  let ctr := q.roundId * 2 ^ 64 + q.stretchId * 2 ^ 32 + first / 4
  ((List.range (ceilDiv n 4)).flatMap (prgBlock seed ctr)).take (4 * n)

/-- The elements a record covers: first, and how many. -/
def seedSpan (c : RoundCtx) (r : SeedRec) : Nat × Nat :=
  let first := (seedSegs c r).1 * c.policy.segLen
  (first, min ((seedSegs c r).2 * c.policy.segLen) c.policy.stretchLen - first)

/-- The keystream blocks a record takes. -/
def seedBlocks (c : RoundCtx) (r : SeedRec) : Nat := ceilDiv (seedSpan c r).2 4

/-- Blocks `at_` to `at_ + n − 1` of a record's keystream are applied to the accumulator. (DEDUCED, log entry 95) -/
def applyBlocks (p : Part) (k : Ctx) (r : SeedRec) (at_ n : Nat) (s : State) : State :=
  let c := s.ctx p k
  let (first, len) := seedSpan c r
  let e := first + 4 * at_
  let s := accCombine (if r.pair && decide (r.owner < r.peer) then plus32 else minus32) p k e
    (maskStream c.policy r.seed e (min (4 * n) (len - 4 * at_))) s
  State.onCtx p k (fun c => { c with masked := { c.masked with expandBytes := c.masked.expandBytes + 16 * n } }) s

/-- A record has been applied: it counts, and its seed can be supplied no more (R57, R58). -/
def MaskedCtx.supplied (r : SeedRec) (m : MaskedCtx) : MaskedCtx :=
  if r.pair then { m with needPair := m.needPair - 1, appliedPair := sat32 m.appliedPair, seedsPair := m.seedsPair ++ [(r.owner, r.peer)] }
  else { m with needSelf := m.needSelf - 1, appliedSelf := sat32 m.appliedSelf, seedsSelf := insertSet m.seedsSelf r.owner }

/-- The command at the head of the queue, with its progress, before the rest `t`. -/
def setUnmask (p : Part) (k : Ctx) (j : UnmaskJob) (t : List UnmaskJob) : State → State :=
  State.onCtx p k fun c => { c with masked := { c.masked with queue := j :: t } }

/-- Expand `n` keystream blocks for the queued commands in fetch order, record by record. A command completes with its last record.
`fuel` bounds the records and commands. -/
def expandSeeds (p : Part) (k : Ctx) : Nat → Nat → State → State
  | 0, _, s => s
  | fuel + 1, n, s =>
    let c := s.ctx p k
    match c.masked.queue with
    | [] => s
    | j :: t => match j.records[j.applied]? with
      | none => expandSeeds p k fuel n (complete j.cmd 0x12 .ok 0 j.applied (State.onCtx p k (fun c => { c with
          lastStatus := .ok, masked := { c.masked with queue := t, unmaskStatus := .ok, failRecord := 0 } }) s))
      | some r =>
        let left := seedBlocks c r - j.blocks
        if n < left then setUnmask p k { j with blocks := j.blocks + n } t (applyBlocks p k r j.blocks n s)
        else
          let s := applyBlocks p k r j.blocks left s
          let s := State.onCtx p k (fun c => { c with masked := c.masked.supplied r }) s
          expandSeeds p k fuel (n - left) (setUnmask p k { j with applied := j.applied + 1, blocks := 0 } t s)

/-- R58, R419: the keystream blocks of 16 bytes that the entries of a CLOSING beat issue have been expanded. A beat in which the
partition does not run issues none. (DEDUCED, log entry 166) -/
def execUnmaskExpansionComplete (p : Part) (w : ExpandWork) (s : State) : Out :=
  let c := s.ctx p w.ctx
  .next (when (c.phase == .closing && (s.part p).img.kind == .run)
    (expandSeeds p w.ctx (c.masked.queue.map fun j => j.records.length + 1).sum w.blocks) s)

/-! ### Reduction groups (R62) -/

/-- A member's transfer: the counts of its residue class, two bytes each, then its accumulator. (DEDUCED, log entry 96) -/
def handoffBytes (s : State) (p : Part) (k : Ctx) : Bytes :=
  let c := s.ctx p k
  let q := c.policy
  ((List.range q.rosterLen).filter fun i => i % q.groupSize == q.groupRank).flatMap (fun i => leBytes 2 (segCount c i))
    ++ deviceRead s p (accRange s p k).1 (4 * q.stretchLen)

/-- A masked round of a member of rank other than 0 that is closing. (DEDUCED, log entry 97) -/
def memberClosing (c : RoundCtx) : Bool := c.phase == .closing && c.policy.mode == .masked && c.policy.groupRank != 0

/-- R62: the first CLOSING beat after the final accumulation. -/
def execMemberHandoffSend (p : Part) (k : Ctx) (s : State) : Out :=
  let c := s.ctx p k
  .next (if memberClosing c && c.finalRun && !c.masked.handedOff then
      State.onCtx p k (fun c => { c with masked := { c.masked with handedOff := true } })
        (sendFabric p c.policy.maskConn 0 (handoffBytes s p k) s)
    else s)

/-- The leader takes a member's transfer. R62 adds a member's admitted count to PRT_ROUND_ADMITTED and R61 bounds the group by
GROUP_SIZE × MAX_COHORT; whether the merged count counts against the leader's own MAX_COHORT is not said. The model has one count,
so a transfer merged while the leader is OPEN can bring it to MAX_COHORT. (DESIGN CHOICE, log entry 167) -/
def mergeMember (m : MemberTransfer) (c : RoundCtx) : RoundCtx :=
  let q := c.policy
  let mine := m.counts.filter fun x => decide (x.1 < q.rosterLen) && x.1 % q.groupSize == m.rank.val && inRange 1 q.segments x.2
  { c with
    admitted := min (c.admitted + m.admitted) 0xFFFFFFFF
    included := min (c.admitted + m.admitted) 0xFFFFFFFF - c.excluded
    masked := { c.masked with
      merged := insertSet c.masked.merged m.rank.val
      counts := mine.foldl (fun t x => tput t x.1 x.2) c.masked.counts } }

/-- A transfer that has come takes effect. (DEDUCED, log entry 97) -/
def takeMember (p : Part) (k : Ctx) (m : MemberTransfer) (s : State) : State :=
  let c := s.ctx p k
  let q := c.policy
  if (c.phase == .opened || c.phase == .closing) && q.mode == .masked && q.groupRank == 0 && m.rank.val != 0
      && decide (m.rank.val < q.groupSize) && !c.masked.merged.contains m.rank.val then
    classifyRound p k (State.onCtx p k (mergeMember m)
      (accCombine plus32 p k 0 ((m.acc.take q.stretchLen).flatMap fun w => leBytes 4 w.toNat) s))
  else s

/-- The members of a residue class. (DEDUCED, log entry 97) -/
def classMembers (q : Policy) (rank : Nat) : List Nat := (List.range q.rosterLen).filter fun i => i % q.groupSize == rank

/-- The bytes of a transfer as it came. (DEDUCED, log entry 96) -/
def transferBytes (q : Policy) (m : MemberTransfer) : Bytes :=
  (classMembers q m.rank.val).flatMap (fun i => leBytes 2 (tget m.counts i 0)) ++ m.acc.flatMap fun w => leBytes 4 w.toNat

/-- A transfer read from its bytes. (DEDUCED, log entry 96) -/
def parseTransfer (q : Policy) (rank : Fin 16) (b : Bytes) : MemberTransfer :=
  let ids := classMembers q rank.val
  let counts := ((List.range ids.length).zip ids).map fun x => (x.2, fieldLE b (2 * x.1) 2)
  { rank := rank, counts := counts, admitted := (counts.filter fun x => decide (1 ≤ x.2)).length,
    acc := (List.range q.stretchLen).map fun i => BitVec.ofNat 32 (fieldLE b (2 * ids.length + 4 * i) 4) }

def execMemberTransferAck (p : Part) (k : Ctx) (s : State) : Out :=
  .next (when (memberClosing (s.ctx p k) && (s.ctx p k).masked.handedOff)
    (State.onCtx p k fun c => { c with
      excluded := c.admitted, included := 0, masked := { c.masked with merged := insertSet c.masked.merged c.policy.groupRank } }) s)

end Sys2Proof.Machine
end

