-- ==== Sys2Proof/Machine/Exchange.lean ====
section
/-! DEFINITION. The verifier exchange of shared mode (R70 to R82): the messages, what each beat of the exchange does, the
verdicts, and the close of a helper and of the leader. -/

namespace Sys2Proof.Machine

/-! ### Messages (R76) -/

def Verdict.code : Verdict → Nat
  | .accept => 0 | .proof => 1 | .timeout => 2 | .absent => 3

def Verdict.ofCode : Nat → Option Verdict
  | 0 => some .accept | 1 => some .proof | 2 => some .timeout | 3 => some .absent | _ => none

/-- PARAM_TAG. (DEDUCED, log entry 94) -/
def paramTag (q : Policy) : U128 :=
  Crypto.first128 (Crypto.sha256 (leBytes 8 q.roundId ++ leBytes 8 q.stretchBase ++ leBytes 8 q.stretchLen
    ++ q.modeParams.take 1 ++ [0] ++ q.modeParams.drop 2))

def xchgBody (q : Policy) : XchgBody → Nat × Bytes
  | .part j => (1, Crypto.bytes256 j ++ beBytes 16 (paramTag q).toNat)
  | .seed x => (2, Crypto.bytes256 x ++ zeroBytes 16)
  | .share v => (3, shareBytes v ++ zeroBytes 16)
  | .decide v => (4, leBytes 1 v.code ++ zeroBytes 47)
  | .done n d => (5, leBytes 4 n ++ zeroBytes 12 ++ Crypto.bytes256 d)

/-- The 64 bytes of a message. -/
def xchgBytes (q : Policy) (contrib : Nat) (b : XchgBody) : Bytes :=
  leBytes 1 (xchgBody q b).1 ++ leBytes 1 q.partyIndex ++ zeroBytes 2 ++ leBytes 4 contrib ++ leBytes 4 q.roundId
    ++ leBytes 4 q.stretchId ++ (xchgBody q b).2

/-- A message to one party. -/
def sendXchg (p : Part) (k : Ctx) (party contrib : Nat) (b : XchgBody) (s : State) : State :=
  sendFabric p ((s.ctx p k).policy.shareConn + party) 0 (xchgBytes (s.ctx p k).policy contrib b) s

def helpers (q : Policy) : List Nat := (List.range q.parties).filter (· != 0)

/-- A message to every helper. -/
def tellHelpers (p : Part) (k : Ctx) (contrib : Nat) (b : XchgBody) (s : State) : State :=
  forAll (helpers (s.ctx p k).policy) (fun j => sendXchg p k j contrib b) s

/-! ### Shares (R70, R72, R73) -/

/-- Element n of a share expansion. -/
def shareElem (q : Policy) (seed : U256) (contrib n : Nat) : Nat :=
  blockElem (Crypto.aes seed (beBytes 8 q.roundId ++ beBytes 3 contrib ++ beBytes 1 q.partyIndex ++ beBytes 4 n))

/-- The input and proof share of a message. -/
def shareElems (q : Policy) (contrib : Nat) (b : Bytes) : List Nat :=
  if fieldLE b 4 1 = 1 then (List.range (q.wireLen + q.proofLen)).map (shareElem q (Crypto.of256 (b.drop 48)) contrib)
  else (elemsOf (b.drop 48)).take (q.wireLen + q.proofLen)

/-- J_k of a message. -/
def jointPart (q : Policy) (contrib : Nat) (b : Bytes) : U256 :=
  Crypto.sha256 (ascii "GZ25JRP1" ++ leBytes 8 q.roundId ++ leBytes 4 q.stretchId ++ leBytes 4 contrib ++ leBytes 1 q.partyIndex
    ++ fieldB b 16 32 ++ b.drop 48)

/-- Keystream blocks that expanding a message takes: none for an explicit share (R72). -/
def shareBlocks (q : Policy) (b : Bytes) : Nat := if fieldLE b 4 1 = 1 then q.wireLen + q.proofLen else 0

/-- S*. -/
def jointSeed (q : Policy) (parts : Tbl U256) : U256 :=
  Crypto.sha256 (ascii "GZ25JRS1" ++ (List.range q.parties).flatMap fun j => Crypto.bytes256 (tget parts j 0))

/-- The party's own verifier share of a message under S*. -/
def ownShare (q : Policy) (seed : U256) (contrib : Nat) (b : Bytes) : VerifierShare :=
  let e := shareElems q contrib b
  let j := (jointRandomness q seed contrib).1
  verifierShare q (q.partyIndex == 0) (e.take q.wireLen) (e.drop q.wireLen) (j.take (q.gadgets + 1)) (j.getD (q.gadgets + 1) 0)

/-! ### What is known of an index -/

def onShared (p : Part) (k : Ctx) (f : SharedCtx → SharedCtx) : State → State := State.onCtx p k fun c => { c with shared := f c.shared }
def shareOf (s : State) (p : Part) (k : Ctx) (i : Nat) : ShareRec := tget (s.ctx p k).shared.index i {}
def onShare (p : Part) (k : Ctx) (i : Nat) (f : ShareRec → ShareRec) : State → State :=
  onShared p k fun x => { x with index := tupd x.index i {} f }

/-- SHR_EXPAND_BYTES rises by `n` keystream blocks that the exchange expands (R84). (DESIGN CHOICE, log entry 171) -/
def countExpansion (p : Part) (k : Ctx) (n : Nat) : State → State :=
  onShared p k fun x => { x with expandBytes := x.expandBytes + 16 * n }

/-- Keystream blocks of the joint randomness of a contributor (R73). -/
def jointBlocks (q : Policy) (seed : U256) (contrib : Nat) : Nat := (jointRandomness q seed contrib).2

/-- The bytes of a staged share. -/
def stagedBytes (s : State) (p : Part) (r : ShareRec) : Bytes := deviceRead s p r.stageVA r.stageLen

/-! ### Verdicts (R78 to R80) -/

/-- A rejection of the round posts one of its first 256 events. (DEDUCED, log entry 99) -/
def noteRejection (p : Part) (k : Ctx) (i : Nat) (v : Verdict) (s : State) : State :=
  let n := (s.ctx p k).shared.rejEvents
  let s := onShared p k (fun x => { x with rejEvents := x.rejEvents + 1 }) s
  if n < 256 then postRound p k .proofRejected .notice 2 (i ||| v.code <<< 24) s else s

def SharedCtx.count (v : Verdict) (x : SharedCtx) : SharedCtx := match v with
  | .accept => { x with accepted := sat32 x.accepted }
  | .proof => { x with rejProof := sat32 x.rejProof }
  | .timeout => { x with rejTimeout := sat32 x.rejTimeout }
  | .absent => { x with rejAbsent := sat32 x.rejAbsent }

/-- An index is decided: an accepted share is committed for accumulation, a rejected one discarded. (DEDUCED, log entry 99) -/
def settle (p : Part) (k : Ctx) (i : Nat) (v : Verdict) (s : State) : State :=
  let r := shareOf s p k i
  let s := onShared p k (SharedCtx.count v) (onShare p k i (fun r => { r with verdict := some v, staged := false }) s)
  if v = .accept then
    State.onPart p (fun x => { x with committed := x.committed ++ [⟨k, i, 0, r.stageVA, r.source, r.seq⟩] })
      (onShared p k (fun x => { x with acceptedSet := insertSet x.acceptedSet i }) s)
  else
    let s := when r.staged (freeSource p k r.stageVA r.source) s
    let s := State.onCtx p k (fun c =>
      if r.admittedAt.isSome then { c with excluded := c.excluded + 1, included := c.admitted - (c.excluded + 1) }
      else { c with bitmap := insertSet c.bitmap i }) s
    noteRejection p k i v s

/-- The leader decides, and tells every helper. -/
def decideIndex (p : Part) (k : Ctx) (i : Nat) (v : Verdict) (s : State) : State :=
  tellHelpers p k i (.decide v) (settle p k i v s)

/-- A helper acts on a DECIDE (R79). (DEDUCED, log entry 98) -/
def obeyVerdict (p : Part) (k : Ctx) (i : Nat) (v : Verdict) (s : State) : State :=
  let r := shareOf s p k i
  if r.verdict.isSome then s
  else if r.staged then settle p k i v s
  else if v = .accept ∨ r.admittedAt.isSome then s
  else State.onCtx p k (fun c => { c with
      bitmap := insertSet c.bitmap i, shared := { c.shared with decideUnadmitted := sat32 c.shared.decideUnadmitted } })
    (onShare p k i (fun r => { r with verdict := some v }) s)

/-- The leader compares a helper's DONE with its own count and digest (R82). (DEDUCED, log entry 99) -/
def compareDone (p : Part) (k : Ctx) (party n : Nat) (d : U256) (s : State) : State :=
  let x := (s.ctx p k).shared
  let s := onShared p k (fun x => { x with done := tput x.done party (n, d) }) s
  if n = x.accepted ∧ d = acceptDigest x.acceptedSet then s
  else postRound p k .poisonedInput .error (Config.openField 12) party
    (poisonRound p k (onShared p k (fun x => { x with mismatch := x.mismatch ||| BitVec.ofNat 4 (2 ^ party) }) s))

/-! ### A beat of the exchange (R77) -/

/-- One message of an earlier beat is processed in the beat that ends. -/
def processXchg (p : Part) (k : Ctx) (m : XchgIn) (s : State) : State :=
  let c := s.ctx p k
  let r := shareOf s p k m.contrib
  match m.body with
  | .part j => match r.verdict with
    | some v => sendXchg p k m.party m.contrib (.decide v) s
    | none =>
      let s := onShare p k m.contrib (fun r => { r with
        parts := tput r.parts m.party j
        partAt := if r.admittedAt.isNone && r.partAt.isNone then some m.beat else r.partAt }) s
      if r.admittedAt.isNone && decide (c.lastBeat < m.beat) then decideIndex p k m.contrib .absent s else s
  | .seed x =>
    if r.staged then
      sendXchg p k 0 m.contrib (.share (ownShare c.policy x m.contrib (stagedBytes s p r)))
        (countExpansion p k (jointBlocks c.policy x m.contrib) (onShare p k m.contrib (fun r => { r with seed := some x }) s))
    else s
  | .share v => if r.verdict.isSome then s else onShare p k m.contrib (fun r => { r with shares := tput r.shares m.party v }) s
  | .decide v => obeyVerdict p k m.contrib v s
  | .done n d => compareDone p k m.party n d s

/-- The leader decides an index whose verifier shares are all there (R75). -/
def judgeIndex (p : Part) (k : Ctx) (i : Nat) (s : State) : State :=
  let q := (s.ctx p k).policy
  let r := shareOf s p k i
  if r.verdict.isNone && (List.range q.parties).all fun j => (tfind r.shares j).isSome then
    decideIndex p k i (if proofAccepted (r.shares.map (·.2)) then .accept else .proof) s
  else s

/-- The leader forms S* once its own part, of an earlier beat, and every other are there. -/
def formSeeds (p : Part) (k : Ctx) (i : Nat) (s : State) : State :=
  let q := (s.ctx p k).policy
  let r := shareOf s p k i
  if r.verdict.isNone && r.staged && r.seed.isNone && (List.range q.parties).all fun j => (tfind r.parts j).isSome then
    let x := jointSeed q r.parts
    tellHelpers p k i (.seed x) <| countExpansion p k (jointBlocks q x i)
      (onShare p k i (fun r => { r with seed := some x, shares := tput r.shares 0 (ownShare q x i (stagedBytes s p r)) }) s)
  else s

/-- The own part of an index admitted at the end of an earlier beat; a helper's leaves as PART. -/
def ownPart (p : Part) (k : Ctx) (i : Nat) (s : State) : State :=
  let q := (s.ctx p k).policy
  let r := shareOf s p k i
  let due := match r.admittedAt with
    | some b => decide (b < s.beatOf p)
    | none => false
  if due && r.staged && r.verdict.isNone && (tfind r.parts q.partyIndex).isNone then
    let b := stagedBytes s p r
    let j := jointPart q i b
    let s := countExpansion p k (shareBlocks q b) <| onShare p k i (fun r => { r with parts := tput r.parts q.partyIndex j }) s
    if q.partyIndex = 0 then s else sendXchg p k 0 i (.part j) s
  else s

/-- Beats between a message's arrival and the beat whose end it is processed at: one, or D of a pair (R77, R260). -/
def xchgDelay (x : PartState) : Nat := if x.delay = 0 then 1 else x.delay

/-- What the beat that ends does of the exchange of one context. -/
def exchangeBeat (p : Part) (k : Ctx) (s : State) : State :=
  let c := s.ctx p k
  if c.policy.mode ≠ .shared ∨ !(c.phase == .opened || c.phase == .closing || c.phase == .closed) then s
  else
    let due (m : XchgIn) : Bool := decide (m.beat + xchgDelay (s.part p) ≤ s.beatOf p)
    let now := c.shared.inbox.filter due
    let s := onShared p k (fun x => { x with inbox := x.inbox.filter fun m => !due m }) s
    let s := forAll now (processXchg p k) s
    let ids := tkeys (s.ctx p k).shared.index
    let s := if c.policy.partyIndex = 0 then forAll ids (formSeeds p k) (forAll ids (judgeIndex p k) s) else s
    forAll ids (ownPart p k) s

/-! ### Arrival (R76) -/

/-- The context whose round a message names. -/
def xchgCtx (s : State) (p : Part) (h : XchgHead) : Option Ctx :=
  (List.finRange 4).find? fun k =>
    let c := s.ctx p k
    c.phase != .free && c.policy.mode == .shared && c.policy.roundId % 2 ^ 32 == h.roundLow.toNat && c.policy.stretchId == h.stretchId.toNat

/-- The context a message that matches none is counted in: the first whose policy names the connection. -/
def xchgNear (s : State) (p : Part) (h : XchgHead) : Option Ctx :=
  (List.finRange 4).find? fun k => (s.ctx p k).phase != .free && (s.ctx p k).policy.mode == .shared
    && (namedConns (s.ctx p k).policy).contains h.conn

/-- The message comes from the party of its connection, and its type goes to this party. (DEDUCED, log entry 98) -/
def xchgFrom (q : Policy) (h : XchgHead) (b : XchgBody) : Bool :=
  let toLeader := match b with
    | .part _ => true
    | .share _ => true
    | .done _ _ => true
    | .seed _ => false
    | .decide _ => false
  decide (h.sender.toNat < q.parties) && h.sender.toNat != q.partyIndex && h.conn == q.shareConn + h.sender.toNat
    && (if toLeader then q.partyIndex == 0 else h.sender == 0)

/-- A message is discarded; the first of a round posts an event. (DEDUCED, log entry 98) -/
def discardXchg (p : Part) (k : Option Ctx) (s : State) : State := match k with
  | none => s
  | some k =>
    let first := (s.ctx p k).shared.xchgDiscard == 0
    when first (postRound p k .ok .notice 7 0) (onShared p k (fun x => { x with xchgDiscard := sat32 x.xchgDiscard }) s)

/-- A message that arrived in `beat`. -/
def xchgArrive (p : Part) (beat : Nat) (h : XchgHead) (tag : Option U128) (b : XchgBody) (s : State) : State :=
  match xchgCtx s p h with
  | none => discardXchg p (xchgNear s p h) s
  | some k =>
    let q := (s.ctx p k).policy
    let tagOk := match tag with
      | some t => t == paramTag q
      | none => true
    if xchgFrom q h b && tagOk && fabricConn s p h.conn then
      onShared p k (fun x => { x with inbox := x.inbox ++ [⟨beat, h.sender.toNat, h.contrib.toNat % 2 ^ 24, b⟩] }) s
    else discardXchg p (some k) s

/-- The 64 bytes of a received message, for the secondary (R260). -/
def xchgReceived (h : XchgHead) (typ : Nat) (body : Bytes) : Bytes :=
  leBytes 1 typ ++ leBytes 1 h.sender.toNat ++ zeroBytes 2 ++ leBytes 4 h.contrib.toNat ++ leBytes 4 h.roundLow.toNat
    ++ leBytes 4 h.stretchId.toNat ++ body

/-- A primary names a fabric message in ORDER and forwards it. -/
def forwardFabric (p : Part) (conn : Nat) (b : Bytes) (s : State) : State :=
  let x := s.part p
  if x.paired && !x.silent then
    let e : OrderEntry := ⟨3, BitVec.ofNat 24 conn, (s.conn conn).rxMsgBase - 1, BitVec.ofNat 32 b.length⟩
    let head := leBytes 1 3 ++ leBytes 3 conn ++ leBytes 4 e.item.toNat ++ leBytes 4 b.length ++ zeroBytes 4
    twinSend p 4 s.sys.beat (head ++ b) (State.onTwin p (fun w => { w with orderDue := w.orderDue ++ [e] }) s)
  else s

/-- A message of the fabric takes effect now, or, in a pair that replays, when re-enactment reaches its beat. -/
def queueBulk (p : Part) (conn : Nat) (b : Bytes) : State → State :=
  fun s => State.onTwin p (fun w => { w with bulk := w.bulk ++ [(s.sys.beat, conn, b)] }) s

/-- A message from another party. -/
def receiveXchg (p : Part) (h : XchgHead) (tag : Option U128) (typ : Nat) (body : Bytes) (b : XchgBody) (s : State) : State :=
  let s := forwardFabric p h.conn (xchgReceived h typ body) s
  if (s.part p).twin.phase = .replaying then queueBulk p h.conn (xchgReceived h typ body) s
  else xchgArrive p s.sys.beat h tag b s

def execXchgPart (p : Part) (h : XchgHead) (jk : U256) (paramTag : U128) (s : State) : Out :=
  .next (receiveXchg p h (some paramTag) 1 (Crypto.bytes256 jk ++ beBytes 16 paramTag.toNat) (.part jk) s)

def execXchgSeed (p : Part) (h : XchgHead) (seed : U256) (s : State) : Out :=
  .next (receiveXchg p h none 2 (Crypto.bytes256 seed ++ zeroBytes 16) (.seed seed) s)

def execXchgShare (p : Part) (h : XchgHead) (v : VerifierShare) (s : State) : Out :=
  .next (receiveXchg p h none 3 (shareBytes v ++ zeroBytes 16) (.share v) s)

/-- A verdict byte that names no verdict spoils the message. -/
def execXchgDecide (p : Part) (h : XchgHead) (verdict : U8) (s : State) : Out :=
  .next (match Verdict.ofCode verdict.toNat with
    | some v => receiveXchg p h none 4 (leBytes 1 v.code ++ zeroBytes 47) (.decide v) s
    | none => discardXchg p ((xchgCtx s p h).or (xchgNear s p h)) s)

def execXchgDone (p : Part) (h : XchgHead) (accepted : U32) (digest : U256) (s : State) : Out :=
  .next (receiveXchg p h none 5 (leBytes 4 accepted.toNat ++ zeroBytes 12 ++ Crypto.bytes256 digest) (.done accepted.toNat digest) s)

/-- A forwarded message as the secondary reads it. -/
def parseXchg (conn : Nat) (b : Bytes) : Option (XchgHead × Option U128 × XchgBody) :=
  let h : XchgHead := ⟨conn, BitVec.ofNat 8 (fieldLE b 1 1), BitVec.ofNat 32 (fieldLE b 4 4), BitVec.ofNat 32 (fieldLE b 8 4),
    BitVec.ofNat 32 (fieldLE b 12 4)⟩
  let first := Crypto.of256 (fieldB b 16 32)
  if b.length ≠ 64 then none else match fieldLE b 0 1 with
  | 1 => some (h, some (BitVec.ofNat 128 (beNat (fieldB b 48 16))), .part first)
  | 2 => some (h, none, .seed first)
  | 3 => some (h, none, .share (shareOfBytes (fieldB b 16 32)))
  | 4 => (Verdict.ofCode (fieldLE b 16 1)).map fun v => (h, none, .decide v)
  | 5 => some (h, none, .done (fieldLE b 16 4) (Crypto.of256 (fieldB b 32 32)))
  | _ => none

/-! ### Limits (R78) -/

/-- A round in which this device leads and decides. -/
def leads (c : RoundCtx) : Bool :=
  c.policy.mode == .shared && c.policy.partyIndex == 0 && (c.phase == .opened || c.phase == .closing)

/-- R78: no decision by the end of beat b + VERIFY_BEATS. -/
def execVerifyTimeout (p : Part) (k : Ctx) (index : Nat) (s : State) : Out :=
  let c := s.ctx p k
  let r := shareOf s p k index
  let due := match r.admittedAt with
    | some b => decide (b + c.policy.verifyBeats < s.beatOf p)
    | none => false
  .next (when (leads c && r.verdict.isNone && due) (decideIndex p k index .timeout) s)

/-- R78: a PART for an index not admitted is kept VERIFY_BEATS, or until admission ends. -/
def execPartHoldExpiry (p : Part) (k : Ctx) (index : Nat) (s : State) : Out :=
  let c := s.ctx p k
  let r := shareOf s p k index
  let due := match r.partAt with
    | some b => decide (b + c.policy.verifyBeats < s.beatOf p ∨ c.lastBeat < s.beatOf p)
    | none => false
  .next (when (leads c && r.verdict.isNone && r.admittedAt.isNone && due) (decideIndex p k index .absent) s)

/-! ### Close (R81, R82) -/

/-- A shared round of a helper that is closing. -/
def helperClosing (c : RoundCtx) : Bool := c.phase == .closing && c.policy.mode == .shared && c.policy.partyIndex != 0

/-- No share of the context is staged, decided or not. -/
def noneStaged (s : State) (p : Part) (k : Ctx) : Bool :=
  (s.ctx p k).shared.index.all (fun r => !r.2.staged) && (s.part p).committed.all fun c => c.ctx != k

/-- R81: DONE, then the aggregate share. -/
def execHelperCloseSend (p : Part) (k : Ctx) (s : State) : Out :=
  let c := s.ctx p k
  .next (if helperClosing c && c.stampsDone && c.finalRun && noneStaged s p k && !c.shared.closeSent then
      let d := acceptDigest c.shared.acceptedSet
      let s := onShared p k (fun x => { x with acceptDigest := d, closeSent := true }) s
      let s := sendXchg p k 0 0 (.done c.shared.accepted d) s
      sendFabric p c.policy.shareConn 0 (deviceRead s p (accRange s p k).1 (8 * c.policy.stretchLen)) s
    else s)

/-- R81: the leader has acknowledged the transfer. -/
def execHelperTransferAck (p : Part) (k : Ctx) (s : State) : Out :=
  .next (when (helperClosing (s.ctx p k) && (s.ctx p k).shared.closeSent)
    (State.onCtx p k fun c => { c with
      excluded := c.admitted, included := 0, shared := { c.shared with merged := c.shared.merged ||| 1 } }) s)

/-- A helper's aggregate share takes effect: the leader adds it modulo p (R82). On an unpaired device that is when the share has
arrived; R77 has a message of the exchange processed in the beat after its arrival, and does not say so of the aggregate share.
(DESIGN CHOICE, log entry 172) -/
def takeShare (p : Part) (k : Ctx) (party : Nat) (share : List Nat) (s : State) : State :=
  let c := s.ctx p k
  if leads c && party != 0 && decide (party < c.policy.parties) && !c.shared.merged.getLsbD party then
    let va := (accRange s p k).1
    let n := c.policy.stretchLen
    let own := elemsOf (deviceRead s p va (8 * n))
    let sum := (List.range n).flatMap fun i => leBytes 8 (addP (own.getD i 0) (share.getD i 0))
    onShared p k (fun x => { x with merged := x.merged ||| BitVec.ofNat 4 (2 ^ party) }) (deviceUpdate p va sum s)
  else s

/-! ### Fabric messages of a pair (R260) -/

/-- The contexts whose policy names a connection. -/
def namedBy (s : State) (p : Part) (conn : Nat) : List Ctx :=
  (List.finRange 4).filter fun k => (s.ctx p k).phase != .free && (namedConns (s.ctx p k).policy).contains conn

/-- A bulk message of a connection: a member's transfer, or a helper's aggregate share. -/
def takeBulk (p : Part) (k : Ctx) (conn : Nat) (b : Bytes) (s : State) : State :=
  let q := (s.ctx p k).policy
  match q.mode with
  | .masked =>
    if h : conn - q.maskConn < 16 then takeMember p k (parseTransfer q ⟨conn - q.maskConn, h⟩ b) s else s
  | .shared => takeShare p k (conn - q.shareConn) (elemsOf b) s
  | .encrypted => s

/-- A completed fabric message of an earlier beat takes effect. -/
def takeFabric (p : Part) (beat conn : Nat) (b : Bytes) (s : State) : State :=
  match (if (namedBy s p conn).any fun k => (s.ctx p k).policy.mode == .shared then parseXchg conn b else none) with
  | some (h, tag, m) => xchgArrive p beat h tag m s
  | none => match namedBy s p conn with
    | k :: _ => takeBulk p k conn b s
    | [] => s

/-- The messages due at the end of the beat. (DEDUCED, log entry 127) -/
def bulkBeat (p : Part) (s : State) : State :=
  let due (m : Nat × Nat × Bytes) : Bool := decide (m.1 + (s.part p).delay ≤ s.beatOf p)
  let l := (s.part p).twin.bulk.filter due
  forAll l (fun m => takeFabric p m.1 m.2.1 m.2.2) (State.onTwin p (fun w => { w with bulk := w.bulk.filter fun m => !due m }) s)

/-- A bulk message that has come: a pair takes it into effect D beats later, on both sides. (DEDUCED, log entry 127) -/
def receiveBulk (p : Part) (conn : Nat) (b : Bytes) (now : State → State) (s : State) : State :=
  if (s.part p).bound then queueBulk p conn b (forwardFabric p conn b s) else now s

/-- R62: a member's transfer arrives at the leader. -/
def execMemberTransferArrive (p : Part) (k : Ctx) (m : MemberTransfer) (s : State) : Out :=
  let q := (s.ctx p k).policy
  .next (receiveBulk p (q.maskConn + m.rank.val) (transferBytes q m) (takeMember p k m) s)

/-- R82: a helper's aggregate share arrives at the leader. -/
def execXchgAggregateShare (p : Part) (k : Ctx) (party : Fin 4) (share : List U64) (s : State) : Out :=
  .next (receiveBulk p ((s.ctx p k).policy.shareConn + party.val) (share.flatMap fun v => leBytes 8 v.toNat)
    (takeShare p k party.val (share.map (·.toNat))) s)

end Sys2Proof.Machine
end

