-- ==== Sys2Proof/Machine/Transport.lean ====
section
/-! DEFINITION. The receiving side of RXT (R218, R225, R226, R229, R230, R234 to R243): MACsec, the twelve checks, placement,
messages and their completions, and the caches of user contexts. -/

namespace Sys2Proof.Machine

/-! ### Contexts in host memory (R228, R229) -/

/-- Bits of a window: bit i for number `base + i`. -/
def winBytes (w base : Nat) (l : List Nat) : Bytes :=
  (List.range w).map fun i => BitVec.ofNat 8 (((List.range 8).map fun j => if l.contains (base + 8 * i + j) then 2 ^ j else 0).sum)

def winList (base : Nat) (b : Bytes) : List Nat :=
  (List.range (8 * b.length)).filterMap fun i => if (b.getD (i / 8) 0).getLsbD (i % 8) then some (base + i) else none

def ConnState.code : ConnState → Nat
  | .free => 0 | .connecting => 1 | .ready => 2 | .error => 3 | .draining => 4

def ConnState.ofCode : Nat → ConnState
  | 1 => .connecting | 2 => .ready | 3 => .error | 4 => .draining | _ => .free

/-- The 256 bytes of a context before its CHECK. (DEDUCED, log entry 110) -/
def ctxBody (c : Conn) : Bytes :=
  leBytes 1 c.state.code ++ leBytes 1 (if c.fabric then 1 else 0) ++ leBytes 1 c.part.val ++ leBytes 1 c.ports.toNat
    ++ leBytes 1 c.paths ++ leBytes 1 c.payloadLog ++ leBytes 2 c.pathFailed.toNat
    ++ leBytes 4 (c.remoteConn.toNat ||| c.remotePart.val <<< 24) ++ leBytes 1 c.errorStatus.code ++ leBytes 1 c.ipVersion
    ++ leBytes 2 c.udpSrcBase.toNat ++ beBytes 16 c.remoteIp.toNat ++ leBytes 8 c.txPsn ++ leBytes 8 c.rxPsn
    ++ leBytes 4 c.txMsg.toNat ++ leBytes 4 c.rxMsgBase.toNat ++ leBytes 4 c.rate ++ leBytes 4 c.srtt
    ++ winBytes 32 c.rxMsgBase.toNat c.complete ++ winBytes 128 c.rxPsn c.received ++ leBytes 8 c.landingVA
    ++ leBytes 8 c.landingLen ++ leBytes 4 c.keyGen ++ leBytes 2 c.retries ++ leBytes 2 c.ceCount

/-- CHECK: the first 64 bits of HMAC-SHA-256 under the context key. (DEDUCED, log entry 110) -/
def ctxCheck (s : State) (n : Nat) (body : Bytes) : Bytes :=
  (Crypto.bytes256 (Crypto.hmac (Crypto.bytes256 (slotAt s 4).value) (body ++ leBytes 4 n))).take 8

/-- What a context of the table says, over the fields the device keeps beside it. -/
def ctxParse (b : Bytes) (c : Conn) : Conn :=
  let base := fieldLE b 0x34 4
  let rx := fieldLE b 0x28 8
  { c with
    state := ConnState.ofCode (fieldLE b 0 1), ports := BitVec.ofNat 8 (fieldLE b 3 1), paths := fieldLE b 4 1
    payloadLog := fieldLE b 5 1, pathFailed := BitVec.ofNat 16 (fieldLE b 6 2)
    remoteConn := BitVec.ofNat 24 (fieldLE b 8 4), remoteIp := BitVec.ofNat 128 (beNat (fieldB b 0x10 16))
    txPsn := fieldLE b 0x20 8, rxPsn := rx, txMsg := BitVec.ofNat 32 (fieldLE b 0x30 4), rxMsgBase := BitVec.ofNat 32 base
    rate := fieldLE b 0x38 4, srtt := fieldLE b 0x3C 4, complete := winList base (fieldB b 0x40 32)
    received := winList rx (fieldB b 0x60 128), retries := fieldLE b 0xF4 2, ceCount := fieldLE b 0xF6 2 }

def ctxKey (s : State) (n : Nat) : Nat := hostKey s.hub.managing.val (s.rxt.ctxBase.toNat + 256 * n)

/-- A user context is written to the table. -/
def writeCtx (n : Nat) (s : State) : State :=
  let b := ctxBody (s.conn n)
  s.store (ctxKey s n) (b ++ ctxCheck s n b) false

/-- Fabric contexts pinned on a link die. -/
def pinnedOn (s : State) (die : Nat) : Nat :=
  (s.rxt.conns.filter fun c => c.2.fabric && c.2.state != .free && (connSub c.2).1.val / 2 == die).length

/-- A link die's cache keeps what the fabric contexts pinned on it leave room for: the least recently used user contexts give
way and are written back. -/
def trimCache (die : Fin 4) (s : State) : State :=
  let room := 4096 - pinnedOn s die.val
  forAll ((s.rxt.cache[die]).drop room) writeCtx (s.onRxt fun r => { r with cache := vupd r.cache die (·.take room) })

/-- A user context enters, or is used in, the cache of a link die. -/
def touchCache (die : Fin 4) (n : Nat) (s : State) : State :=
  trimCache die (s.onRxt fun r => { r with cache := vupd r.cache die fun l => n :: l.filter (· != n) })

def linkDie (q : RPort) : Fin 4 := ⟨q.val / 2, by omega⟩

/-- A context is at hand: pinned, or cached on the link die. -/
def ctxAtHand (s : State) (q : RPort) (n : Nat) : Bool := (s.conn n).fabric || (s.rxt.cache[linkDie q]).contains n

/-! ### Connection errors (R246) -/

/-- The CONNECTION event. -/
def postConn (n : Nat) (st : Status) (sev : Severity) (s : State) : State :=
  let c := s.conn n
  let src := n ||| (if c.fabric then 1 else 0) <<< 24
  let s := post (.part c.part) .connection st sev src (BitVec.ofNat 64 c.errorStatus.code) s
  if c.fabric then postF0 .connection st sev src (BitVec.ofNat 64 c.errorStatus.code) s else s

/-- What an open message holds is given back when it is discarded. -/
def dropBuffer (p : Part) (b : MsgBuffer) : State → State := match b with
  | .pool k va _ => freeSlot p k va
  | _ => id

/-- The end of the run of placed bytes that begins at `a`; each of the `fuel` rounds goes on by one range. -/
def placedUpTo (l : List (Nat × Nat)) : Nat → Nat → Nat
  | 0, a => a
  | fuel + 1, a => match l.find? fun r => decide (r.1 ≤ a ∧ a < r.1 + r.2) with
    | some r => placedUpTo l fuel (r.1 + r.2)
    | none => a

/-- Its span is known and every byte of it placed. -/
def OpenMsg.whole (m : OpenMsg) : Bool := match m.start, m.stop with
  | some a, some b => decide (b ≤ placedUpTo m.placed m.placed.length a)
  | _, _ => false

/-- The length of its span. -/
def OpenMsg.span (m : OpenMsg) : Nat := m.stop.getD 0 - m.start.getD 0

/-- A message the window passes without a completion. -/
def OpenMsg.passed (m : OpenMsg) : Bool := m.cancelled || (m.whole && m.buffer == .dropped)

/-- The window advances past discarded messages; `fuel` bounds the run. -/
def passMsgs : Nat → Conn → Conn
  | 0, c => c
  | n + 1, c => match tfind c.msgs c.rxMsgBase.toNat with
    | some m => if m.passed then
        passMsgs n { c with msgs := tdel c.msgs c.rxMsgBase.toNat, complete := c.complete.filter (· != c.rxMsgBase.toNat),
                            rxMsgBase := c.rxMsgBase + 1 } else c
    | none => c

def advanceWindow (n : Nat) : State → State := State.onConn n (passMsgs 257)

/-- Incomplete messages are discarded; their placed bytes stay. -/
def discardIncomplete (n : Nat) (s : State) : State :=
  let c := s.conn n
  let gone := c.msgs.filter fun m => !m.2.whole
  let s := forAll gone (fun m => dropBuffer c.part m.2.buffer) s
  advanceWindow n (State.onConn n (fun c => { c with
    msgs := c.msgs.map fun m => (m.1, if m.2.whole then m.2 else { m.2 with cancelled := true, buffer := .dropped }) }) s)

/-- A connection enters ERROR. -/
def connError (n : Nat) (st : Status) (s : State) : State :=
  let c := s.conn n
  if c.state ≠ .ready then s
  else
    let s := State.onConn n (fun c => { c with state := .error, errorStatus := st, unacked := [], rnr := [], cancelDue := [] }) s
    let s := State.onRx c.part (fun r => { r with connErrors := sat32 r.connErrors }) s
    discardIncomplete n (postConn n st .error s)

/-- A packet refused by a NAK that ends its connection. (DEDUCED, log entry 108) -/
def refuseHard (n psn : Nat) (msg : U32) (st : Status) (s : State) : State := connError n st (sendNak n psn msg st s)

/-! ### Packets received (R224, R234) -/

/-- RX_PSN advances over the packets received; `fuel` bounds the run. -/
def advancePsn : Nat → Conn → Conn
  | 0, c => c
  | n + 1, c => if c.received.contains c.rxPsn then
      advancePsn n { c with rxPsn := c.rxPsn + 1, received := c.received.filter (· != c.rxPsn) } else c

def markPsn (psn : Nat) (c : Conn) : Conn := advancePsn 1025 { c with received := insertSet c.received psn }

def isFirst (fl : U8) : Bool := fl.getLsbD 0
def isLast (fl : U8) : Bool := fl.getLsbD 1

/-- A packet's range is one of its message: FIRST and LAST give the span (R223). -/
def OpenMsg.note (off len : Nat) (fl : U8) (m : OpenMsg) : OpenMsg :=
  { m with
    start := if isFirst fl then some off else m.start
    stop := if isLast fl then some (off + len) else m.stop
    seen := if m.seen.contains (off, len) then m.seen else m.seen ++ [(off, len)] }

/-- The bytes of a packet have been placed. -/
def OpenMsg.add (off len : Nat) (fl : U8) (m : OpenMsg) : OpenMsg :=
  { m.note off len fl with placed := if m.placed.contains (off, len) then m.placed else m.placed ++ [(off, len)] }

/-- A data packet has been placed: the windows and the acknowledgement (R224). -/
def placedPacket (n psn : Nat) (msg : U32) (off len : Nat) (fl : U8) (s : State) : State :=
  let s := State.onConn n (fun c =>
    let c := markPsn psn c
    match tfind c.msgs msg.toNat with
    | some m =>
      let m := m.add off len fl
      { c with msgs := tput c.msgs msg.toNat m, sinceAck := c.sinceAck + 1,
               complete := if m.whole then insertSet c.complete msg.toNat else c.complete }
    | none => { c with sinceAck := c.sinceAck + 1 }) s
  let s := advanceWindow n s
  if isLast fl || decide ((s.rxt.ack.extractLsb' 0 8).toNat ≤ (s.conn n).sinceAck) then sendAck n s else s

/-- The buffer of a message is bound at its first arriving packet. -/
def openMsg (n : Nat) (port : RPort) (msg : U32) (op : U8) (tag : U64) (start : Option Nat) (b : MsgBuffer) (s : State) : State :=
  State.onConn n (fun c => match tfind c.msgs msg.toNat with
    | some _ => c
    | none => { c with msgs := tput c.msgs msg.toNat ⟨op, port, tag, start, none, [], b, [], false, [], s.sys.beat⟩ }) s

/-- An admitted packet's range joins its open message. -/
def noteRange (n : Nat) (msg : U32) (off len : Nat) (fl : U8) : State → State :=
  State.onConn n fun c => match tfind c.msgs msg.toNat with
    | some m => { c with msgs := tput c.msgs msg.toNat (m.note off len fl) }
    | none => c

/-! ### Placement (R204, R237) -/

/-- A placement waits on a page: later packets to it are refused until FAULT_RESUME (R204). -/
def placementWaits (m : PartMem) (pages : List Nat) : Bool :=
  m.faults.any fun f => f.waits && pages.contains f.page && match f.agent with
    | .placement _ => true
    | _ => false

/-- A placement through the partition's translation; a fault is posted and answered by the status of the NAK. -/
def place (p : Part) (port : RPort) (n va : Nat) (data : Bytes) (s : State) : State × Status :=
  if placementWaits (s.part p).mem (pagesOf va data.length) then (s, .notReady) else
  let s := noteWalks p (.port port) va data.length s
  let denied := (pagesOf va data.length).find? fun a => keysetPage s p (a * 2 ^ 16)
  let fault := match firstFault s p va data.length 2, denied with
    | some f, _ => some f
    | none, some a => some (max va (a * 2 ^ 16), .accessDenied)
    | none, none => none
  match fault with
  | none => (writeVA p va data 2 false s, .ok)
  | some (a, e) =>
    let hard := e == .accessDenied
    ((postFault p a 2 2 e (!hard) (port.val ||| n <<< 3) (.placement n) s).1, if hard then .accessDenied else .notReady)

/-- A placement at once, with the outcome of its fault. (DEDUCED, log entry 107) -/
def placeNow (n : Nat) (port : RPort) (psn : Nat) (msg : U32) (off va : Nat) (fl : U8) (data : Bytes) (s : State) : State :=
  match place (s.conn n).part port n va data s with
  | (s, .ok) => placedPacket n psn msg off data.length fl s
  | (s, .accessDenied) => refuseHard n psn msg .accessDenied s
  | (s, _) => sendNak n psn msg .notReady s

/-! ### WRITE (R235 to R238) -/

/-- The outcome of the grant checks. -/
def grantCheck (s : State) (n : Nat) (f : RxtFrame) : Status :=
  let c := s.conn n
  let x := (s.part c.part).rxt
  let g := tget x.grants f.grantId.toNat {}
  if x.accessKey = 0 ∨ f.keyOrTag ≠ x.accessKey then .accessDenied
  else if g.state = .free ∨ 4096 ≤ f.grantId.toNat ∨ (g.state = .active ∧ s.sys.beat < g.activeAt) then .accessDenied
  else if !g.perms.getLsbD (if c.fabric then 1 else 0) then .accessDenied
  else if !(g.conn.getLsbD 31 || (g.conn.extractLsb' 0 24).toNat == n) then .accessDenied
  else if g.length < f.offset.toNat + f.payload.length then .accessDenied
  else if g.state = .revoking then .accessRevoked
  else .ok

/-- An admitted WRITE: it is placed at PLACEMENT_COMPLETE. -/
def receiveWrite (n psn : Nat) (data : Bytes) (f : RxtFrame) (s : State) : State :=
  match grantCheck s n f with
  | .ok =>
    let p := (s.conn n).part
    let g := tget (s.part p).rxt.grants f.grantId.toNat {}
    let s := noteRange n f.msgId f.offset.toNat data.length f.flags
      (openMsg n f.port f.msgId opWrite 0 none (.grant f.grantId.toNat) s)
    let s := State.onConn n (fun c => { c with inFlight := c.inFlight + 1 }) s
    State.onRx p (fun r => { r with
      grants := tupd r.grants f.grantId.toNat {} fun g => { g with inFlight := g.inFlight + 1 }
      inFlight := r.inFlight ++ [⟨f.grantId.toNat, f.port, n, psn, f.msgId, f.offset.toNat, f.flags, g.va + f.offset.toNat, data⟩] }) s
  | st => refuseHard n psn f.msgId st s

/-- R237: the oldest admitted packet of a grant is placed or refused by translation. (DEDUCED, log entry 107) -/
def placementDone (p : Part) (g : Nat) (s : State) : State :=
  match (s.part p).rxt.inFlight.find? (·.grant == g) with
  | none => s
  | some w =>
    let s := State.onRx p (fun r => { r with
      inFlight := r.inFlight.erase w, grants := tupd r.grants g {} fun x => { x with inFlight := x.inFlight - 1 } }) s
    let s := State.onConn w.conn (fun c => { c with inFlight := c.inFlight - 1 }) s
    match place p w.port w.conn w.va w.data s with
    | (s, .ok) => if (s.conn w.conn).state = .ready then placedPacket w.conn w.psn w.msgId w.offset w.data.length w.flags s else s
    | (s, .accessDenied) => refuseHard w.conn w.psn w.msgId .accessDenied s
    | (s, _) => sendNak w.conn w.psn w.msgId .notReady s

def execPlacementComplete (p : Part) (g : Fin 4096) (s : State) : Out := .next (placementDone p g.val s)

/-! ### SEND_TAGGED (R239, R240) -/

/-- The first host-posted entry a tag matches. -/
def matchEntry (r : PartRxt) (tag : U64) : Option (Nat × RecvEntry) := r.receive.find? fun e => ((tag ^^^ e.2.tag) &&& e.2.mask) == 0

/-- The chunks of the unexpected buffer. -/
def unexpChunks : Nat := 256

/-- Messages dropped from the unexpected buffer are counted; one event a beat carries the count. -/
def countUnexpDrops (p : Part) (n : Nat) : State → State :=
  State.onRx p fun r => { r with unexpDrops := min (r.unexpDrops + n) 0xFFFFFFFF, dropNoted := r.dropNoted + n }

/-- Bytes written into a string at an offset. -/
def putBytes (b : Bytes) (off : Nat) (d : Bytes) : Bytes :=
  (b ++ zeroBytes (off - b.length)).take off ++ d ++ b.drop (off + d.length)

/-- The buffer a tagged message opens: a slot of its round, a host-posted entry, or the unexpected buffer; none is the
receiver-not-ready refusal. -/
def bindTagged (s : State) (p : Part) (tag : U64) : Option MsgBuffer :=
  match poolCtx s p tag with
  | some k => (freeStage s p k).map fun va => .pool k va ((s.ctx p k).policy.largestMsg (s.imageOf p).rings)
  | none => match matchEntry (s.part p).rxt tag with
    | some (i, e) => some (.entry i e.va e.len)
    | none => some .unexpected

/-- The binding takes its slot, or its one-shot entry. -/
def takeBuffer (p : Part) (b : MsgBuffer) : State → State := match b with
  | .pool k va _ => State.onRx p fun r => { r with poolSlots := tupd r.poolSlots k.val [] (· ++ [va]) }
  | .entry i _ _ => State.onRx p fun r => match tfind r.receive i with
    | some e => if e.persistent then r else { r with receive := tdel r.receive i }
    | none => r
  | _ => id

/-- A packet of a message in the unexpected buffer. The message that finds it full, or the pool without a page for a chunk, is
dropped. (DESIGN CHOICE, log entry 186) -/
def storeUnexpected (n psn : Nat) (f : RxtFrame) (data : Bytes) (s : State) : State :=
  let p := (s.conn n).part
  match tfind (s.conn n).msgs f.msgId.toNat with
  | none => s
  | some m =>
    let b := putBytes m.stored f.offset.toNat data
    let more := chunksOf b.length - chunksOf m.stored.length
    let fits := unexpUsed s p + more ≤ unexpChunks ∧ more ≤ poolDramFree s p
    let m' := if fits then { m with stored := b } else { m with stored := [], buffer := .dropped }
    let s := State.onConn n (fun c => { c with msgs := tput c.msgs f.msgId.toNat m' }) s
    placedPacket n psn f.msgId f.offset.toNat data.length f.flags (if fits then s else countUnexpDrops p 1 s)

/-- (DEDUCED, log entry 107) -/
def receiveTagged (n psn : Nat) (f : RxtFrame) (s : State) : State :=
  let p := (s.conn n).part
  let fill (b : MsgBuffer) (s : State) : State :=
    let stop := f.offset.toNat + f.payload.length
    let into (va size : Nat) : State :=
      if size < stop then refuseHard n psn f.msgId .invalidCommand s
      else placeNow n f.port psn f.msgId f.offset.toNat (va + f.offset.toNat) f.flags f.payload s
    match b with
    | .pool _ va size => into va size
    | .entry _ va size => into va size
    | .unexpected => storeUnexpected n psn f f.payload s
    | _ => placedPacket n psn f.msgId f.offset.toNat f.payload.length f.flags s
  let note := noteRange n f.msgId f.offset.toNat f.payload.length f.flags
  match tfind (s.conn n).msgs f.msgId.toNat with
  | some m => fill m.buffer (note s)
  | none => match bindTagged s p f.keyOrTag with
    | none => sendNak n psn f.msgId .notReady s
    | some b => fill b (note (openMsg n f.port f.msgId opTagged f.keyOrTag (some 0) b (takeBuffer p b s)))

/-! ### XFER and CANCEL (R243) -/

def receiveXfer (n psn : Nat) (f : RxtFrame) (data : Bytes) (s : State) : State :=
  let c := s.conn n
  if c.landingLen < f.offset.toNat + data.length then refuseHard n psn f.msgId .accessDenied s
  else placeNow n f.port psn f.msgId f.offset.toNat (c.landingVA + f.offset.toNat) f.flags data
    (noteRange n f.msgId f.offset.toNat data.length f.flags
      (openMsg n f.port f.msgId opXfer 0 none (.landing c.landingVA c.landingLen) s))

/-- The message is discarded, and the window advances past it. (DEDUCED, log entry 106) -/
def receiveCancel (n psn : Nat) (f : RxtFrame) (s : State) : State :=
  let s := State.onConn n (fun c => match tfind c.msgs f.msgId.toNat with
    | some m => { c with msgs := tput c.msgs f.msgId.toNat { m with cancelled := true } }
    | none => { c with msgs := tput c.msgs f.msgId.toNat ⟨opXfer, f.port, 0, none, none, [], .dropped, [], true, [], s.sys.beat⟩ }) s
  sendAck n (advanceWindow n (State.onConn n (markPsn psn) s))

/-! ### The checks (R225) -/

/-- The 64-bit number nearest `near` with the low 32 bits `low`. -/
def widen (near : Nat) (low : Nat) : Nat :=
  let base := near / 2 ^ 32 * 2 ^ 32 + low
  if base + 2 ^ 31 < near then base + 2 ^ 32
  else if near + 2 ^ 31 < base ∧ 2 ^ 32 ≤ base then base - 2 ^ 32 else base

def isData (op : U8) : Bool := op == opWrite || op == opTagged || op == opXfer

/-- A packet's OFFSET and bytes fit the span of its message (R223): against what FIRST and LAST have said, and, where it carries
one of them itself, against every packet admitted before. -/
def spanOk (c : Conn) (m : OpenMsg) (off len : Nat) (fl : U8) : Bool :=
  let size := maxPayload c
  (m.seen.all fun r => r.1 % size == off % size
      && (!isFirst fl || decide (off ≤ r.1 ∧ r.1 + r.2 ≤ off + 2 ^ 32)) && (!isLast fl || decide (r.1 + r.2 ≤ off + len)))
    && (match m.start with
        | some a => decide (a ≤ off) && (off - a) % size == 0 && (!isFirst fl || off == a) && decide (off + len ≤ a + 2 ^ 32)
        | none => true)
    && (match m.stop with
        | some b => decide (off + len ≤ b) && (!isLast fl || off + len == b)
        | none => true)

/-- Check 10. -/
def formOk (c : Conn) (op : U8) (f : RxtFrame) : Bool :=
  let sealed := c.fabric && (op == opWrite || op == opXfer || op == opCancel)
  let cls := if op == opTagged then !c.fabric else if op == opXfer || op == opCancel || op == opConnect then c.fabric else true
  let len := f.payload.length
  let off := f.offset.toNat
  let span := match tfind c.msgs f.msgId.toNat with
    | none => true
    | some m => m.opcode == op && m.tag == (if op == opTagged then f.keyOrTag else 0)
        && spanOk c m off len f.flags
  cls && decide (f.flags.toNat < 16) && f.flags.getLsbD 2 == sealed && f.reserved == 0 && f.payloadLen.toNat == len
    && (op == opWrite || f.grantId == 0)
    && (isData op || off == 0)
    && (op == opWrite || op == opTagged || op == opAck || op == opNak || f.keyOrTag == 0)
    && (op != opNak || decide (f.keyOrTag.toNat < 256))
    && (op == opAck || op == opNak || f.echo == 0)
    && (if isData op then (if isLast f.flags then decide (len ≤ maxPayload c) else len == maxPayload c)
          && (op != opTagged || !isFirst f.flags || off == 0) && span
        else len == 0)

/-- Check 11: the seal of a fabric packet (R242). -/
def sealOk (c : Conn) (op : U8) (psn : Nat) (n : Nat) (f : RxtFrame) : Bool := match c.peerKey with
  | none => false
  | some key =>
    let head := rxtHeader op.toNat f.partition.toNat (f.flags.toNat % 8) f.instar.toNat n 0 f.psn.toNat f.msgId.toNat f.payloadLen.toNat
      f.grantId.toNat f.offset.toNat f.keyOrTag
    Crypto.gcmTag key (sealNonce c.peerMember c.remoteConn.toNat psn) head f.payload == f.sealTag

/-- The payload in clear. -/
def unsealed (c : Conn) (psn : Nat) (f : RxtFrame) : Bytes := match c.fabric, c.peerKey with
  | true, some key => Crypto.gcmCrypt key (sealNonce c.peerMember c.remoteConn.toNat psn) f.payload
  | _, _ => f.payload

/-- A failed seal: one event per connection and beat. -/
def sealFailed (n : Nat) (f : RxtFrame) (s : State) : State :=
  let s := s.onSub f.port f.sub fun x => { x with authFail := sat32 x.authFail }
  if (s.conn n).authNoted then s else postConn n .ok .warning (State.onConn n (fun c => { c with authNoted := true }) s)

/-- Open messages bound on a port. -/
def openOn (s : State) (q : RPort) : Nat := (s.rxt.conns.map fun c => (c.2.msgs.filter fun m => m.2.port == q).length).sum

/-- Checks 8 to 12 of a packet with a place in the sequence. (DEDUCED, log entry 112) -/
def checkPacket (op : U8) (n : Nat) (f : RxtFrame) (s : State) : State :=
  let c := s.conn n
  let psn := widen c.rxPsn f.psn.toNat
  let admitted := (s.part c.part).rxt.inFlight.any fun w => w.conn == n && w.psn == psn
  if psn < c.rxPsn ∨ c.received.contains psn ∨ admitted then sendAck n s
  else if c.rxPsn + 1024 ≤ psn then s
  else if 256 ≤ (f.msgId - c.rxMsgBase).toNat ∨ ((tfind c.msgs f.msgId.toNat).isNone ∧ 65536 ≤ openOn s f.port) then
    sendNak n psn f.msgId .notReady s
  else if !formOk c op f then refuseHard n psn f.msgId .invalidCommand s
  else if c.fabric && !sealOk c op psn n f then sealFailed n f s
  else
    let data := unsealed c psn f
    if op = opWrite then receiveWrite n psn data f s
    else if op = opTagged then receiveTagged n psn f s
    else if op = opXfer then receiveXfer n psn f data s
    else receiveCancel n psn f s

/-- The frame comes from the connection's remote end, for its partition. (DEDUCED, log entry 108) -/
def fromRemote (c : Conn) (f : RxtFrame) : Bool := f.srcIp == c.remoteIp && f.partition.toNat == c.part.val

/-- A frame whose instar is ahead (R226). (DEDUCED, log entry 112) -/
def instarAhead (f : RxtFrame) (s : State) : State :=
  let x := s.sub f.port f.sub
  let s := s.onSub f.port f.sub fun x => { x with instarAhead := sat32 x.instarAhead, aheadNoted := true }
  if x.aheadNoted then s else postF0 .port .ok .warning (f.port.val ||| f.sub.val <<< 3) (detail 4 0) s

/-- Data for a partition in a power state, or in a field replay, is refused for now (R269, R339). -/
def notNow (s : State) (p : Part) : Bool := s.pwr.state != .p0 || s.pwr.exiting || (s.part p).twin.replayStatus == 1

end Sys2Proof.Machine
end

