-- ==== Sys2Proof/Machine/Rxt.lean ====
section
/-! DEFINITION. Frames and the sending side of RXT (R218, R224 to R226, R229, R230, R232 to R234, R240, R243, R245, R246):
acceptance of frames, acknowledgements, retransmission, paths and rates, message completions, and the unexpected buffer. -/

namespace Sys2Proof.Machine

/-! ### Rates and parameters (R245, R248) -/

def rateInit (s : State) : Nat := (s.rxt.ccRate.extractLsb' 0 16).toNat
def rateMin (s : State) : Nat := (s.rxt.ccRate.extractLsb' 16 16).toNat
def retryLimit (s : State) : Nat := (s.rxt.retry.extractLsb' 8 8).toNat
def pathFailLimit (s : State) : Nat := (s.rxt.retry.extractLsb' 16 4).toNat

/-- RATE_MAX in units of 100 Mb/s: the line rate of the home sub-port, or the partition's reservation on it. -/
def rateMax (s : State) (c : Conn) : Nat :=
  let (q, b) := homeOf c.ports
  if c.fabric then 80 * (s.part c.part).resv.portBw.toList.getD (2 * q.val + b.val) 0
  else match (s.ports[q]).mode.toNat with
    | 1 => 16000
    | 2 => 8000
    | _ => 0

/-- An ACK or NAK with ECHO above zero lowers RATE. -/
def lowerRate (n : Nat) (s : State) : State :=
  let md := (s.rxt.ccParams.extractLsb' 0 8).toNat
  s.onConn n fun c => { c with rate := max (rateMin s) (c.rate * (256 - md) / 256) }

/-- One SRTT has passed with no echo. -/
def execRateIncrease (conn : Nat) (s : State) : Out :=
  let ai := (s.rxt.ccParams.extractLsb' 8 16).toNat
  .next (when ((s.conn conn).state == .ready)
    (State.onConn conn fun c => { c with rate := min (rateMax s c) (c.rate + ai) }) s)

/-! ### Retransmission (R232, R233) -/

/-- Send a kept packet again on the next path that is not failed. -/
def resend (n psn : Nat) (s : State) : State :=
  let c := s.conn n
  match c.unacked.find? (·.psn == psn) with
  | none => s
  | some k =>
    let path := livePath c (k.path + 1)
    let s := State.onConn n (fun c => { c with unacked := c.unacked.map fun x => if x.psn = psn then { x with path := path } else x }) s
    emit (connSub c).1 (connSub c).2 (packetFrame c { k with path := path } true s) s

/-- A connection with packets under way. -/
def sendsOn (c : Conn) (psn : Nat) : Bool := c.state == .ready && c.unacked.any (·.psn == psn)

/-- R233: the packet's RTO has passed. -/
def execRetransmitTimeout (conn : Nat) (psn : U64) (s : State) : Out :=
  let c := s.conn conn
  .next (if sendsOn c psn.toNat then
      resend conn psn.toNat (State.onConn conn (fun c => match c.unacked.find? (·.psn == psn.toNat) with
        | some k => { c with
            retries := sat16 c.retries
            unacked := c.unacked.map fun x => if x.psn = psn.toNat then { x with misses := x.misses + 1 } else x
            pathMisses := vupd c.pathMisses ⟨k.path % 16, by omega⟩ (· + 1) }
        | none => c) s)
    else s)

/-- R233: RETRIES has reached RETRY_LIMIT. (DEDUCED, log entry 108) -/
def execRetryLimitReached (conn : Nat) (s : State) : Out :=
  let c := s.conn conn
  .next (if c.state ≠ .ready ∨ c.retries < retryLimit s then s
    else if c.fabric && !c.failedOver && failoverOf c.ports != homeOf c.ports then
      let (q, b) := homeOf c.ports
      postF0 .port .ok .warning (q.val ||| b.val <<< 3) (detail 6 conn)
        (trimCache (linkDie (failoverOf c.ports).1) (State.onConn conn (fun c => { c with
          failedOver := true, retries := 0, pathFailed := 0, pathMisses := Vector.replicate 16 0, probing := [], rate := rateInit s }) s))
    else connError conn .remoteNak s)

/-- R233: a path has had PATH_FAIL_LIMIT timeouts in a row. -/
def execPathFail (conn : Nat) (path : Fin 16) (s : State) : Out :=
  let c := s.conn conn
  .next (when (c.state == .ready && decide (pathFailLimit s ≤ c.pathMisses[path]))
    (State.onConn conn fun c => { c with pathFailed := c.pathFailed ||| BitVec.ofNat 16 (2 ^ path.val) }) s)

/-- R233: a failed path is probed with the oldest packet that waits for its acknowledgement. (DEDUCED, log entry 109) -/
def execPathProbe (conn : Nat) (path : Fin 16) (s : State) : Out :=
  let c := s.conn conn
  .next (if c.state = .ready ∧ c.pathFailed.getLsbD path.val then
      match c.unacked with
      | k :: _ =>
        let s := State.onConn conn (fun c => { c with
          probing := insertSet c.probing path.val
          unacked := c.unacked.map fun x => if x.psn = k.psn then { x with path := path.val } else x }) s
        emit (connSub c).1 (connSub c).2 (packetFrame c { k with path := path.val } true s) s
      | [] => s
    else s)

/-- R224: the packet refused with NOT_READY is sent again. -/
def execRnrWaitExpiry (conn : Nat) (psn : U64) (s : State) : Out :=
  .next (when ((s.conn conn).rnr.contains psn.toNat && sendsOn (s.conn conn) psn.toNat) (resend conn psn.toNat)
    (State.onConn conn (fun c => { c with rnr := c.rnr.filter (· != psn.toNat) }) s))

/-- R224: ACK_DELAY since the oldest packet not acknowledged. -/
def execAckDelayExpiry (conn : Nat) (s : State) : Out :=
  .next (when ((s.conn conn).state == .ready && decide (0 < (s.conn conn).sinceAck)) (sendAck conn) s)

/-- R243: CANCEL for a message of an aborted beat. -/
def execXmitCancelSend (conn : Nat) (msgId : U32) (s : State) : Out :=
  let c := s.conn conn
  .next (if c.cancelDue.contains msgId then
      let s := State.onConn conn (fun c => { c with cancelDue := c.cancelDue.filter (· != msgId) }) s
      if c.state = .ready ∧ sealable s conn ∧ !(s.part c.part).silent then sendPacket conn opCancel msgId 0 4 [] s else s
    else s)

/-! ### Acknowledgements received (R224, R233) -/

/-- Packets acknowledged leave; a probe that is answered brings its path back. -/
def ackPackets (upTo : Nat) (sack : U64) (c : Conn) : Conn :=
  let got (k : TxPacket) : Bool := decide (k.psn < upTo) || (decide (upTo < k.psn ∧ k.psn ≤ upTo + 64) && sack.getLsbD (k.psn - upTo - 1))
  let acked := c.unacked.filter got
  let back := acked.map (·.path)
  { c with
    unacked := c.unacked.filter fun k => !got k
    rnr := c.rnr.filter fun n => !acked.any fun k => k.psn == n
    retries := if acked.any (fun k => decide (k.psn < upTo)) then 0 else c.retries
    pathFailed := back.foldl (fun b i => if c.probing.contains i then b &&& ~~~(BitVec.ofNat 16 (2 ^ i)) else b) c.pathFailed
    probing := c.probing.filter fun i => !back.contains i
    pathMisses := Vector.ofFn fun i => if back.contains i.val then 0 else c.pathMisses[i] }

/-- Packets still missing below at least three that the SACK names. -/
def lostBelow (upTo : Nat) (sack : U64) (c : Conn) : List Nat :=
  let later (n : Nat) : Nat := ((List.range 64).filter fun i => sack.getLsbD i && decide (n < upTo + 1 + i)).length
  (c.unacked.filter fun k => decide (3 ≤ later k.psn)).map (·.psn)

/-- (DEDUCED, log entry 106) -/
def receiveAck (n : Nat) (f : RxtFrame) (s : State) : State :=
  let c := s.conn n
  let upTo := widen c.txPsn f.psn.toNat
  let s := State.onConn n (ackPackets upTo f.keyOrTag) s
  let s := when (f.echo != 0) (lowerRate n) s
  forAll (lostBelow upTo f.keyOrTag (s.conn n)) (resend n) s

/-- R224, R246: what a NAK makes the sender do. (DEDUCED, log entry 106) -/
def receiveNak (n : Nat) (f : RxtFrame) (s : State) : State :=
  let c := s.conn n
  let psn := widen c.txPsn f.psn.toNat
  let s := when (f.echo != 0) (lowerRate n) s
  match Status.ofCode (f.keyOrTag.toNat % 256) with
  | some .notReady => State.onConn n (fun c => { c with rnr := if c.unacked.any (·.psn == psn) then insertSet c.rnr psn else c.rnr }) s
  | some .accessDenied => connError n .accessDenied s
  | some .accessRevoked => connError n .accessRevoked s
  | some .invalidCommand => connError n .invalidCommand s
  | some .flushed => connError n .flushed s
  | _ => s

/-! ### Frames (R218, R225, R226) -/

/-- Check 1: the association a frame names takes it, and its packet number is used up. Both are accepted during a
rekey, until the first frame under the new one (R220). (DEDUCED, log entry 105; DEDUCED, log entry 134) -/
def macsec (x : SubState) (t : SecTag) : Option SubState :=
  let take (a : Option Assoc) : Option Assoc := match a with
    | some a => if t.icvOk ∧ a.rxPn ≤ t.pn.toNat then some { a with rxPn := t.pn.toNat + 1 } else none
    | none => none
  if t.fresh then (take x.assoc).map fun a => { x with assoc := some a, oldAssoc := none }
  else (take x.oldAssoc).map fun o => { x with oldAssoc := some o }

/-- A frame reaches a sub-port whose link is up. -/
def onFrame (q : RPort) (b : SubPort) (t : SecTag) (body : State → State) (s : State) : State :=
  let x := s.sub q b
  if !x.linkUp then s
  else match macsec x t with
    | some y => body (s.onSub q b fun _ => { y with rxFrames := y.rxFrames + 1 })
    | none => s.onSub q b fun x => { x with rxFrames := x.rxFrames + 1, macsecDrops := sat32 x.macsecDrops }

/-- The IP destination is one of the sub-port's addresses. -/
def ownAddress (x : SubState) (ip : U128) : Bool :=
  (x.ipv4 != 0 && ip == x.ipv4.setWidth 128) || (x.ipv6 != 0 && ip == x.ipv6)

/-- The bytes of the IP packet of a frame: IP and UDP headers, RXT header, payload and seal tag. -/
def ipBytes (f : RxtFrame) : Nat :=
  (if f.dstIp.toNat < 2 ^ 32 then 20 else 40) + 8 + 40 + f.payload.length + if f.flags.getLsbD 2 then 16 else 0

/-- Check 2, with the MTU of R217. (DESIGN CHOICE, log entry 185) -/
def forUs (x : SubState) (f : RxtFrame) : Bool :=
  ownAddress x f.dstIp && f.dstPort == x.udp.extractLsb' 0 16 && f.version == 1 && decide (ipBytes f ≤ x.mtu)

/-- Bytes of a packet in the receive buffer: RXT header, payload, seal tag. -/
def bufferBytes (f : RxtFrame) : Nat := 40 + f.payload.length + if f.flags.getLsbD 2 then 16 else 0

/-- A partition's share of a port's 8 MiB receive buffer, in proportion to the reservations on the port (R244). -/
def ingressShare (s : State) (q : RPort) (p : Nat) : Nat :=
  let total := ((s.parts.toList.filter fun x => x.phase != .absent).map fun x => x.resv.portTotal q.val).sum
  match s.parts.toList[p]? with
  | some x => if x.phase = .absent then 0 else 8388608 * x.resv.portTotal q.val / max total 1
  | none => 0

/-- The packet finds its partition's share full. A header that names no partition with a share is left to the checks.
(DESIGN CHOICE, log entry 188) -/
def shareFull (s : State) (f : RxtFrame) : Bool :=
  let room := ingressShare s f.port f.partition.toNat
  room != 0 && decide (room < f.backlog + bufferBytes f)

/-- A packet that waits behind more than MARK_KIB is marked as if a switch had marked it (R244). -/
def bufferedFrame (s : State) (f : RxtFrame) : RxtFrame :=
  { f with marked := f.marked || decide (1024 * s.rxt.ccMark.toNat < f.backlog) }

/-- The receive buffer of a port: a packet with no room is dropped and counted. (DESIGN CHOICE, log entry 188) -/
def buffer (f : RxtFrame) (body : RxtFrame → State → State) (s : State) : State :=
  if shareFull s f then s.onSub f.port f.sub fun x => { x with ingressDrops := sat32 x.ingressDrops } else body (bufferedFrame s f) s

/-- Checks 1 and 2 of a frame. -/
def admitFrame (f : RxtFrame) (body : State → State) : State → State :=
  onFrame f.port f.sub f.sec fun s =>
    if forUs (s.sub f.port f.sub) f then body s else s.onSub f.port f.sub fun x => { x with nonRxt := sat32 x.nonRxt }

/-- Checks 5 to 12, once the context is at hand; a user context has been used. (DEDUCED, log entry 134) -/
def checkFrame (op : U8) (f : RxtFrame) (s : State) : State :=
  let n := f.destConn.toNat
  let c := s.conn n
  let s := when (!c.fabric) (touchCache (linkDie f.port) n) s
  let own := s.sys.instar
  if op = opNak ∧ f.keyOrTag.toNat % 256 = Status.fenced.code ∧ fromRemote c f then
    when (decide (own < f.instar.toNat)) (State.onSys fun y => { y with fenceDue := true }) s
  else if f.instar.toNat < own then (if isData op then sendNak n f.psn.toNat f.msgId .fenced s else s)
  else if own < f.instar.toNat then instarAhead f s
  else if !fromRemote c f then s.onSub f.port f.sub fun x => { x with noConn := sat32 x.noConn }
  else
    let s := when (f.marked && isData op) (State.onConn n fun c => { c with ceCount := min (c.ceCount + 1) 0xFFFF }) s
    if isData op ∧ notNow s c.part then sendNak n f.psn.toNat f.msgId .notReady (when (s.pwr.state != .p0) wake s)
    else if c.state ≠ .ready then (if isData op then sendNak n f.psn.toNat f.msgId .flushed s else s)
    else if op = opAck then (if formOk c op f then receiveAck n f s else s)
    else if op = opNak then (if formOk c op f then receiveNak n f s else s)
    else checkPacket op n f s

def missRoom : Nat := 2097152

/-- Check 4: a packet whose user context is not cached waits, if it finds room (R230). -/
def waitForCtx (op : U8) (f : RxtFrame) (s : State) : State :=
  let x := s.ports[f.port]
  let n := f.destConn.toNat
  let used := (x.waiting.map fun w => w.2.payload.length + 40).sum
  if missRoom < used + f.payload.length + 40 then s.onSub f.port f.sub fun y => { y with missDrops := sat32 y.missDrops }
  else
    let s := s.onPort f.port fun x => { x with waiting := x.waiting ++ [(op, f)] }
    if x.fetching.contains n then s
    else (s.onPort f.port fun x => { x with fetching := x.fetching ++ [n] }).onRxt fun r => { r with ctxMisses := r.ctxMisses + 1 }

/-- Checks 3 and 4: the context is not FREE, and at hand. -/
def findCtx (op : U8) (f : RxtFrame) (s : State) : State :=
  let n := f.destConn.toNat
  if (s.conn n).state = .free then s.onSub f.port f.sub fun x => { x with noConn := sat32 x.noConn }
  else if ctxAtHand s f.port n then checkFrame op f s
  else waitForCtx op f s

/-- R225: a received RXT frame of an opcode. -/
def receiveFrame (op : U8) (f : RxtFrame) : State → State := admitFrame f (buffer f (findCtx op))

def execRxtWrite (f : RxtFrame) (s : State) : Out := .next (receiveFrame opWrite f s)
def execRxtSendTagged (f : RxtFrame) (s : State) : Out := .next (receiveFrame opTagged f s)
def execRxtXfer (f : RxtFrame) (s : State) : Out := .next (receiveFrame opXfer f s)
def execRxtAck (f : RxtFrame) (s : State) : Out := .next (receiveFrame opAck f s)
def execRxtNak (f : RxtFrame) (s : State) : Out := .next (receiveFrame opNak f s)
def execRxtCancel (f : RxtFrame) (s : State) : Out := .next (receiveFrame opCancel f s)

/-- R217, R218: a frame of no use to the device, or one MACsec refuses. -/
def execNonRxtFrame (q : RPort) (s_ : SubPort) (sec : SecTag) (s : State) : Out :=
  .next (onFrame q s_ sec (State.onSub q s_ fun x => { x with nonRxt := sat32 x.nonRxt }) s)

/-! ### Context fetches (R230) -/

/-- The frames that wait for a context, and the port without them. -/
def takeWaiting (q : RPort) (n : Nat) (s : State) : List (U8 × RxtFrame) × State :=
  let mine (w : U8 × RxtFrame) : Bool := w.2.destConn.toNat == n
  ((s.ports[q]).waiting.filter mine, s.onPort q fun x => { x with
    waiting := x.waiting.filter fun w => !mine w, fetching := x.fetching.filter (· != n) })

/-- The fetch has failed: what waits is dropped and counted. -/
def fetchFailed (q : RPort) (n : Nat) (s : State) : State :=
  let (l, s) := takeWaiting q n s
  let s := forAll l (fun w => State.onSub q w.2.sub fun y => { y with missDrops := sat32 y.missDrops }) s
  postF0 .port .ok .error q.val (detail 5 n) (s.onRxt fun r => { r with ctxFetchFail := sat32 r.ctxFetchFail })

/-- R230: the context arrives; with its CHECK right, the waiting packets resume at check 5. -/
def execContextFetchComplete (q : RPort) (conn : Nat) (s : State) : Out :=
  .next (if !(s.ports[q]).fetching.contains conn then s
    else
      let b := s.bytesAt (ctxKey s conn) 248
      if s.bytesAt (ctxKey s conn + 248) 8 = ctxCheck s conn b ∧ canDma s s.f0 then
        let (l, s) := takeWaiting q conn s
        let s := touchCache (linkDie q) conn (State.onConn conn (ctxParse b) s)
        forAll l (fun w => checkFrame w.1 w.2) s
      else fetchFailed q conn s)

def execContextFetchTimeout (q : RPort) (conn : Nat) (s : State) : Out :=
  .next (when ((s.ports[q]).fetching.contains conn) (fetchFailed q conn) s)

/-! ### Message completions (R234, R239 to R241) -/

/-- A message of a partition's landing range, sealed under its log key, in the log (R265). -/
def logFabric (p : Part) (n : Nat) (b : Bytes) (s : State) : State :=
  let key := (slotAt s (logSlot p)).value
  let iv := beBytes 12 (s.part p).twin.logHead
  let body := Crypto.gcmCrypt key iv b
  logRecord p 3 n (body ++ beBytes 16 (Crypto.gcmTag key iv [] body).toNat) s

/-- The completion of a message that is whole. -/
def postMessage (n : Nat) (msg : U32) (m : OpenMsg) (s : State) : State :=
  let p := (s.conn n).part
  let len := m.span
  match m.buffer with
  | .pool k va _ => contribute p k m.tag va len (deviceRead s p va len) (.conn n msg) s
  | .entry pos _ _ => postReceive p pos m.tag len s
  | .unexpected => State.onRx p (fun r => { r with unexp := r.unexp ++ [⟨n, msg, m.tag, m.stored, m.opened⟩] }) s
  | .landing va _ => logFabric p n (deviceRead s p (va + m.start.getD 0) len) s
  | _ => s

/-- Post the completions that are due in message order; `fuel` bounds the run. -/
def postDue (n : Nat) : Nat → State → State
  | 0, s => s
  | k + 1, s =>
    let s := advanceWindow n s
    let c := s.conn n
    match tfind c.msgs c.rxMsgBase.toNat with
    | some m =>
      if m.whole && !m.passed then
        postDue n k (postMessage n c.rxMsgBase m (State.onConn n (fun c => { c with
          msgs := tdel c.msgs c.rxMsgBase.toNat, complete := c.complete.filter (· != c.rxMsgBase.toNat), rxMsgBase := c.rxMsgBase + 1 }) s))
      else s
    | none => s

/-- R234: the lowest message is whole; it and those whole behind it complete, in order. -/
def execMessageComplete (conn : Nat) (s : State) : Out :=
  .next (when ((s.conn conn).state == .ready || (s.conn conn).state == .error) (postDue conn 256) s)

/-! ### The unexpected buffer (R240) -/

/-- The buffer an unexpected message can be copied to now. (DEDUCED, log entry 111) -/
def bindUnexpected (s : State) (p : Part) (m : UnexpMsg) : Option MsgBuffer := match bindTagged s p m.tag with
  | some (.pool k va size) => if m.payload.length ≤ size then some (.pool k va size) else none
  | some (.entry i va len) => if m.payload.length ≤ len then some (.entry i va len) else none
  | _ => none

/-- The oldest message that matches, with its buffer. (DEDUCED, log entry 111) -/
def oldestMatch (s : State) (p : Part) : Option (UnexpMsg × MsgBuffer) :=
  (s.part p).rxt.unexp.findSome? fun m => (bindUnexpected s p m).map fun b => (m, b)

/-- R240: the oldest unexpected message that matches is copied, and completes. -/
def execUnexpectedMatchCopy (p : Part) (s : State) : Out :=
  .next (match oldestMatch s p with
    | none => s
    | some (m, b) =>
      let va := match b with
        | .pool _ va _ => va
        | .entry _ va _ => va
        | _ => 0
      match firstFault s p va m.payload.length 2 with
      | some _ => s
      | none =>
        let s := takeBuffer p b (State.onRx p (fun r => { r with unexp := r.unexp.erase m }) s)
        let s := writeVA p va m.payload 2 false s
        match b with
        | .pool k va _ => contribute p k m.tag va m.payload.length m.payload (.conn m.conn m.msgId) s
        | .entry pos _ _ => postReceive p pos m.tag m.payload.length s
        | _ => s)

/-- A message still arriving in the unexpected buffer that `f` picks is discarded. -/
def Conn.dropUnexpected (f : OpenMsg → Bool) (c : Conn) : Conn :=
  { c with msgs := c.msgs.map fun m =>
      (m.1, if m.2.buffer == .unexpected && f m.2 then { m.2 with buffer := .dropped, stored := [] } else m.2) }

/-- R240: messages that opened more than RXT_UNEXP_AGE beats ago, complete or not, are discarded and counted.
(DESIGN CHOICE, log entry 186) -/
def execUnexpectedAgeExpiry (p : Part) (s : State) : Out :=
  let age := s.rxt.unexpAge
  let old (beat : Nat) : Bool := decide (0 < age ∧ beat + age < s.sys.beat)
  let arriving := (s.rxt.conns.map fun c => if c.2.part = p then
    (c.2.msgs.filter fun m => m.2.buffer == .unexpected && old m.2.opened).length else 0).sum
  .next (countUnexpDrops p (((s.part p).rxt.unexp.filter fun m => old m.beat).length + arriving)
    (State.onConns (fun _ c => if c.part = p then c.dropUnexpected (fun m => old m.opened) else c)
      (State.onRx p (fun r => { r with unexp := r.unexp.filter fun m => !old m.beat }) s)))

end Sys2Proof.Machine
end

