-- ==== Sys2Proof/Machine/Partitions.lean ====
section
/-! DEFINITION. Partitions: creation and removal (R274, R275, R283 to R285), fencing (R253), the load of an image (R170, R171,
R201, R116, R117). -/

namespace Sys2Proof.Machine

/-! ### What changes of a partition have in common -/

/-- R421, R420: the event of a change of STATE or HELD_CAUSE. (DEDUCED, log entry 28) -/
def noteState (p : Part) (s : State) : State :=
  let x := s.part p
  if x.phase = x.shownPhase ∧ x.heldCause = x.shownCause then s
  else
    let d := detail 1 (x.phase.code ||| x.heldCause.code <<< 4)
    let st : Status := if x.phase ≠ x.shownPhase then (match x.phase with
      | .fenced => .fenced
      | .degraded => .degraded
      | _ => .ok) else .ok
    let sev : Severity := match st with
      | .fenced => .critical
      | .degraded => .error
      | _ => if x.heldCause ≠ x.shownCause ∧ x.heldCause ≠ .none then .error else .info
    let s := State.onPart p (fun x => { x with shownPhase := x.phase, shownCause := x.heldCause }) s
    if x.phase = .absent then postF0 .partition st sev p.val d s else postBoth p .partition st sev p.val d s

/-- The commands of a partition in progress: the command, its code, AUX and RESULT. -/
def openCommands (s : State) (p : Part) : List (Cmd × Nat × Nat × Nat) :=
  let x := s.part p
  let one (o : Option Cmd) (op : Nat) : List (Cmd × Nat × Nat × Nat) := match o with
    | some c => [(c, op, 0, 0)]
    | none => []
  (x.ctxs.toList.flatMap fun c =>
      one (c.claim.map (·.cmd)) 0x10 ++ one c.openCmd 0x10 ++ (c.masked.queue.map fun j => (j.cmd, 0x12, 0, j.applied))
        ++ one c.finCmd 0x13 ++ one c.abortCmd 0x14 ++ one c.ackCmd 0x15)
    ++ one (x.img.load.map (·.cmd)) 0x08 ++ one x.twin.bindCmd 0x31 ++ one x.twin.ckptCmd 0x32 ++ one x.twin.replayCmd 0x33
    ++ (x.rxt.grants.flatMap fun g => one g.2.revokeCmd 0x21)
    ++ (s.rxt.conns.flatMap fun c => if c.2.part = p ∧ c.2.state ≠ .free then one c.2.createCmd 0x22 ++ one c.2.destroyCmd 0x23 else [])

/-- Every command of the partition in progress completes with a status (R253, R283). -/
def endCommands (p : Part) (st : Status) (s : State) : State :=
  let l := openCommands s p
  let s := forAll l (fun (c, op, aux, res) => complete c op st aux res) s
  let s := State.onPart p (fun x => { x with
    ctxs := vall x.ctxs fun _ c => { c with claim := none, openCmd := none, finCmd := none, abortCmd := none, ackCmd := none,
                                            masked := { c.masked with
                                              queue := [], failRecord := if c.masked.queue.isEmpty then c.masked.failRecord else 0
                                              unmaskStatus := if c.masked.queue.isEmpty then c.masked.unmaskStatus else st } },
    img := { x.img with load := none, lastStatus := if x.img.load.isSome then st else x.img.lastStatus },
    twin := { x.twin with bindCmd := none, ckptCmd := none, replayCmd := none },
    rxt := { x.rxt with grants := x.rxt.grants.map fun g => (g.1, { g.2 with revokeCmd := none }) } }) s
  s.onConns fun _ c => if c.part = p then { c with createCmd := none, destroyCmd := none } else c

/-- The clusters of the partition run no beat: what the beat in progress wrote is undone. -/
def stopClusters (p : Part) (s : State) : State :=
  let s := forAll (s.diesOf p) abortDie s
  let s := forAll (s.diesOf p) (fun d => forAll (List.finRange 32) fun c =>
    State.onCluster d c fun r => { r with running := false, aborted := false, overrun := false, waitFault := false }) s
  State.onImg p (fun i => { i with kind := .held }) s

/-- R253: the partition is fenced. Its state freezes, and every command in progress ends. -/
def fencePartition (p : Part) (s : State) : State :=
  match (s.part p).phase with
  | .absent => s
  | .removing => s
  | .fenced => s
  | _ =>
    let s := endCommands p .fenced (stopClusters p s)
    let s := State.onPart p (fun x => { x with
      phase := .fenced, degradeDue := false,
      ctxs := vall x.ctxs fun _ c => if c.phase = .free then c else { c with phase := .fenced, headerWait := .none } }) s
    let s := s.onRng fun r => { r with waiting := r.waiting.filter fun w => w.inst != partInst p }
    noteState p s

/-! ### The pool (R198) and the tables -/

/-- Next free page of a site for small pages, rising from the bottom, and for 32 MiB frames, falling from the top; `rest` holds
the pages above the last whole frame and those of the frames passed over. -/
structure SiteCursor where
  site : Nat
  low : Nat
  high : Nat
  rest : List Nat
  deriving DecidableEq, Repr

/-- A small page of the site. -/
def SiteCursor.small (s : State) : Nat → SiteCursor → Option (Nat × SiteCursor)
  | 0, _ => none
  | fuel + 1, c =>
    if c.low < c.high then
      if pageGood s c.site c.low then some (c.low, { c with low := c.low + 1 })
      else SiteCursor.small s fuel { c with low := c.low + 1 }
    else match c.rest with
      | [] => none
      | f :: t => if pageGood s c.site f then some (f, { c with rest := t }) else SiteCursor.small s fuel { c with rest := t }

/-- A 32 MiB frame of the site. -/
def SiteCursor.large (s : State) : Nat → SiteCursor → Option (Nat × SiteCursor)
  | 0, _ => none
  | fuel + 1, c =>
    if c.high < c.low + 512 then none
    else if (List.range 512).all fun i => pageGood s c.site (c.high - 512 + i) then
      some (c.high - 512, { c with high := c.high - 512 })
    else SiteCursor.large s fuel { c with
      high := c.high - 512, rest := c.rest ++ (List.range 512).map fun i => c.high - 512 + i }

/-- Allocation state: the cursors, the one next in rotation first. -/
abbrev Cursors := List SiteCursor

/-- Take from the first site in rotation that has room. (DESIGN CHOICE, log entry 103) -/
def takeSite (f : SiteCursor → Option (Nat × SiteCursor)) : Cursors → Cursors → Option (Nat × Nat × Cursors)
  | _, [] => none
  | tried, c :: t => match f c with
    | some (n, c') => some (c.site, n, t ++ tried ++ [c'])
    | none => takeSite f (tried ++ [c]) t

/-- The pool of a partition with nothing taken. (DESIGN CHOICE, log entry 103) -/
def freshCursors (s : State) (p : Part) : Cursors := (s.diesOf p).map fun d =>
  ⟨d.val, 0, sitePages / 512 * 512, (List.range (sitePages % 512)).map (· + sitePages / 512 * 512)⟩

def cursorFuel (s : State) : Nat := (s.mem.sites.toList.map fun n => n.retired.length + n.retiring.length).sum + 1

/-- Pages for the tables. (DESIGN CHOICE, log entry 103) -/
def takePages (s : State) : Nat → Cursors → List (Nat × Nat) × Cursors
  | 0, cs => ([], cs)
  | n + 1, cs => match takeSite (SiteCursor.small s (cursorFuel s)) [] cs with
    | some (site, f, cs) =>
      let (l, cs) := takePages s n cs
      ((site, f) :: l, cs)
    | none => ([], cs)

/-- Leaves of an LPDDR5X range from page number `n` on, `count` pages: 32 MiB leaves where it covers an aligned 32 MiB. Where no
whole frame is left, an aligned 32 MiB takes small pages. (DESIGN CHOICE, log entry 103) -/
def dramLeaves (s : State) (perms : BitVec 5) : Nat → Nat → Nat → Cursors × Tbl U64 × Tbl U64 → Cursors × Tbl U64 × Tbl U64
  | 0, _, _, x => x
  | fuel + 1, n, count, (cs, small, large) =>
    if count = 0 then (cs, small, large)
    else match (if n % 512 = 0 ∧ 512 ≤ count then takeSite (SiteCursor.large s (cursorFuel s)) [] cs else none) with
      | some (site, f, cs) => dramLeaves s perms fuel (n + 512) (count - 512) (cs, small, tput large (n / 512) (dramLeaf site f true perms))
      | none => match takeSite (SiteCursor.small s (cursorFuel s)) [] cs with
        | some (site, f, cs) => dramLeaves s perms fuel (n + 1) (count - 1) (cs, tput small n (dramLeaf site f false perms), large)
        | none => (cs, small, large)

/-- SRAM leaves take the pages of their cluster's slice in order; `used` counts them by die and cluster. -/
def sramLeaves (die : Nat) (r : MapRec) : Nat → Nat → Tbl Nat × Tbl U64 → Tbl Nat × Tbl U64
  | 0, _, x => x
  | count + 1, n, (used, small) =>
    let key := die * 32 + r.cluster
    let page := tget used key 0
    sramLeaves die r count (n + 1) (tput used key (page + 1), tput small n (sramLeaf die r.cluster page r.perms))

/-- Insertion of map records by address. -/
def insertMap (r : MapRec) : List MapRec → List MapRec
  | [] => [r]
  | q :: t => if r.va ≤ q.va then r :: q :: t else q :: insertMap r t

/-- The device die of an image die. -/
def dieNumber (ds : List Die) (i : Nat) : Nat := (ds[i]?.map (·.val)).getD 0

/-- All leaves of the map, in rising address order (R198, R201). (DESIGN CHOICE, log entry 103) -/
def mapLeaves (s : State) (ds : List Die) (recs : List MapRec) (cs : Cursors) : Cursors × Tbl U64 × Tbl U64 :=
  let step (x : (Cursors × Tbl U64 × Tbl U64) × Tbl Nat) (r : MapRec) : (Cursors × Tbl U64 × Tbl U64) × Tbl Nat :=
    let ((cs, small, large), used) := x
    let n := r.va / 2 ^ 16
    let count := r.length / 2 ^ 16
    if r.backing = 0 then
      let (used, small) := sramLeaves (dieNumber ds r.die) r count n (used, small)
      ((cs, small, large), used)
    else if r.backing = 1 then (dramLeaves s r.perms count n count (cs, small, large), used)
    else x
  ((recs.foldr insertMap []).foldl step ((cs, [], []), [])).1

/-- The HOST_OWNED leaves a new image keeps, narrowed to its records (R201). -/
def keptLeaves (m : PartMem) (recs : List MapRec) : Tbl U64 :=
  m.leaves.filterMap fun (n, e) =>
    if !leafHostOwned e then none
    else if loadWindow (n * 2 ^ 16) then some (n, e)
    else match recs.find? fun r => r.backing == 2 && decide (r.va ≤ n * 2 ^ 16 ∧ n * 2 ^ 16 < r.va + r.length) with
      | some r => some (n, e &&& ~~~((BitVec.ofNat 64 (31 - r.perms.toNat)) <<< 5))
      | none => none

/-- The level 3 tables that a map needs: those of the load window, of its BACKING 2 ranges and of its small leaves. -/
def tableNumbers (recs : List MapRec) (small : Tbl U64) : List Nat :=
  let host := (recs.filter fun r => r.backing == 2).flatMap fun r =>
    (List.range ((r.va + r.length - 1) / 2 ^ 25 - r.va / 2 ^ 25 + 1)).map (· + r.va / 2 ^ 25)
  (host ++ (tkeys small).map (· / 512) ++ (List.range 32).map (· + 0x7FE0)).foldl insertSet []

/-- The leaves and the tables of a map, laid out over an empty pool: the leaves first, then the tables' pages. -/
def layOut (s : State) (p : Part) (recs : List MapRec) (m : PartMem) : PartMem :=
  let (cs, small, large) := mapLeaves s (s.diesOf p) recs (freshCursors s p)
  let kept := keptLeaves m recs
  let m := { m with leaves := kept.foldl (fun t (e : Nat × U64) => tput t e.1 e.2) small, largeLeaves := large,
                    tableNums := tableNumbers recs small, cached := [], badTables := [] }
  let pages := (takePages s m.pageCount cs).1
  { m with tablePages := pages, ptRoot := rootOf pages }

/-- Write every leaf and every table of a map (R201). -/
def setMap (p : Part) (recs : List MapRec) (s : State) : State :=
  State.putTables p (State.onMem p (fun m =>
    let m := layOut s p recs m
    { m with dirtyDram := ((usedPages m).filter fun x => !m.dirtyDram.contains x) ++ m.dirtyDram }) s)

/-- Install the map of the partition's image, or the bare load window (R201, R362). -/
def installMap (p : Part) (s : State) : State :=
  setMap p (match (s.part p).img.image with
    | some i => i.memMap
    | none => []) s

/-- The fault entries that a load or a removal leaves: those no agent waits on (R207). -/
def PartMem.plainFaults (m : PartMem) : PartMem :=
  { m with faults := m.faults.filter fun f => !f.waits, heldFaults := m.heldFaults.filter fun e => !e.resumeNeeded, cached := [] }

/-- Pages that stayed in service with RETIRING set leave the pool when the partition's map goes (R212). -/
def dropRetiring (p : Part) (s : State) : State :=
  forAll (s.diesOf p) (fun d => State.onStore fun m => { m with sites := vupd m.sites d fun x =>
    { x with retired := x.retiring.foldl insertSet x.retired, retiring := [] } }) s

/-- Zeroing of R171 and R285: every slice of the partition's dies and every pool page mapped since the last zeroing. -/
def zeroPartition (p : Part) (s : State) : State :=
  let s := forAll (s.diesOf p) (fun d => State.zeroRange (sramKey d.val 0 0) (36 * 2 ^ 25)) s
  let s := forAll (s.part p).mem.dirtyDram (fun (n, f) => State.zeroRange (dramKey n (f * 2 ^ 16)) (2 ^ 16)) s
  State.onMem p (fun m => { m with dirtyDram := [] }) s

/-! ### PART_CREATE (R274, R275) -/

/-- The creation block: the partition and its reservation. -/
def parseCreate (b : Bytes) : Option (Part × PartResv) :=
  let p := fieldLE b 4 1
  let mask := fieldLE b 5 1
  let n := ((List.range 8).filter mask.testBit).length
  let bw := fieldLE b 8 4
  let ports := (List.range 16).map fun i => fieldLE b (0x30 + 2 * i) 2
  let given := if ports.all (· == 0) then
      (List.range 16).map fun i => if i % 2 = 0 ∧ mask.testBit (i / 2) then 200 else 0 else ports
  if h : p < 8 ∧ fieldLE b 6 1 < 2 then
    if fieldLE b 0 4 == 0x54525043 && mask != 0 && decide (fieldLE b 7 1 < 2) && decide (bw ≤ 330 * n)
        && inRange 1 56 (fieldLE b 0xC 4) && zerosAt b 0x50 48 then
      some (⟨p, h.1⟩, { dieMask := BitVec.ofNat 8 mask, pciePort := ⟨fieldLE b 6 1, h.2⟩, requireIde := fieldLE b 7 1 == 1,
                        memBw := if bw = 0 then 330 * n else bw, pcieBw := fieldLE b 0xC 4,
                        portBw := Vector.ofFn fun i : Fin 16 => given.getD i.val 0,
                        imageSignerHash := Crypto.of256 (fieldB b 0x10 32) })
    else none
  else none

/-- Check 7 of R275, with the dies and sites that start-up leaves unusable (R393, R396). -/
def diesFree (s : State) (r : PartResv) : Bool :=
  r.dies.all fun d =>
    let x := s.dies[d]
    let n := s.mem.sites[d]
    x.owner.isNone && !x.zeroing && !x.unusable && n.trained && !n.failed && !n.unusable && !n.zeroing

/-- The checks of R275 and R276 on what other partitions hold. -/
def resourceChecks (s : State) (p : Part) (r : PartResv) : Status :=
  if s.exists_ p then .busy
  else if !diesFree s r then .capacity
  else if !admits s r then .capacity
  else .ok

/-- Checks 2 to 10 of R275. (DEDUCED, log entry 92) -/
def createChecks (s : State) (pa : U64) : Except Status (Part × PartResv) :=
  if tampered s then .error .tampered
  else if s.key.fuses.lifeCycle ≠ .enrolled ∧ s.key.fuses.lifeCycle ≠ .deployed then .error .lifecycleDenied
  else if !canDmaF0 s then .error .pageFault
  else match parseCreate (s.bytesAt (hostKey s.hub.managing.val pa.toNat) 128) with
    | none => .error .invalidCommand
    | some (p, r) =>
      if resourceChecks s p r ≠ .ok then .error (resourceChecks s p r)
      else if entropyStatus s ≠ .ok then .error (entropyStatus s)
      else if r.requireIde && !(s.hub.links[r.pciePort]).ideSecure then .error .policyRefused
      else .ok (p, r)
where
  canDmaF0 (s : State) : Bool := (s.configOf s.f0).busMaster && (s.hub.links[s.hub.managing]).inL0

/-- The partition begins: IDLE, with its root key, its dies and the load window. -/
def createPartition (p : Part) (r : PartResv) (s : State) : State :=
  let (nonce, s) := generate 0 s
  let s := derivePartRoot p nonce r.imageSignerHash s
  let s := forAll r.dies (fun d => State.onDie d fun x => { x with owner := some p }) s
  let s := State.onPart p (fun _ => { phase := .idle, resv := { r with nonce := nonce } }) s
  noteState p (installMap p s)

/-- Once the draw is served: what another command took meanwhile is judged again. (DESIGN CHOICE, log entry 157) -/
def createDrawn (c : Cmd) (p : Part) (r : PartResv) (s : State) : State :=
  if resourceChecks s p r ≠ .ok then done c 0x01 (resourceChecks s p r) s
  else complete c 0x01 .ok p.val 0 (createPartition p r s)

def execPartCreate (c : Cmd) (createPA : U64) (s : State) : Out :=
  .next (f0Command c 0x01 true (fun s =>
    let s := s.onKey fun k => { k with scanOpen := false }
    match createChecks s createPA with
    | .error e => done c 0x01 e s
    | .ok (p, r) => request 0 (.create c p r) (createDrawn c p r) s) s)

/-! ### Removal (R283 to R285) -/

/-- R39: what removal does to a context. -/
def removeCtx (p : Part) (k : Ctx) (s : State) : State :=
  let c := s.ctx p k
  if c.aborting then s
  else match c.phase with
    | .free => s
    | .fenced => freeCtx p k s
    | .released =>
      match releaseZero p k (c.slotVA + 64) c.header.length s with
      | (s, true) => freeCtx p k (writeHeader p k (State.onCtx p k (fun c => { c with header := { c.header with
          state := .retired, gen := (c.header.gen + 1) % 2 ^ 32 } }) s)).1
      | (s, false) => freeCtx p k s
    | _ => abortRound p k none s

/-- R283: the partition is REMOVING. -/
def startRemoval (c : Cmd) (p : Part) (s : State) : State :=
  let s := endCommands p .partitionGone (stopClusters p s)
  let s := State.onPart p (fun x => { x with phase := .removing, removeCmd := some c, degradeDue := false }) s
  let s := forAll (List.finRange 4) (removeCtx p) s
  let s := invalidateSlot (rootSlot p) s
  let s := s.onRng fun r => { r with waiting := r.waiting.filter fun w => w.inst != partInst p }
  let s := State.onPart p (fun x => { x with
    keyGen := x.keyGen + 1, keysets := Vector.replicate 16 {}, stamps := [], committed := [], bar2Writes := [],
    drained := Vector.replicate 4 false,
    mem := { x.mem.plainFaults with mapPending := none },
    rxt := { x.rxt with
      accessKey := 0, keyPending := none, receive := [], unexp := [], recvPending := none, poolSlots := [],
      grants := x.rxt.grants.map fun g => (g.1, if g.2.state = .active then
        { g.2 with state := .revoking, revokeAt := s.sys.beat } else g.2) } }) s
  let s := s.onConns fun _ c => if c.part = p ∧ c.state ≠ .free then
    { c.dropUnexpected (fun _ => true) with state := .draining, unacked := [], rnr := [], cancelDue := [], eph := none } else c
  noteState p s

def execPartRemove (c : Cmd) (partition : U8) (s : State) : Out :=
  .next (f0Command c 0x02 (decide (partition.toNat < 8)) (fun s =>
    if h : partition.toNat < 8 then
      let p : Part := ⟨partition.toNat, h⟩
      match (s.part p).phase with
      | .absent => done c 0x02 .invalidState s
      | .removing => done c 0x02 .invalidState s
      | _ => startRemoval c p s
    else s) s)

/-- The engine classes of R285 from which nothing of the partition is left: clusters, link dies, memory side, PCIe. -/
def drainedNow (s : State) (p : Part) : Vector Bool 4 :=
  let mine (n : Nat) : Bool := (s.conn n).part == p && (s.conn n).state != .free
  #v[(s.diesOf p).all fun d => (List.finRange 32).all fun c => !(s.cluster d c).running,
     ((s.part p).rxt.grants.all fun g => g.2.inFlight == 0) && (s.part p).rxt.inFlight.isEmpty
       && s.ports.toList.all (fun q => q.waiting.all fun w => !mine w.2.destConn.toNat),
     true, true]

/-- The connections of a removed partition go; its user contexts are written back as FREE (R285). -/
def freeConns (p : Part) (s : State) : State :=
  let gone := s.rxt.conns.filter fun c => c.2.part == p && c.2.state != .free
  let s := forAll (gone.filter fun c => !c.2.fabric) (fun c => fun s =>
    writeCtx c.1 (State.onConn c.1 (fun x => { x with state := .free }) s)) s
  s.onRxt fun r => { r with
    conns := r.conns.filter fun c => !(c.2.part == p)
    cache := vall r.cache fun _ l => l.filter fun n => !(gone.any fun c => c.1 == n)
    lastPsn := gone.foldl (fun l c => ((c.1, c.2.keyGen), c.2.txPsn) :: l.filter (fun y => y.1 != (c.1, c.2.keyGen))) r.lastPsn }

/-- Zeroing meets uncorrectable lines: their clusters and pages are retired under R211 and R212 (R285). -/
def zeroErrors (p : Part) (s : State) : State :=
  let badIn (key len : Nat) : Bool := s.mem.bad.any fun n => decide (key ≤ n * 64 ∧ n * 64 < key + len)
  let s := forAll (s.diesOf p) (fun d => forAll ((List.finRange 36).filter fun c => badIn (sramKey d.val c.val 0) (2 ^ 25))
    (markCluster d)) s
  forAll (s.part p).mem.dirtyDram (fun (n, f) => when (badIn (dramKey n (f * 2 ^ 16)) (2 ^ 16)) (fun s =>
    if h : n < 8 then retirePage ⟨n, h⟩ f s else s)) s

/-- R285: resources are freed at the second boundary after all four reports, and zeroing begins. (DEDUCED, log entry 104) -/
def removeDrained (p : Part) (s : State) : State :=
  let x := s.part p
  let due := match x.drainedAt with
    | some b => decide (b + 2 ≤ s.sys.beat)
    | none => false
  if x.phase ≠ .removing ∨ x.removeZeroing ∨ !due then s
  else
    let s := State.onRx p (fun r => { r with grants := [] }) (freeConns p s)
    let s := dropRetiring p (zeroPartition p (zeroErrors p (forAll (s.diesOf p) (fun d => State.onDie d fun x => { x with zeroing := true }) s)))
    State.onPart p (fun x => { x with removeZeroing := true }) s

def execRemoveDrained (p : Part) (s : State) : Out := .next (removeDrained p s)

/-- R285: zeroing has ended. The reservations end, the function is disabled, and the partition is ABSENT. -/
def removeComplete (p : Part) (s : State) : State :=
  let x := s.part p
  if x.phase ≠ .removing ∨ !x.removeZeroing then s
  else
    let mine := s.diesOf p
    let s := forAll mine (fun d => State.onDie d fun x => { x with owner := none, zeroing := false }) s
    let s := { s with units := s.units.filter fun u => !mine.any fun d => d.val == u.1 / 256,
                      clusters := s.clusters.filter fun u => !mine.any fun d => d.val == u.1 / 32 }
    let s := State.onPart p (fun x => { shownPhase := x.shownPhase, shownCause := x.shownCause }) s
    let s := noteState p s
    match x.removeCmd with
      | some c => done c 0x02 .ok s
      | none => s

def execRemoveComplete (p : Part) (s : State) : Out := .next (removeComplete p s)

/-! ### PART_LOAD (R170, R171) -/

/-- W of a table group. -/
def groupWidth (m : MoltSet) (g : TableGroup) : Nat := 2 ^ m.logNm / nextPow2 g.kOut / 2 ^ g.prec

/-- TV′ of a table group as integers modulo Q_m (R116). -/
def testPoly (m : MoltSet) (g : TableGroup) : List Nat :=
  let k := nextPow2 g.kOut
  let qm : Int := m.primeA * m.primeB
  let w := groupWidth m g
  (List.range (2 ^ m.logNm)).map fun i =>
    let t := i % k
    let c := (i / k + w / 2) / w
    let y (c : Nat) : Int := g.entries.getD (t * 2 ^ g.prec + c) 0
    if g.kOut ≤ t then 0
    else ((if c < 2 ^ g.prec then y c else -y 0) * g.outMult % qm).toNat

/-- The words of every expanded group, in group order: residues modulo PRIME_A, then PRIME_B (R116, R117). -/
def tableStore (i : Image) : List U32 :=
  i.groups.flatMap fun g => match i.molts[g.moltSet]? with
    | some m => let tv := testPoly m g
      tv.map (fun x => BitVec.ofNat 32 (x % m.primeA)) ++ tv.map fun x => BitVec.ofNat 32 (x % m.primeB)
    | none => []

/-- Pages per SRAM slice that the map of a cluster may take (R195). -/
def slicePages : Nat := 448

/-- The map fits the partition's pools (check 11). -/
def mapFits (s : State) (p : Part) (i : Image) : Bool :=
  let pages (l : List MapRec) : Nat := (l.map fun r => r.length / 2 ^ 16).sum
  ((List.range i.dieCount).all fun d => (List.range 32).all fun c =>
      decide (pages (i.memMap.filter fun r => r.backing == 0 && r.die == d && r.cluster == c) ≤ slicePages))
    && decide (pages (i.memMap.filter fun r => r.backing == 1)
        + (layOut s p i.memMap (s.part p).mem).pageCount ≤ poolPages s p)

/-- The memory traffic of every entry index fits the reservation (check 11). -/
def trafficFits (i : Image) (memBw period : Nat) : Bool :=
  (List.range i.jobs.length).all fun j =>
    (List.range ((i.jobs[j]?.map (·.cycleLen)).getD 0)).all fun e =>
      let sum := ((List.range i.dieCount).map fun d =>
        ((((i.schedules.getD d []).getD j [])[e]?).map (·.memBytes)).getD 0).sum
      decide (sum * 1000 ≤ 97 * memBw * (8 * period - 16000))

/-- The budgets of the package's other images, in units of 0.25 W. (DEDUCED, log entry 149) -/
def otherBudgets (s : State) (p : Part) : Nat :=
  ((List.finRange 8).map fun q => if q = p then 0 else
    let loaded := (((s.part q).img.image).map (·.powerBudget)).getD 0
    match (s.part q).img.load with
    | some j => if j.checked then j.image.powerBudget else loaded
    | none => loaded).sum

/-- The floor an image would set, against the caps of its dies (R336). -/
def floorReachable (s : State) (p : Part) (i : Image) : Bool :=
  (s.diesOf p).all fun d => match (s.pwr.ops[d]).cap with
    | some x => decide (i.minOp ≤ x)
    | none => true

/-- Every job of several has a PREEMPT entry, on some die (check 6). -/
def jobsPreempt (i : Image) : Bool :=
  i.jobs.length == 1 || (List.range i.jobs.length).all fun j =>
    (List.range i.dieCount).any fun d => ((i.schedules.getD d []).getD j []).any (·.preempt)

/-- Checks 3 to 12 of R170 on an image's bytes: the image, or the failing check, the number of the section where the failure concerns
one, and the status. (DEDUCED, log entry 92) -/
def loadChecks (s : State) (p : Part) (b : Bytes) : Except (Nat × Nat × Status) Image :=
  match parseImage b with
  | .error sec => .error (3, sec, .invalidCommand)
  | .ok i =>
    let sig := b.drop (b.length - 128)
    let key := Crypto.of512 (fieldB sig 0 64)
    let fail (n : Nat) (st : Status) : Except (Nat × Nat × Status) Image := .error (n, noSection, st)
    if Crypto.keyHash key ≠ (s.part p).resv.imageSignerHash then fail 4 .signatureInvalid
    else if !Crypto.verifyMsg key (b.take (b.length - 64)) (Crypto.of512 (fieldB sig 64 64)) then fail 5 .signatureInvalid
    else if i.dieCount ≠ (s.diesOf p).length ∨ !jobsPreempt i then fail 6 .policyRefused
    else if (check7 i).2 ≠ .ok then .error (7, sectionNumber b (check7 i).1 0xFF 0xFF, (check7 i).2)
    else if let some (t, d, j) := check8 i s.sys.beatPeriod s.pwr.tSoft then .error (8, sectionNumber b t d j, .policyRefused)
    else if !(s.diesOf p).zipIdx.all (fun (d, n) => (i.clusterUse.getD n 0) &&& ~~~(s.dies[d]).capacity == 0) then fail 9 .capacity
    else if 4 * powerLimit < i.powerBudget + otherBudgets s p then fail 10 .capacity
    else if !floorReachable s p i then fail (Config.openField 9 % 256) .capacity
    else if !mapFits s p i then .error (11, sectionNumber b 5 0xFF 0xFF, .capacity)
    else if !trafficFits i (s.part p).resv.memBw s.sys.beatPeriod then fail 11 .capacity
    else if entropyStatus s ≠ .ok then fail 12 (entropyStatus s)
    else .ok i

/-- A PART_LOAD that ends without effect. -/
def refuseLoad (p : Part) (c : Cmd) (st : Status) (chk sec : Nat) (s : State) : State :=
  done c 0x08 st (State.onImg p (fun i => { i with load := none, lastStatus := st, failCheck := chk, failSection := sec }) s)

/-- The input of the partition's instance is at hand. -/
def loadDrawn (p : Part) (s : State) : State :=
  let (e, s) := takePool s
  State.onImg p (fun x => { x with load := x.load.map fun j => { j with entropy := some e } }) s

/-- While the checks run the partition's instance takes its input, or waits for it (R318). -/
def loadSeed (p : Part) (s : State) : State :=
  if inputReady s (partInst p) then loadDrawn p s else waitGenerate ⟨partInst p, .load p⟩ s

def loadImage (c : Cmd) (va len : U64) (p : Part) (s : State) : State :=
  let x := s.part p
  let turnAway (st : Status) (chk : Nat × Nat) (s : State) : State :=
    done c 0x08 st (State.onImg p (fun i => { i with lastStatus := st, failCheck := chk.1, failSection := chk.2 }) s)
  if testHolds s p then turnAway .busy (x.img.failCheck, x.img.failSection) s
  else if !x.allFree then turnAway .invalidState (1, noSection) s
  else if x.img.load.isSome then turnAway .busy (1, noSection) s
  else
    let (s, r) := readOperand p va.toNat len.toNat s
    match r with
    | .error e => refuseLoad p c e 2 noSection s
    | .ok b => match loadChecks s p b with
      | .error (n, sec, st) => refuseLoad p c st n sec s
      | .ok i => loadSeed p (State.onImg p (fun x => { x with load := some { cmd := c, image := i, checked := false } }) s)

/-- LAST_STATUS shows a malformed PART_LOAD too (R177). (DEDUCED, log entry 148) -/
def noteMalformedLoad (c : Cmd) (s : State) : State :=
  match c.fn with
  | .part p => if s.exists_ p then State.onImg p (fun i => { i with lastStatus := .invalidCommand }) s else s
  | .f0 _ => s

def execPartLoad (c : Cmd) (imageVA imageBytes : U64) (s : State) : Out :=
  let ok := decide (1 ≤ imageBytes.toNat ∧ imageBytes.toNat ≤ 2 ^ 30)
  .next (partCommand c 0x08 ok (loadImage c imageVA imageBytes) (if ok then s else noteMalformedLoad c s))

/-- The five steps of R171: the old image stops, its keys, key-sets, mappings and data go. -/
def replaceImage (p : Part) (i : Image) (entropy : Bytes) (s : State) : State :=
  let s := stopClusters p s
  let g := (s.part p).keyGen + 1
  let s := deriveImage p i.measurement g (State.onPart p (fun x => { x with keyGen := g }) s)
  let s := instantiate (partInst p) entropy s
  let mine := s.diesOf p
  let s := { s with units := s.units.filter fun u => !mine.any fun d => d.val == u.1 / 256,
                    clusters := s.clusters.filter fun u => !mine.any fun d => d.val == u.1 / 32 }
  let s := State.onPart p (fun x => { x with
    keysets := Vector.replicate 16 {}, stamps := [], committed := [], bar2Writes := [],
    ingest := vall x.ingest fun _ r => { r with enabled := false, enableReq := false, db := 0, consumed := 0, taken := 0, freed := [] },
    img := { x.img with image := none, minOp := 0, curJob := 0, jobs := Vector.replicate 4 {}, switching := false,
                        switchTo := none, switchArmed := false },
    twin := { x.twin with fp := 0 },
    mem := x.mem.plainFaults }) s
  setMap p (i.memMap.filter fun r => r.backing == 2) (dropRetiring p (zeroPartition p s))

/-- R171: the checks have passed and check 1 is judged again; they do not end before the instance has its input.
(DEDUCED, log entry 102) -/
def execPartLoadChecksEnd (p : Part) (s : State) : Out :=
  .next (match (s.part p).img.load with
    | some j =>
      if j.checked then s
      else if !(s.part p).allFree then refuseLoad p j.cmd .invalidState 1 noSection s
      else match j.entropy with
        | some e => State.onImg p (fun x => { x with load := some { j with checked := true } }) (replaceImage p j.image e s)
        | none => s
    | none => s)

/-- Every die of the partition runs at the image's MIN_OP or above. -/
def diesReady (s : State) (p : Part) (minOp : Nat) : Bool :=
  (s.diesOf p).all fun d => decide (minOp ≤ (s.pwr.ops[d]).current) && !(s.pwr.ops[d]).transition

/-- R171: the new image is installed and runs. -/
def installImage (p : Part) (j : LoadJob) (s : State) : State :=
  let s := State.onPart p (fun x => { x with
    phase := .loaded, degradeDue := false,
    img := { x.img with load := none, image := some j.image, minOp := j.image.minOp, lastStatus := .ok, failCheck := 0,
                        failSection := 0, measure := j.image.measurement, quantumStart := s.sys.beat + 1 } }) s
  let s := forAll (s.diesOf p) (fun d => forAll (List.finRange 4) fun r =>
    State.onRegion d r fun x => { x with store := tableStore j.image, storeFailed := false }) s
  done j.cmd 0x08 .ok (noteState p (installMap p s))

/-- (DEDUCED, log entry 102) -/
def execPartLoadComplete (p : Part) (s : State) : Out :=
  .next (match (s.part p).img.load with
    | some j => if j.checked && diesReady s p j.image.minOp then installImage p j s else s
    | none => s)

end Sys2Proof.Machine
end

