-- ==== Sys2Proof/Machine/Molt.lean ====
section
/-! DEFINITION. The arithmetic of a molt (R113, R116, R118, R119, R121, R122): the down-switch, extraction, modulus switch, blind
rotation, up-switch, shift and pack, over the words of the MOLT_BOOT and MOLT_EXTRACT keys and of the region's table store. -/

namespace Sys2Proof.Machine

/-! ### The molt ring -/

/-- PRIME_A and PRIME_B with their roots. -/
def MoltSet.basis (m : MoltSet) : Basis := [(m.primeA, m.psiA), (m.primeB, m.psiB)]

/-- Q_m. -/
def MoltSet.modulus (m : MoltSet) : Nat := m.primeA * m.primeB

/-- X^e in NTT form modulo `q`. -/
def monomial (q psi logN : Nat) (e : Int) : List Nat :=
  (List.range (2 ^ logN)).map fun i => Crypto.powMod q 32 psi ((e * (2 * brv logN i + 1)) % (2 * 2 ^ logN : Nat)).toNat

/-- An LWE sample: ã and b̃ (R113). -/
structure Sample where
  a : List Nat
  b : Nat
  deriving DecidableEq, Repr

/-! ### Sections of the MOLT_EXTRACT key (R119) -/

/-- Words of the DOWN section. -/
def downWords (r : RingSet) : Nat := 2 * (1 + r.p.length) * 2 ^ r.logN

/-- Words of the UP section and of each PACK_k. -/
def upWords (r : RingSet) (outLevel : Nat) : Nat :=
  2 * digitCount (outLevel + 1) r.p.length * (outLevel + 1 + r.p.length) * 2 ^ r.logN

def downKey (r : RingSet) (w : List Nat) : KeyView := ⟨w, 0, 1 + r.p.length⟩

/-- UP as number 0, PACK_k as number k. -/
def packKey (r : RingSet) (outLevel : Nat) (w : List Nat) (k : Nat) : KeyView :=
  ⟨w, downWords r + k * upWords r outLevel, outLevel + 1 + r.p.length⟩

/-! ### Steps 1 and 2 -/

/-- DOWN: the level-0 ciphertext, switched from s to s′. -/
def downSwitch (r : RingSet) (key : KeyView) (x : Ct) : List Nat × List Nat :=
  let q := r.basis 0
  let y := ctSwitch r.logN q r.special key (ctMap (List.take 1) x)
  (y.1.headD [], y.2.headD [])

/-- x̃ = ⌊2A · x / q_0 + 1/2⌋ mod 2A. -/
def switchWord (q0 a x : Nat) : Nat := (roundDiv (2 * a * x : Nat) q0 % (2 * a : Nat)).toNat

/-- The switched sample of coefficient `j`, with A = `fold`. -/
def extractSample (m : MoltSet) (logN q0 fold : Nat) (x : List Nat × List Nat) (j : Nat) : Sample :=
  let n := 2 ^ logN
  let c := x.2.toArray
  let a := (List.range m.lweN).map fun i => if i ≤ j then subQ q0 0 (c.getD (j - i) 0) else c.getD (n + j - i) 0
  ⟨a.map (switchWord q0 fold), switchWord q0 fold (x.1.getD j 0)⟩

/-- The samples at positions j_w = w · N / 2^σ, with A = N_m / k′. -/
def extractAll (m : MoltSet) (r : RingSet) (key : KeyView) (fold sigma : Nat) (x : Ct) : List Sample :=
  let y := downSwitch r key x
  (List.range (2 ^ sigma)).map fun w =>
    extractSample m r.logN ((r.q.headD 1)) (2 ^ m.logNm / fold) y (w * 2 ^ r.logN / 2 ^ sigma)

/-! ### Step 3: the blind rotation -/

/-- Digits of a value in [0, Q_m), the most significant first: the top d · BR_LOG bits, of x · 2^(d · BR_LOG) / Q_m rounded to the
nearest integer, as signed digits; a carry out of the top is dropped. (DEDUCED, log entry 176) -/
def signedDigits (m : MoltSet) (x : Nat) : List Int :=
  let b := 2 ^ m.brLog
  let v := (roundDiv (x * 2 ^ (m.brDigits * m.brLog) : Nat) m.modulus).toNat
  ((List.range m.brDigits).foldl (fun (e : Nat × List Int) _ =>
    if e.1 % b < b / 2 then (e.1 / b, ((e.1 % b : Nat) : Int) :: e.2)
    else (e.1 / b + 1, (((e.1 % b : Nat) : Int) - (b : Int)) :: e.2)) (v, [])).2

/-- G_e = round(Q_m / 2^((e+1) · BR_LOG)). -/
def gadget (m : MoltSet) (e : Nat) : Nat := (roundDiv m.modulus (2 ^ ((e + 1) * m.brLog))).toNat

/-- A limb of the MOLT_BOOT key: pair, bundle (0 for K_11, 1 for K_10, 2 for K_01), row, part, limb (R118). -/
def bootLimb (m : MoltSet) (w : List Nat) (pair bundle row part limb : Nat) : List Nat :=
  let n := 2 ^ m.logNm
  (w.drop (((((pair * 3 + bundle) * (2 * m.brDigits) + row) * 2 + part) * 2 + limb) * n)).take n

/-- Row `row`, part `part` of g = 1 + (X^(e1+e2) − 1) K_11 + (X^e1 − 1) K_10 + (X^e2 − 1) K_01, in NTT form. -/
def rotationRow (m : MoltSet) (w : List Nat) (pair : Nat) (e1 e2 : Int) (row part : Nat) : Limbs :=
  m.basis.zipIdx.map fun p =>
    let q := p.1.1
    let term (bundle : Nat) (e : Int) : List Nat :=
      ((monomial q p.1.2 m.logNm e).map fun v => subQ q v 1).zipWith (mulQ q) (bootLimb m w pair bundle row part p.2)
    let one := if row / m.brDigits = part then gadget m (row % m.brDigits) % q else 0
    (term 0 (e1 + e2)).zipWith (addQ q) ((term 1 e1).zipWith (addQ q) ((term 2 e2).map (addQ q one)))

/-- The rows of digits of both parts of the accumulator, in NTT form: row r holds digit r mod d of part ⌊r / d⌋. -/
def digitRows (m : MoltSet) (acc : Ct) : List Limbs :=
  [acc.1, acc.2].flatMap fun x =>
    let digits := (List.range (2 ^ m.logNm)).map fun i =>
      signedDigits m (crt ((m.basis.zip x).map fun e => (e.2.getD i 0, e.1.1))).1
    (List.range m.brDigits).map fun e => toNtt m.logNm m.basis (liftInts m.basis (digits.map (·.getD e 0)))

/-- One pair of the loop: the accumulator's digits times the rows of g. -/
def rotatePair (m : MoltSet) (w : List Nat) (pair : Nat) (e1 e2 : Int) (acc : Ct) : Ct :=
  let rows := (digitRows m acc).zipIdx
  let zero : Limbs := m.basis.map fun _ => List.replicate (2 ^ m.logNm) 0
  let part (t : Nat) : Limbs := toCoef m.logNm m.basis
    (rows.foldl (fun s r => zipLimbs m.basis addQ s (zipLimbs m.basis mulQ r.1 (rotationRow m w pair e1 e2 r.2 t))) zero)
  (part 0, part 1)

/-- The loop of R121 as it is written there, from X^(−k′ b̃) · TV′ in part 0, its exponents −k′ ã included.
(DESIGN CHOICE, log entry 177) -/
def blindRotate (m : MoltSet) (boot : List Nat) (fold : Nat) (tv : Limbs) (x : Sample) : Ct :=
  let n := 2 ^ m.logNm
  let zero : Limbs := m.basis.map fun _ => List.replicate n 0
  let e (i : Nat) : Int := -((fold * x.a.getD i 0 : Nat) : Int)
  (List.range (m.lweN / 2)).foldl (fun acc i => rotatePair m boot i (e (2 * i)) (e (2 * i + 1)) acc)
    (shiftPoly n (-((fold * x.b : Nat) : Int)) m.basis tv, zero)

/-! ### Steps 4 to 6 -/

/-- UP: every coefficient is switched from Q_m to Q_o as the centred round(x · Q_o / Q_m), the polynomial embedded by X ↦ Y^r and
switched with the UP section. -/
def upSwitch (m : MoltSet) (r : RingSet) (extract : List Nat) (acc : Ct) : Ct :=
  let q := r.basis m.outLevel
  let qo : Nat := (q.map (·.1)).foldl (· * ·) 1
  let step := 2 ^ (r.logN - m.logNm)
  let lift (x : Limbs) : Limbs :=
    let l := (List.range (2 ^ m.logNm)).map fun i =>
      roundDiv (centred (crt ((m.basis.zip x).map fun e => (e.2.getD i 0, e.1.1))).1 m.modulus * qo) m.modulus
    liftInts q (l.flatMap fun v => v :: List.replicate (step - 1) 0)
  ctSwitch r.logN q r.special (packKey r m.outLevel extract 0) (ctMap lift acc)

/-- Shift: table `t` to position 0, and N^(−1) modulo each prime. -/
def shiftTable (m : MoltSet) (r : RingSet) (t : Nat) (x : Ct) : Ct :=
  let q := r.basis m.outLevel
  let n := 2 ^ r.logN
  ctMap (fun l => scaleLimbs q (fun p => Crypto.invMod p n) (shiftPoly n (-((t * 2 ^ (r.logN - m.logNm) : Nat) : Int)) q l)) x

/-- The automorphism Y ↦ Y^(2^k + 1), switched with PACK_k. -/
def packAuto (m : MoltSet) (r : RingSet) (extract : List Nat) (k : Nat) (x : Ct) : Ct :=
  ctAuto r.logN (2 ^ k + 1) (r.basis m.outLevel) r.special (packKey r m.outLevel extract k) x

/-- One merge step: results of even index stay in place, those of odd index move by N / 2^k; an absent side is zero.
(DEDUCED, log entry 176) -/
def mergeStep (m : MoltSet) (r : RingSet) (extract : List Nat) (k : Nat) : Option Ct → Option Ct → Option Ct
  | none, none => none
  | even, odd =>
    let q := r.basis m.outLevel
    let zero : Ct := let z : Limbs := q.map fun _ => List.replicate (2 ^ r.logN) 0
      (z, z)
    let x := even.getD zero
    let y := ctMap (shiftPoly (2 ^ r.logN) (2 ^ (r.logN - k) : Nat) q) (odd.getD zero)
    some (ctAdd q (ctAdd q x y) (packAuto m r extract k (ctSub q x y)))

/-- The merge steps of 2^k results, those of absent index left out. -/
def mergeAll (m : MoltSet) (r : RingSet) (extract : List Nat) : Nat → (Nat → Option Ct) → Option Ct
  | 0, f => f 0
  | k + 1, f => mergeStep m r extract (k + 1) (mergeAll m r extract k fun w => f (2 * w))
      (mergeAll m r extract k fun w => f (2 * w + 1))

/-- Pack: the merge steps, then the trace steps from σ + 1 to LOG_N. -/
def packAll (m : MoltSet) (r : RingSet) (extract : List Nat) (sigma : Nat) (f : Nat → Option Ct) : Ct :=
  let q := r.basis m.outLevel
  let zero : Ct := let z : Limbs := q.map fun _ => List.replicate (2 ^ r.logN) 0
    (z, z)
  (List.range (r.logN - sigma)).foldl (fun x i => ctAdd q x (packAuto m r extract (sigma + 1 + i) x))
    ((mergeAll m r extract sigma f).getD zero)

/-! ### The table store (R116, R117) -/

/-- The words of group `g` begin after those of the groups before it. -/
def storeStart (i : Image) (g : Nat) : Nat :=
  ((i.groups.take g).map fun x => match i.molts[x.moltSet]? with
    | some m => 2 * 2 ^ m.logNm
    | none => 0).sum

/-- TV′ of a group as the region's store holds it: its residues modulo PRIME_A, then modulo PRIME_B. -/
def storedTable (store : List U32) (i : Image) (m : MoltSet) (g : Nat) : Limbs :=
  cutLimbs m.logNm (((store.drop (storeStart i g)).take (2 * 2 ^ m.logNm)).map (·.toNat))

/-- The outputs of a molt (R121, steps 3 to 6): table `t` of the samples whose indices begin at `first`, of 2^σ. -/
def moltTable (m : MoltSet) (r : RingSet) (boot extract : List Nat) (tv : Limbs) (fold sigma first : Nat) (l : List Sample)
    (t : Nat) : Ct :=
  packAll m r extract sigma fun w =>
    if first ≤ w then (l[w - first]?).map fun x => shiftTable m r t (upSwitch m r extract (blindRotate m boot fold tv x)) else none

end Sys2Proof.Machine
end

