-- ==== Sys2Proof/Machine/Encrypted.lean ====
section
/-! DEFINITION. Molts (R113 to R125), key-set registration (R98, R99), the source of a COMBINE round (R107), and the repairs of
table stores and programs (R125, R192). -/

namespace Sys2Proof.Machine

/-! ### Molts -/

/-- The descriptor of an LWE batch (R122). -/
structure BatchHead where
  first : Nat
  count : Nat
  sigma : Nat
  moltSet : Nat
  deriving DecidableEq, Repr

/-- A batch's descriptor, where it is well formed for its header: COUNT a power of two and at most 2^(LOG_N − 4), FIRST a multiple
of it, SIGMA at most LOG_N, its samples among the 2^SIGMA, and the length holds the samples of the molt set it names, where the
image has that set (R122, R123). (DEDUCED, log entry 174) -/
def batchHead (i : Image) (o : Operand) : Option BatchHead :=
  let b := o.body
  let h : BatchHead := ⟨fieldLE b 0 4, fieldLE b 4 4, fieldLE b 8 1, fieldLE b 9 1⟩
  if h.count == nextPow2 h.count && decide (0 < h.count ∧ h.count * 16 ≤ 2 ^ o.h.logN) && h.first % h.count == 0
      && decide (h.sigma ≤ o.h.logN ∧ h.first + h.count ≤ 2 ^ h.sigma)
      && zerosAt b 10 6 && o.h.parts == 1 && !o.h.ntt && o.h.bodyBytes == (o.h.level + 1) * 2 ^ o.h.logN * 4
      && (i.molts[h.moltSet]?).all fun m => decide (16 + h.count * (m.lweN + 2) * 2 ≤ o.h.bodyBytes)
  then some h else none

/-- The samples of a batch (R122). -/
def batchSamples (m : MoltSet) (h : BatchHead) (b : Bytes) : List Sample :=
  (List.range h.count).map fun w =>
    let at_ (i : Nat) : Nat := fieldLE b (16 + (w * (m.lweN + 2) + i) * 2) 2
    ⟨(List.range m.lweN).map at_, at_ m.lweN⟩

/-- The keys of a molt: MOLT_EXTRACT and MOLT_BOOT, at level 0. -/
def moltKeys : List KeyNeed := [⟨5, 0, 0⟩, ⟨4, 0, 0⟩]

/-- A molt's input: clean, with its descriptor where it is a batch. -/
def moltInputOk (i : Image) (o : Operand) : Bool := o.clean && (o.h.fmt != 3 || (batchHead i o).isSome)

/-- Whether the input fits the group's molt set (check 2 of R123), and σ the ring. (DESIGN CHOICE, log entry 174) -/
def moltFits (i : Image) (g : TableGroup) (m : MoltSet) (sigma : Nat) (o : Operand) : Bool :=
  o.h.paramSet == m.outerSet && o.shape
    && (if o.h.fmt = 3 then (batchHead i o).any fun h => h.moltSet == g.moltSet else o.h.fmt == 1 && decide (sigma ≤ o.h.logN))

/-- The header of a molt's destination (R124). -/
def moltOut (i : Image) (m : MoltSet) (h : ObjHeader) : ObjHeader :=
  { h with
    fmt := 1, parts := 2, level := m.outLevel, noise := m.outNb, scale := if h.ckks then m.outScale else 0, ntt := false,
    poisoned := false, bodyBytes := Policy.bodyBytes (setOf i h) 2 m.outLevel }

/-- The region's table store cannot be read. -/
def storeBad (s : State) (u : UnitId) : Bool := ((s.dies[u.die]).regions[regionOfUnit u]).storeFailed

/-- The words of the region's table store. -/
def storeWords (s : State) (u : UnitId) : List U32 := ((s.dies[u.die]).regions[regionOfUnit u]).store

/-- The samples a molt looks up, σ, and the first one's index: those of a batch, or those of steps 1 and 2. -/
def moltSamples (i : Image) (m : MoltSet) (r : RingSet) (extract : List Nat) (fold sigma : Nat) (o : Operand) : List Sample × Nat × Nat :=
  match if o.h.fmt = 3 then batchHead i o else none with
  | some h => (batchSamples m h o.body, h.sigma, h.first)
  | none => (extractAll m r (downKey r extract) fold sigma (ctOf r o), sigma, 0)

/-- MOLT: K_OUT destinations at X[XD] + t · IMM. A group that the image lacks fits no input: LEVEL_MISMATCH, at one destination. The
steps run within one command; nothing of them is held between beats. (DESIGN CHOICE, log entries 59 and 174) -/
def moltEffect (u : UnitId) (f : OFmt) (s : State) : State :=
  let i := s.imageOf u.part
  let n := f.p24.toNat % 16
  let g := i.groups[n]?
  let tables := (g.map (·.kOut)).getD 1
  let dst (t : Nat) : Nat := addr (s.x u f.xd) (t * f.imm.toNat)
  match readObject u (s.x u f.xa).toNat s with
  | (s, none) => s
  | (s, some o) =>
    let fail (began : Bool) (h : ObjHeader) (st : Status) (s : State) : State :=
      failOp u began ((List.range tables).map fun t => (dst t, h)) st s
    if !moltInputOk i o then fail false o.h .poisonedInput s
    else match g, (g.bind fun g => i.molts[g.moltSet]?) with
      | some g, some m =>
        if !moltFits i g m f.p8.toNat o then fail false o.h .levelMismatch s
        else
          let keys := moltKeys.map (findKey s u.part o.h.keyset o.h.paramSet)
          let out := moltOut i m o.h
          if keys.any Option.isNone then fail false o.h .keyMismatch s
          else if m.inMax < o.h.noise then fail false o.h .noiseExhausted s
          else match streamKeys u (keys.filterMap id) s with
            | (s, none) => s
            | (s, some (.error e)) => fail true out e s
            | (s, some (.ok kb)) =>
              if storeBad s u then fail true out .uncorrectableMemory s
              else
                let r := setOf i o.h
                let extract := (keyNth kb 0).words
                let fold := nextPow2 g.kOut
                let (l, sigma, first) := moltSamples i m r extract fold f.p8.toNat o
                let table := moltTable m r (keyNth kb 1).words extract (storedTable (storeWords s u) i m n) fold sigma first l
                forAll (List.range tables) (fun t s =>
                  opWriteMem u (dst t + 64) (ctBytes r m.outLevel false (table t)) false (opWriteMem u (dst t) out.bytes false s)) s
      | _, _ => fail false o.h .levelMismatch s

def execMolt (u : UnitId) (f : OFmt) (s : State) : Out := clusterOp u f f.wf (moltEffect u f) s

/-- The bytes of a sample in a batch (R122). -/
def Sample.bytes (x : Sample) : Bytes := x.a.flatMap (leBytes 2) ++ leBytes 2 x.b ++ zeroBytes 2

/-- An LWE batch: header, descriptor, the samples from index `first` on, and the padding (R122). -/
def batchBytes (set : Nat) (h : ObjHeader) (sigma first : Nat) (l : List Sample) : Bytes :=
  let body := leBytes 4 first ++ leBytes 4 l.length ++ leBytes 1 sigma ++ leBytes 1 set ++ zeroBytes 6 ++ l.flatMap Sample.bytes
  let chunk := 4 * 2 ^ h.logN
  let n := ceilDiv body.length chunk
  { h with fmt := 3, parts := 1, level := n - 1, ntt := false, poisoned := false, bodyBytes := n * chunk }.bytes
    ++ body ++ zeroBytes (n * chunk - body.length)

/-- MOLT_EX: batches of 2^P24[4:0] samples at X[XD] + b · IMM; with P24[4:0] above σ, one batch of all 2^σ samples; with σ above
17, which fits no ring, one poisoned destination. The word names no
table group, so k′ of the modulus switch is free among 1, 2 and 4. (DESIGN CHOICE, log entry 174) -/
def moltExEffect (u : UnitId) (f : OFmt) (s : State) : State :=
  let i := s.imageOf u.part
  let sigma := f.p8.toNat
  let count := 2 ^ min sigma (f.p24.toNat % 32)
  let batches := if sigma ≤ 17 then 2 ^ sigma / count else 1
  let dst (b : Nat) : Nat := addr (s.x u f.xd) (b * f.imm.toNat)
  match readObject u (s.x u f.xa).toNat s with
  | (s, none) => s
  | (s, some o) =>
    let fail (began : Bool) (st : Status) (s : State) : State :=
      failOp u began ((List.range batches).map fun b => (dst b, o.h)) st s
    if !o.clean then fail false .poisonedInput s
    else
      let n := (i.molts.findIdx? fun m => m.outerSet == o.h.paramSet).getD 2
      match i.molts[n]? with
      | none => fail false .levelMismatch s
      | some m =>
        if !o.shape || o.h.fmt != 1 || decide (o.h.logN < sigma) || decide (2 ^ o.h.logN < 16 * count) then fail false .levelMismatch s
        else
          let keys := [findKey s u.part o.h.keyset o.h.paramSet ⟨5, 0, 0⟩]
          if keys.any Option.isNone then fail false .keyMismatch s
          else if m.inMax < o.h.noise then fail false .noiseExhausted s
          else match streamKeys u (keys.filterMap id) s with
            | (s, none) => s
            | (s, some (.error e)) => fail true e s
            | (s, some (.ok kb)) =>
              let r := setOf i o.h
              let l := extractAll m r (downKey r (keyNth kb 0).words) (2 ^ (Config.extractLog n % 3)) sigma (ctOf r o)
              forAll (List.range batches) (fun b s => opWriteMem u (dst b)
                (batchBytes n o.h sigma (b * count) ((l.drop (b * count)).take count)) false s) s

def execMoltEx (u : UnitId) (f : OFmt) (s : State) : Out := clusterOp u f f.wf (moltExEffect u f) s

/-! ### KEYSET_LOAD (R98, R99) -/

/-- A block header's fields. -/
structure BlockHead where
  id : Nat
  rec_ : KeyRec
  index : Nat
  deriving DecidableEq, Repr

/-- The block header, where its fields are in range for the image. -/
def blockHead (i : Image) (b : Bytes) (n : Nat) : Option BlockHead :=
  let kind := fieldLE b 8 1
  let lo := fieldLE b 9 1
  let hi := fieldLE b 10 1
  let ps := fieldLE b 11 1
  let g := fieldLE b 12 4
  match i.rings[ps]? with
  | none => none
  | some r =>
    let galois := match kind with
      | 2 => g % 4 == 1 && decide (g < 2 * 2 ^ r.logN)
      | 3 => g == 2 * 2 ^ r.logN - 1
      | _ => g == 0
    if fieldLE b 0 8 != 0 && inRange 1 6 kind && decide (lo ≤ hi) && galois && zerosAt b 0x18 40
        && decide (0 < fieldLE b 0x14 4)
    then some ⟨fieldLE b 0 8, ⟨kind, lo, hi, ps, g, n - fieldLE b 0x10 4, fieldLE b 0x14 4⟩, fieldLE b 0x10 4⟩
    else none

/-- Directory scan: the open key and how many of its blocks have come, the keys found, newest first, or the failing block. -/
structure KeyScan where
  open_ : Option KeyRec := none
  came : Nat := 0
  keys : List KeyRec := []
  fail : Option Nat := none
  deriving DecidableEq, Repr

/-- LOG_N of the ring set with a number. -/
def logNOf (i : Image) (set : Nat) : Option Nat := (i.rings[set]?).map (·.logN)

/-- One block more; `id` and `logN` are the first block's KEYSET_ID and its set's LOG_N, which all blocks share (R99).
(DEDUCED, log entry 178) -/
def scanBlock (i : Image) (id : Nat) (logN : Option Nat) (b : Bytes) (n : Nat) (x : KeyScan) : KeyScan :=
  if x.fail.isSome then x
  else match blockHead i b n with
    | none => { x with fail := some n }
    | some h =>
      let ok := h.id == id && logNOf i h.rec_.paramSet == logN && match x.open_ with
        | some r => h.rec_ == r && h.index == x.came
        | none => h.index == 0 && decide (x.keys.length < 4096)
      if !ok then { x with fail := some n }
      else if x.came + 1 = h.rec_.blockCount then { x with open_ := none, came := 0, keys := h.rec_ :: x.keys }
      else { x with open_ := some h.rec_, came := x.came + 1 }

/-- The directory of a key-set, or its first failing block. -/
def scanKeyset (i : Image) (total : Nat) (b : Bytes) : Except Nat (List KeyRec) :=
  let id := fieldLE b 0 8
  let x := (List.range total).foldl (fun x n => scanBlock i id (logNOf i (fieldLE b 11 1)) ((b.drop (4096 * n)).take 64) n x) {}
  match x.fail, x.open_ with
  | some n, _ => .error n
  | none, some _ => .error (total - 1)
  | none, none => .ok x.keys.reverse

/-- A round of the partition references the key-set. (DEDUCED, log entry 60) -/
def keysetUsed (x : PartState) (id : Nat) : Bool :=
  x.ctxs.toList.any fun c => match c.heldPolicy with
    | some q => q.mode == .encrypted && q.keysetId == id
    | none => false

def setKeyset (p : Part) (n : Fin 16) (k : KsSlot) : State → State :=
  State.onPart p fun x => { x with keysets := vput x.keysets n k }

/-- All pages of a range are backed by LPDDR5X. -/
def allDram (s : State) (p : Part) (va len : Nat) : Bool :=
  (pagesOf va len).all fun n => match s.leafAt p (n * 2 ^ 16) with
    | some e => leafBacking e == 1
    | none => false

def loadKeyset (c : Cmd) (slot : U8) (va : U64) (total : U32) (p : Part) (s : State) : State :=
  if h : slot.toNat < 16 then
    let n : Fin 16 := ⟨slot.toNat, h⟩
    let old := (s.part p).keysets[n]
    let busy := old.registered && keysetUsed (s.part p) old.id.toNat
    if total = 0 then
      if busy then done c 0x30 .busy s else done c 0x30 .ok (setKeyset p n {} s)
    else
      let (s, r) := readOperand p va.toNat (4096 * total.toNat) s
      match r with
      | .error e => done c 0x30 e s
      | .ok b =>
        let id := fieldLE b 0 8
        if !allDram s p va.toNat (4096 * total.toNat) then done c 0x30 .accessDenied s
        else if busy || (s.part p).keysets.toList.any (fun k => k.registered && k.id.toNat == id && keysetUsed (s.part p) id) then
          done c 0x30 .busy s
        else match scanKeyset (s.imageOf p) total.toNat b with
          | .error f => done c 0x30 .invalidCommand (setKeyset p n { old with fail := f } s)
          | .ok keys =>
            if (List.finRange 16).any fun m => m != n && ((s.part p).keysets[m]).registered && ((s.part p).keysets[m]).id.toNat == id then
              done c 0x30 .invalidCommand s
            else done c 0x30 .ok (setKeyset p n
              { id := BitVec.ofNat 64 id, registered := true, paramSet := fieldLE b 11 1, blocks := total.toNat, fail := 0,
                digest := Crypto.sha256 b, va := va, keys := keys } s)
  else done c 0x30 .invalidCommand s

/-- R99. -/
def execKeysetLoad (c : Cmd) (slot : U8) (ksVA : U64) (blockTotal : U32) (s : State) : Out :=
  .next (partCommand c 0x30 true (loadKeyset c slot ksVA blockTotal) s)

/-! ### The source of a COMBINE round (R107) -/

/-- The complete members, ascending. -/
def completeMembers (c : RoundCtx) : List Nat :=
  (c.enc.counts.filter fun e => e.2 == c.policy.ctCount).map (·.1)

/-- T (R107). -/
def combineSet (c : RoundCtx) : List Nat :=
  if c.policy.shamir then (completeMembers c).take c.policy.threshold else completeMembers c

/-- λ_k of Shamir sharing over the member set, modulo `q`: the product over the other members j of j / (j − k) (R107). -/
def lagrange (q : Nat) (set : List Nat) (k : Nat) : Nat :=
  (set.filter (· != k)).foldl (fun a j => mulQ q a (mulQ q (j % q) (Crypto.invMod q (subQ q (j % q) k)))) 1

/-- The staged share of member `m` of source `j`, as limbs (R96). -/
def stagedShare (s : State) (p : Part) (k : Ctx) (r : RingSet) (m j : Nat) : Limbs :=
  match (s.part p).committed.find? fun x => x.ctx == k && x.contrib == m && x.index == j with
  | some x => cutLimbs r.logN (wordsOf (deviceRead s p (x.msgVA + 80) (Policy.bodyBytes r 1 (s.ctx p k).policy.level)))
  | none => []

/-- Σ λ_k · d_(k,j) over T of a SHAMIR round. -/
def weightedShares (s : State) (p : Part) (k : Ctx) (r : RingSet) (j : Nat) : Limbs :=
  let set := combineSet (s.ctx p k)
  let q := r.basis (s.ctx p k).policy.level
  set.foldl (fun a m => zipLimbs q addQ a (scaleLimbs q (fun x => lagrange x set m) (stagedShare s p k r m j)))
    (q.map fun _ => List.replicate (2 ^ r.logN) 0)

/-- The weighted sums of a SHAMIR round go where an additive round's sums stand: to the bodies of the round's accumulators, for
CT_COMBINE to read. (DESIGN CHOICE, log entry 179) -/
def weighShares (p : Part) (k : Ctx) (r : RingSet) (s : State) : State :=
  let q := (s.ctx p k).policy
  let size := 64 + Policy.bodyBytes r 2 q.level
  forAll ((List.range q.ctCount).map fun j => (j, weightedShares s p k r j))
    (fun x => deviceWrite p ((accRange s p k).1 + x.1 * size + 64) (wordBytes x.2.flatten)) s

/-- A source header matches the policy and its parameter set. -/
def sourceOk (q : Policy) (r : RingSet) (b : Bytes) : Bool := match ObjHeader.parse b with
  | some h => h.fmt == 1 && !h.poisoned && h.paramSet == q.paramSet && h.level == q.level && h.keyset == q.keysetId
      && h.ckks == r.ckks && h.logN == r.logN && h.parts == 2 && h.ntt == q.encNtt && h.bodyBytes == Policy.bodyBytes r 2 q.level
  | none => false

/-- The partition controller reads the source in the first CLOSING beats, as an operand (R204, R205); after a fault, or before the
mapping is mended, it reads again. A source that is not the one named poisons every tile. (DEDUCED, log entry 62) -/
def readSource (p : Part) (k : Ctx) (s : State) : State :=
  let c := s.ctx p k
  let q := c.policy
  match (s.imageOf p).rings[q.paramSet]? with
  | some r =>
    let size := 64 + Policy.bodyBytes r 2 q.level
    match readOperand p q.sourceVA (q.ctCount * size) s with
    | (s, .error _) => s
    | (s, .ok b) =>
      let good := Crypto.sha256 b == q.sourceDigest && !poisonVA s p q.sourceVA (q.ctCount * size) 0
        && (List.range q.ctCount).all fun j => sourceOk q r ((b.drop (size * j)).take 64)
      let set := BitVec.ofNat 64 ((combineSet c).map fun m => 2 ^ (m - 1)).sum
      let s := State.onCtx p k (fun c => { c with enc := { c.enc with sourceRead := true, combineSet := set } }) s
      if good then when q.shamir (weighShares p k r) s
      else postRound p k .poisonedInput .error (Config.openField 10) 0 (poisonRound p k s)
  | none => s

/-- (DEDUCED, log entry 62) -/
def execCombineSourceRead (p : Part) (k : Ctx) (s : State) : Out :=
  let c := s.ctx p k
  .next (when (c.phase == .closing && c.policy.mode == .encrypted && c.policy.combine && !c.enc.sourceRead && c.enc.headersSet)
    (readSource p k) s)

/-! ### Repairs (R125, R192) -/

/-- R125: the region's store is rebuilt from the partition's copy of its groups. (DEDUCED, log entry 61) -/
def execTableStoreRebuild (d : Die) (r : Region) (s : State) : Out :=
  .next (match s.ownerOf d with
    | some p => match (s.part p).img.image with
      | some i => postBoth p .partition .uncorrectableMemory .error (p.val ||| (8 * r.val) <<< 3 ||| d.val <<< 8) (detail 6 0)
          (State.onRegion d r (fun x => { x with store := tableStore i, storeFailed := false }) s)
      | none => s
    | none => s)

/-- The lines of a cluster's reserved program area (R195). -/
def programLines (s : State) (d : Die) (c : Cluster) : List Nat := match s.physOf d c with
  | some n => (s.mem.bad.filter fun l =>
      decide (lineOf (sramKey d.val n (reservedBase + 0x190000)) ≤ l ∧ l < lineOf (sramKey d.val n (reservedBase + 0x200000))))
  | none => []

/-- R192: an uncorrectable program word aborts the beat, and the programs are recopied. (DEDUCED, log entry 61) -/
def execProgramRecopy (p : Part) (d : Die) (c : Cluster) (s : State) : Out :=
  .next (if s.ownerOf d ≠ some p ∨ (s.part p).img.image = none then s
    else
      let lines := programLines s d c
      let at_ := match lines with
        | l :: _ => l * 64 % 2 ^ 25
        | [] => reservedBase + 0x190000 + Config.openField 11 % 0x70000
      let s := postMemory (some p) (sramKey d.val ((s.physOf d c).getD 0) at_) at_ .uncorrectableMemory .error (memSource d.val c.val false (c.val / 8)) (abortCluster d c s)
      s.onStore fun m => { m with bad := m.bad.filter fun l => !lines.contains l })

end Sys2Proof.Machine
end

