-- ==== Sys2Proof/Machine/Beats.lean ====
section
/-! DEFINITION. A partition's beat: the schedule (R156, R168), the commit window (R155, R159, R192), commit and abort (R156 to
R159), admission (R32, R33, R52, R96), the commit lists (R186), the beat fingerprint (R261), and jobs (R174, R175). -/

namespace Sys2Proof.Machine

/-! ### Schedules (R156, R168, R174) -/

/-- The entry of the running job's step on image die `n`. -/
def entryAt (i : Image) (n job step : Nat) : Option SchedEntry :=
  let l := (i.schedules.getD n []).getD job []
  l[step % max l.length 1]?

def PartImage.job (i : PartImage) : JobState := i.jobs[i.curJob]
def onJob (p : Part) (f : JobState → JobState) : State → State := State.onImg p fun i => { i with jobs := vupd i.jobs i.curJob f }

/-- The partition's dies, numbered as image dies. -/
def imageDies (s : State) (p : Part) : List (Nat × Die) := (List.range (s.diesOf p).length).zip (s.diesOf p)

/-- The program a logical cluster's entry names in the current step. -/
def refOf (s : State) (p : Part) (n : Nat) (c : Cluster) : Option Nat :=
  let x := (s.part p).img
  ((entryAt (s.imageOf p) n x.curJob.val x.job.step).bind fun e => e.refs[c.val]?).join

/-- The logical clusters of a partition: image die, die, cluster. -/
def clustersOf (s : State) (p : Part) : List (Nat × Die × Cluster) :=
  (imageDies s p).flatMap fun (n, d) => (List.finRange 32).map fun c => (n, d, c)

def isDone (s : State) (p : Part) (d : Die) (c : Cluster) : Bool := ((s.part p).img.job.done[d]).getLsbD c.val

/-- Every cluster the entries name is done (R156). -/
def allDone (s : State) (p : Part) : Bool :=
  (clustersOf s p).all fun (n, d, c) => (refOf s p n c).isNone || isDone s p d c

/-- The boundary is a pre-emption point (R174); a job with a waiting cluster never reaches one (R207). (DEDUCED, log entry 37) -/
def preemptPoint (s : State) (p : Part) : Bool :=
  let x := (s.part p).img
  (imageDies s p).all (fun (n, _) => match entryAt (s.imageOf p) n x.curJob.val x.job.step with
    | some e => e.preempt
    | none => false) && x.job.done.toList.all (· == 0) && (clustersOf s p).all fun (_, d, c) => !(s.cluster d c).waitFault

/-- The job that serves a context. -/
def jobOf (s : State) (p : Part) (k : Ctx) : Option Nat := (layoutOf s p k).map (·.job)

/-- A job has work (R174). -/
def jobHasWork (s : State) (p : Part) (j : Nat) : Bool :=
  (List.finRange 4).any fun k => jobOf s p k == some j && match (s.ctx p k).phase with
    | .opened => true
    | .closing => true
    | .closed => true
    | .finalizing => true
    | _ => false

/-- The next job in cyclic order that has work. -/
def nextJob (s : State) (p : Part) : Option (Fin 4) :=
  let n := (s.imageOf p).jobs.length
  ((List.range (n - 1)).map fun i => ((s.part p).img.curJob.val + 1 + i) % n).findSome? fun j =>
    if h : j < 4 then (if jobHasWork s p j then some ⟨j, h⟩ else none) else none

/-- QUANTUM of the running job; it counts only where the image has several jobs. -/
def quantumOf (s : State) (p : Part) : Option Nat :=
  let i := s.imageOf p
  if i.jobs.length ≤ 1 then none else (i.jobs[(s.part p).img.curJob.val]?).map (·.quantum)

/-- R174: the quantum has run out with the current beat; where no other job has work, it restarts. -/
def expireQuantum (p : Part) (s : State) : State :=
  match quantumOf s p with
  | none => s
  | some q =>
    if s.sys.beat + 1 < (s.part p).img.quantumStart + q then s
    else State.onImg p (fun i =>
      if (nextJob s p).isSome then { i with switchArmed := true } else { i with quantumStart := s.sys.beat + 1 }) s

/-- (DEDUCED, log entry 10) -/
def execQuantumExpiry (p : Part) (s : State) : Out :=
  .next (when ((s.part p).phase == .loaded && (s.part p).img.image.isSome) (expireQuantum p) s)

/-- A unit's context goes into the running job's save area (R175). -/
def saveUnit (p : Part) (d : Die) (c : Cluster) (u : UnitIx) (s : State) : State :=
  match saveKey s d c (s.part p).img.curJob u with
  | some key => saveContext key (s.part p).img.job.step (isDone s p d c) (s.unit d c u).base s
  | none => s

/-- A unit takes the context that a job's save area holds. -/
def loadUnit (j : Fin 4) (d : Die) (c : Cluster) (u : UnitIx) (s : State) : State :=
  match saveKey s d c j u with
  | some key =>
    let new := savedContext s key s.draws
    { State.onUnit d c u (fun x => { x with base := new, work := new, written := [] }) (s.noteRead key contextBytes) with
      draws := s.draws + 1 }
  | none => s

/-- Save the outgoing job's context of a unit, and load the incoming one's. -/
def switchUnit (p : Part) (to_ : Fin 4) (d : Die) (c : Cluster) (u : UnitIx) (s : State) : State :=
  loadUnit to_ d c u (saveUnit p d c u s)

/-- The switch of a partition to the job that is due. -/
def switchJob (p : Part) (s : State) : State :=
  match (s.part p).img.switchTo with
  | none => s
  | some j =>
    let s := forAll (clustersOf s p) (fun (_, d, c) => forAll (List.finRange 8) (switchUnit p j d c)) s
    State.onImg p (fun i => { i with curJob := j, switches := sat32 i.switches, switchTo := none, switchArmed := false }) s

/-- R175: the switch beat. A switch that a hold has overtaken waits for its beat. -/
def execJobSwitch (p : Part) (s : State) : Out :=
  .next (when ((s.part p).img.switching && (s.part p).img.kind == .switch) (switchJob p) s)

/-! ### The commit window (R155, R159, R192) -/

/-- A unit's beat is complete (R191). -/
def UnitState.ended (x : UnitState) : Bool := decide (x.progCount ≤ x.pos) && x.asyncs.isEmpty && x.wait == .none

/-- A cluster that a refused draw has stopped: the beat aborts without an overrun, and the latch keeps ENTROPY_FAIL. -/
def entropyAbort (d : Die) (c : Cluster) (s : State) : State :=
  let latched (i : Nat) (w : UnitRegs) : UnitRegs :=
    if w.latchStatus = .ok then { w with latchStatus := .entropyFail, latchIndex := i } else w
  let waits := (List.finRange 8).filter fun u => (s.unit d c u).wait == .entropy
  forAll waits (fun u => State.onUnit d c u fun x => { x with work := latched x.pos x.work, base := latched x.pos x.base })
    (abortCluster d c s)

/-- A cluster still issuing is judged. -/
def closeCluster (d : Die) (c : Cluster) (s : State) : State :=
  let r := s.cluster d c
  if !r.running || r.aborted || (List.finRange 8).all (fun u => (s.unit d c u).ended) then s
  else if (List.finRange 8).any fun u => (s.unit d c u).wait == .entropy then entropyAbort d c s
  else overrunCluster d c s

def closeWindow (p : Part) (s : State) : State := forAll (clustersOf s p) (fun (_, d, c) => closeCluster d c) s

/-- R155: 1.6 µs before the end of the beat. (DEDUCED, log entry 10) -/
def execCommitWindowOpen (p : Part) (s : State) : Out := .next (closeWindow p s)

/-! ### Commit (R156 to R159) -/

/-- An overrun is counted; the first of a step and every 1,024th after it post an event. (DEDUCED, log entry 44) -/
def countOverrun (p : Part) (d : Die) (c : Cluster) (s : State) : State :=
  let n := (s.part p).img.job.overruns
  let step := (s.part p).img.job.step
  let s := onJob p (fun j => { j with overruns := n + 1 }) (State.onImg p (fun i => { i with overruns := sat32 i.overruns }) s)
  when (n % 1024 == 0)
    (postBoth p .partition .beatOverrun .warning (p.val ||| c.val <<< 3 ||| d.val <<< 8) (detail 2 step)) s

/-- A unit's state at a commit. -/
def UnitState.committed (x : UnitState) : UnitState := { x with base := x.work }

/-- The end of a cluster's beat: it commits, or its overrun counts. Its tiles and ranges stay for the fingerprint.
(DESIGN CHOICE, log entry 42) -/
def endCluster (p : Part) (d : Die) (c : Cluster) (s : State) : State :=
  let r := s.cluster d c
  if !r.running then s
  else
    let s := if r.aborted then when r.overrun (countOverrun p d c) s
      else onJob p (fun j => { j with done := vupd j.done d fun b => b ||| BitVec.ofNat 32 (2 ^ c.val) })
        (forAll (List.finRange 8) (fun u => State.onUnit d c u UnitState.committed) s)
    State.onCluster d c (fun r => { r with
      running := false, overrun := false, journal := [], journalPoison := [], journalLines := [], sent := [], deltas := [] }) s

/-- The latch clears when s advances (R192). -/
def UnitRegs.unlatched (w : UnitRegs) : UnitRegs := { w with latchStatus := .ok, latchIndex := 0 }

/-- The step counter advances once every cluster is done (R156); a run beat in which it does not is counted. -/
def advanceStep (p : Part) (s : State) : State :=
  if allDone s p then
    let s := onJob p (fun j => { j with step := j.step + 1, done := Vector.replicate 8 0, overruns := 0 }) s
    forAll (clustersOf s p) (fun (_, d, c) => forAll (List.finRange 8) fun u => State.onUnit d c u fun x =>
      { x with work := x.work.unlatched, base := x.base.unlatched, written := [], rbarriers := 0 }) s
  else State.onImg p (fun i => { i with stallBeats := sat32 i.stallBeats }) s

/-! ### Commit lists (R186) -/

/-- The cluster in whose pages a message lies: that of an SRAM page, else the one its MEMORY_MAP record names.
(DEDUCED, log entry 38) -/
def homeOf_ (s : State) (p : Part) (va : Nat) : Option (Die × Cluster) :=
  match s.leafAt p va with
  | some e =>
    if leafBacking e = 0 then some ((e.extractLsb' 16 3).toFin, sramLeafCluster e)
    else match mapRecOf (s.part p).img.image va with
      | some r => match (s.diesOf p)[r.die]? with
        | some d => if h : r.cluster < 32 then some (d, ⟨r.cluster, h⟩) else none
        | none => none
      | none => none
  | none => none

/-- Insert a message by its ingest sequence number. -/
def insertCommitted (m : Committed) : List Committed → List Committed
  | [] => [m]
  | x :: l => if m.seq ≤ x.seq then m :: x :: l else x :: insertCommitted m l

/-- The committed messages for a cluster of the running job, in ingest sequence order.
(DEDUCED, log entry 38; DEDUCED, log entry 39) -/
def listFor (s : State) (p : Part) (d : Die) (c : Cluster) : List Committed :=
  (((s.part p).committed.filter fun m =>
    jobOf s p m.ctx == some (s.part p).img.curJob.val && homeOf_ s p m.msgVA == some (d, c)).foldr insertCommitted []).take 4095

/-- Bytes of the mode header before a message's payload (R50, R70, R95). -/
def headBytes (q : Policy) : Nat := if q.mode = .shared then 48 else 16

def listBytes (s : State) (p : Part) (l : List Committed) : Bytes :=
  leBytes 8 l.length ++ l.flatMap fun m =>
    leBytes 8 (m.msgVA + headBytes (s.ctx p m.ctx).policy) ++ leBytes 4 (m.contrib % 2 ^ 24 ||| m.ctx.val <<< 28) ++ leBytes 4 m.index

/-- Shares of a SHAMIR round stay staged until the close (R96). (DEDUCED, log entry 39) -/
def keptShare (c : RoundCtx) : Bool :=
  c.policy.mode == .encrypted && c.policy.combine && c.policy.shamir && (c.phase == .opened || c.phase == .closing)

/-- The messages a cluster's committed beat has consumed leave the device (R53, R239, R366). (DEDUCED, log entry 39) -/
def consume (p : Part) (d : Die) (c : Cluster) (s : State) : State :=
  let r := s.cluster d c
  if !r.running || r.aborted then s
  else
    let l := (listFor s p d c).filter fun m => !keptShare (s.ctx p m.ctx)
    forAll l (fun m => freeSource p m.ctx m.msgVA m.source)
      (State.onPart p (fun x => { x with committed := x.committed.filter fun m => !l.contains m }) s)

/-- Kept shares leave staging once their round's close is over. -/
def dropKept (p : Part) (k : Ctx) (s : State) : State :=
  let c := s.ctx p k
  if c.policy.mode == .encrypted && c.policy.combine && c.policy.shamir && c.phase != .opened && c.phase != .closing then
    let l := (s.part p).committed.filter fun m => m.ctx == k
    forAll l (fun m => freeSource p k m.msgVA m.source)
      (State.onPart p (fun x => { x with committed := x.committed.filter fun m => m.ctx != k }) s)
  else s

/-! ### Admission (R32, R33, R52, R96) -/

/-- The number of messages of contributor `i` taken so far. -/
def takenOf (c : RoundCtx) (i : Nat) : Nat := match c.policy.mode with
  | .encrypted => tget c.enc.counts i 0
  | _ => tget c.masked.counts i 0

/-- A message of the contributor is taken. -/
def RoundCtx.take (t : Stamp) (c : RoundCtx) : RoundCtx := match c.policy.mode with
  | .masked => { c with masked := { c.masked with counts := tupd c.masked.counts t.contrib 0 (· + 1) } }
  | .encrypted => { c with enc := { c.enc with
      counts := tupd c.enc.counts t.contrib 0 (· + 1), added := tupd c.enc.added t.index 0 (· + 1),
      nbMax := tupd c.enc.nbMax t.index 0 (max t.noise) } }
  | .shared => c

/-- (DEDUCED, log entry 40) -/
def RoundCtx.dropLate (lead : Bool) (c : RoundCtx) : RoundCtx :=
  if lead then { c with late := sat32 c.late }
  else match c.policy.mode with
    | .encrypted => { c with enc := { c.enc with segLate := sat32 c.enc.segLate } }
    | _ => { c with masked := { c.masked with segLate := sat32 c.masked.segLate } }

/-- (DEDUCED, log entry 40) -/
def RoundCtx.dropOrder (c : RoundCtx) : RoundCtx := match c.policy.mode with
  | .encrypted => { c with enc := { c.enc with segOrder := sat32 c.enc.segOrder } }
  | _ => { c with masked := { c.masked with segOrder := sat32 c.masked.segOrder } }

/-- A message is committed: to accumulation in the coming run beat, or in shared mode to verification staging (R77).
(DEDUCED, log entry 40) -/
def commitMessage (p : Part) (t : Stamp) (s : State) : State :=
  let s := State.onCtx p t.ctx (RoundCtx.take t) s
  if (s.ctx p t.ctx).policy.mode = .shared then
    onShare p t.ctx t.contrib (fun r => { r with
      admittedAt := some (s.beatOf p), staged := true, stageVA := t.msgVA, stageLen := t.length, source := t.source, seq := t.seq }) s
  else State.onPart p (fun x => { x with committed := x.committed ++ [⟨t.ctx, t.contrib, t.index, t.msgVA, t.source, t.seq⟩] }) s

/-- R32, R52 and R96 for one stamped message: its stamping beat decides, whatever the round has become since (R33). -/
def admitStamp (p : Part) (t : Stamp) (s : State) : State :=
  let c := s.ctx p t.ctx
  let lead := t.index == 0
  let drop (f : RoundCtx → RoundCtx) : State := freeSource p t.ctx t.msgVA t.source (State.onCtx p t.ctx f s)
  if decide (c.lastBeat < t.beat) || c.stopBeat.any (fun b => decide (b < t.beat))
      || (lead && decide (c.policy.maxCohort ≤ c.admitted)) then
    drop (RoundCtx.dropLate lead)
  else if lead then
    if c.bitmap.contains t.contrib then
      postRound p t.ctx .duplicateContributor .notice 1 t.contrib (drop fun c => { c with duplicates := sat32 c.duplicates })
    else
      let s := State.onCtx p t.ctx (fun c => { c with
        bitmap := insertSet c.bitmap t.contrib, admitted := c.admitted + 1, included := c.admitted + 1 - c.excluded }) s
      commitMessage p t (State.onPart p (fun x => { x with admittedNow := x.admittedNow ++ [t.ctx.val * 2 ^ 24 + t.contrib] }) s)
  else if !c.bitmap.contains t.contrib || takenOf c t.contrib != t.index then drop RoundCtx.dropOrder
  else commitMessage p t s

/-- Insert a stamp by its ingest sequence number. -/
def insertStamp (t : Stamp) : List Stamp → List Stamp
  | [] => [t]
  | u :: l => if t.seq ≤ u.seq then t :: u :: l else u :: insertStamp t l

/-- The stamps due at the end of the beat, in ingest sequence order. -/
def dueStamps (s : State) (p : Part) : List Stamp :=
  ((s.part p).stamps.filter fun t => decide (t.beat + (s.part p).delay ≤ s.beatOf p)).foldr insertStamp []

/-- The pass of the partition controller at the end of a beat. -/
def admitBeat (p : Part) (s : State) : State :=
  let l := dueStamps s p
  let s := forAll l (admitStamp p) (State.onPart p (fun x => { x with stamps := x.stamps.filter fun t => !l.contains t }) s)
  forAll (List.finRange 4) (fun k s =>
    endAdmission p k (State.onCtx p k (fun c => { c with passBeat := some (s.beatOf p) }) s)) s

/-! ### The end of a beat -/

/-- R36, R59: whether the final accumulation is over. -/
def noteFinalRun (p : Part) (k : Ctx) (ran stampsBefore : Bool) (s : State) : State :=
  let left := (s.part p).committed.any fun m => m.ctx == k && !keptShare (s.ctx p k)
  State.onCtx p k (fun c => { c with finalRun := (c.finalRun || (ran && stampsBefore)) && !left }) s

/-- TAL_STATUS.STEP follows the committed steps of step 2. -/
def noteStep (p : Part) (k : Ctx) : State → State :=
  State.onCtx p k fun c =>
    if c.phase = .finalizing ∧ c.finStep = .pipeline then { c with tal := { c.tal with step := talStep c } } else c

/-- A refused draw counts as a stall until the round's job has run a beat without one (R41). -/
def clearStall (p : Part) (k : Ctx) : State → State := State.onCtx p k fun c => { c with finStalled := false }

/-- What ends with a beat that the partition was not held in: commit, the messages consumed, admission, the exchange, and the
release writes that wait on no fault entry. -/
def endBeat (p : Part) (s : State) : State :=
  let x := s.part p
  let ran := x.img.kind == .run
  let before := x.ctxs.toList.map (·.stampsDone)
  let job := x.img.curJob.val
  let s := State.onPart p (fun x => { x with admittedNow := [] }) s
  let s := forAll (clustersOf s p) (fun (_, d, c) => consume p d c) s
  let s := forAll (clustersOf s p) (fun (_, d, c) => endCluster p d c) s
  let s := if ran then forAll (List.finRange 4) (noteStep p) (advanceStep p s) else s
  let s := applyBar2 p s
  let s := bulkBeat p (admitBeat p s)
  let s := forAll (List.finRange 4) (exchangeBeat p) s
  let s := forAll (List.finRange 4) (fun k t =>
    noteFinalRun p k (ran && jobOf t p k == some job) (before.getD k.val false) (dropKept p k t)) s
  let s := forAll (List.finRange 4) (fun k t => when (t.ctx p k).tal.errorDue (stagingError p k) t) s
  let s := forAll (List.finRange 4) (roundEvents p (s.beatOf p)) s
  let s := forAll (List.finRange 4) (fun k t => when (ran && jobOf t p k == some job) (clearStall p k) t) s
  forAll (List.finRange 4) (fun k t => noteClose p k (retrySlot p k t)) s

/-- The end of a beat, of whichever kind: a held beat ends nothing but BAR2 writes and the deadlines of the rounds (R25, R33, R38). -/
def finishBeat (p : Part) (s : State) : State :=
  if (s.part p).img.kind = .held then forAll (List.finRange 4) (roundEvents p (s.beatOf p)) (applyBar2 p s) else endBeat p s

/-! ### The start of a run beat (R156, R184, R186) -/

/-- X7 at the start of a unit's program (R186). -/
def listPointer : U64 := 0xFE00000000180000

/-- A unit starts its program. -/
def UnitState.start (first count : Nat) (x : UnitState) : UnitState :=
  { work := x.base, base := x.base, x := vput (Vector.replicate 8 0) 7 listPointer, progStart := first, progCount := count,
    written := x.written }

/-- A cluster that is named, not done and not waiting for FAULT_RESUME runs its entry, where its die has a clock.
(DESIGN CHOICE, log entry 42; DEDUCED, log entry 192) -/
def startCluster (p : Part) (n : Nat) (d : Die) (c : Cluster) (s : State) : State :=
  match refOf s p n c with
  | none => s
  | some g =>
    if isDone s p d c || (s.cluster d c).waitFault || clockOff s d then s
    else
      let dir := ((s.imageOf p).programs.getD n ⟨[], []⟩).dir.getD g []
      let s := State.onCluster d c (fun r => { running := true, waitFault := r.waitFault, entry := g }) s
      let s := forAll (List.finRange 8) (fun u => State.onUnit d c u
        (UnitState.start (dir.getD u.val (0, 0)).1 (dir.getD u.val (0, 0)).2)) s
      match reservedKey s d c 0x180000 with
      | some key => s.store key (listBytes s p (listFor s p d c)) false
      | none => s

/-- Nothing of the last beat is left in the clusters but, of those done with the step, the RBARRIERs they have reached (R184).
(DESIGN CHOICE, log entry 42) -/
def quietCluster (p : Part) (d : Die) (c : Cluster) (s : State) : State :=
  let kept := isDone s p d c
  let s := State.onCluster d c (fun r => { waitFault := r.waitFault }) s
  forAll (List.finRange 8) (fun u => State.onUnit d c u fun x =>
    { work := x.base, base := x.base, written := x.written, rbarriers := if kept then x.rbarriers else 0 }) s

/-- The beat that starts is of kind `k` for the partition. -/
def startBeat (p : Part) (k : BeatKind) (s : State) : State :=
  let s := State.onImg p (fun i => { i with kind := k }) s
  let s := forAll (clustersOf s p) (fun (_, d, c) => quietCluster p d c) s
  if k = .run then forAll (clustersOf s p) (fun (n, d, c) => startCluster p n d c) s else s

/-! ### The beat fingerprint (R261) -/

/-- Bytes of a range as the fingerprint takes them: host-backed pages never enter it. -/
def fpBytes (s : State) (p : Part) (va len : Nat) : Bytes :=
  (pageSplit va len).flatMap fun (a, n) => match s.leafAt p a with
    | some e => if leafType e = 2 then match s.leafKey p e a with
        | some k => if 2 ^ 64 ≤ k then [] else s.bytesAt k n
        | none => [] else []
    | none => []

/-- The fingerprint engine reads the tiles written in the beat: each is reduced in place (R130). (DEDUCED, log entry 48) -/
def UnitState.fpReduced (x : UnitState) : UnitState :=
  let w := x.tilesWritten.foldl (fun w (i, e) => UnitRegs.setTile w i ((UnitRegs.tile w i).reduced e)) x.base
  { x with base := w, work := w }

/-- D_c, over the reduced values of the tiles written. (DEDUCED, log entry 136) -/
def clusterDigest (s : State) (p : Part) (d : Die) (c : Cluster) : U256 :=
  let us := (List.finRange 8).map fun u => s.unit d c u
  Crypto.sha256 ((us.flatMap fun x => x.fpRanges.flatMap fun r => fpBytes s p r.1 r.2)
    ++ us.flatMap fun x => x.tilesWritten.flatMap fun i =>
      let t := x.base.tile i.1
      Config.tileBytes (t.elems i.2.wide) t.poison)

/-- A list that ends is told from one that goes on. -/
def lenList (l : List Nat) : List Nat := l.length :: l

def tblWords (t : Tbl Nat) : List Nat := lenList (t.flatMap fun e => [e.1, e.2])

/-- The registers and state of a context that C_b covers: all but TAL_SAMPLES and TAL_SAMPLER_RETRY. -/
def RoundCtx.words (c : RoundCtx) : List Nat :=
  let m := c.masked
  let h := c.shared
  let e := c.enc
  let t := c.tal
  [c.phase.code, c.holdCause.code, c.lastStatus.code, c.policyHash.toNat, c.openBeat, c.lastBeat, c.admitted, c.duplicates, c.late,
    c.excluded, c.included, c.slotVA, c.slotBytes, c.layout, c.header.gen] ++ lenList c.bitmap
    ++ [m.segments, m.malformed, m.segLate, m.segOrder, m.complete, m.partialCount, m.dropped, m.needSelf, m.needPair, m.appliedSelf,
      m.appliedPair, m.expandBytes, m.unmaskStatus.code, m.failRecord] ++ tblWords m.counts
    ++ [h.wireLen, h.proofLen, h.malformed, h.accepted, h.rejProof, h.rejTimeout, h.rejAbsent, h.xchgDiscard, h.decideUnadmitted,
      h.merged.toNat, h.mismatch.toNat, h.acceptDigest.toNat, h.expandBytes]
    ++ [e.ctCount, e.malformed, e.segLate, e.segOrder, e.complete, e.partialCount, e.dropped, e.nbAcc, e.budget, e.nbRelease,
      e.firstStatus.code, e.poisonedOps, e.combineSet.toNat] ++ tblWords e.counts
    ++ [t.payloadLen, t.nonfinite, t.saturated, t.step, if t.restarted then 1 else 0, t.lastStatus.code]

/-- The words that C_b covers; `seq` is the ingest sequence number. -/
def ctlWords (x : PartState) (seq : Nat) : List Nat :=
  x.ctxs.toList.flatMap RoundCtx.words ++ lenList x.admittedNow
    ++ (x.img.jobs.toList.flatMap fun j => j.step :: j.done.toList.map BitVec.toNat) ++ [seq]

/-- F_b. (DEDUCED, log entry 43) -/
def fingerprint (s : State) (p : Part) (b seq : Nat) : U128 :=
  Crypto.first128 (Crypto.sha256 (ascii "GZ25FP01" ++ beBytes 16 (s.part p).twin.fp.toNat ++ leBytes 8 b
    ++ Crypto.bytes256 (Crypto.sha256 (Config.ctlBytes (ctlWords (s.part p) seq)))
    ++ (clustersOf s p).flatMap fun (_, d, c) => Crypto.bytes256 (clusterDigest s p d c)))

/-- Step 2 of R25. (DEDUCED, log entry 43) -/
def takeFingerprint (p : Part) (seq : Nat) (s : State) : State :=
  let s := forAll (clustersOf s p) (fun (_, d, c) => forAll (List.finRange 8) fun u => State.onUnit d c u UnitState.fpReduced) s
  let f := fingerprint s p (s.beatOf p) seq
  State.onTwin p (fun w => { w with fp := f }) s

/-- Aborted logical clusters of a die in the beat that ended. -/
def abortedOf (s : State) (d : Die) : Nat :=
  ((List.finRange 32).map fun c => if (s.cluster d c).aborted then 2 ^ c.val else 0).sum

/-- AUX of a BEAT record. (DESIGN CHOICE, log entry 34) -/
def BeatKind.code : BeatKind → Nat
  | .run => 0 | .fallow => 1 | .switch => 2 | .held => 3

def BeatKind.ofCode : Nat → BeatKind
  | 1 => .fallow | 2 => .switch | 3 => .held | _ => .run

/-- The BEAT and FINGERPRINT records of a beat (R265); `k` is its kind. -/
def logBeat (p : Part) (beat : Nat) (k : BeatKind) (s : State) : State :=
  let ds := s.diesOf p
  let s := if k = .run ∧ ds.all (fun d => abortedOf s d == 0) then s
    else logRecordAt p beat 5 k.code (ds.flatMap fun d => leBytes 4 (abortedOf s d)) s
  logRecordAt p beat 6 (s.part p).img.job.step (beBytes 16 (s.part p).twin.fp.toNat) s

end Sys2Proof.Machine
end

