-- ==== Sys2Proof/Machine/Conns.lean ====
section
/-! DEFINITION. Grants (R236, R238), connections (R227, R228, R231) and the fabric key agreement (R296, R297). -/

namespace Sys2Proof.Machine

open Sys2Proof.Crypto (bytes256 bytes512 of256 sha256)

/-! ### Grants -/

def grantOf (s : State) (p : Part) (g : Nat) : Grant := tget (s.part p).rxt.grants g {}
def onGrant (p : Part) (g : Nat) (f : Grant → Grant) : State → State := State.onRx p fun r => { r with grants := tupd r.grants g {} f }

/-- A change of STATE counts in GEN. (DEDUCED, log entry 115) -/
def Grant.goto (st : GrantState) (g : Grant) : Grant := { g with state := st, gen := (g.gen + 1) % 2 ^ 32 }

/-- The lowest FREE id. -/
def freeGrant (s : State) (p : Part) : Option Nat := (List.range 4096).find? fun g => (grantOf s p g).state == .free

def grantFieldsOk (perms : U8) (conn : U32) (va length : U64) : Bool :=
  decide (perms.toNat < 4) && conn.extractLsb' 24 7 == 0 && va.toNat % 64 == 0 && length.toNat % 64 == 0
    && inRange 64 (2 ^ 40) length.toNat && decide (va.toNat + length.toNat ≤ 2 ^ 40)

/-- R236: the grant is ACTIVE from the beat that follows the fetch boundary. (DEDUCED, log entry 115) -/
def createGrant (c : Cmd) (perms : U8) (conn : U32) (va length : U64) (p : Part) (s : State) : State :=
  match freeGrant s p with
  | none => done c 0x20 .capacity s
  | some g => complete c 0x20 .ok g 0 (onGrant p g (fun x =>
      { x.goto .active with perms := perms.extractLsb' 0 2, va := va.toNat, length := length.toNat, conn := conn, activeAt := s.sys.beat }) s)

def execGrantCreate (c : Cmd) (perms : U8) (conn : U32) (va length : U64) (s : State) : Out :=
  .next (partCommand c 0x20 (grantFieldsOk perms conn va length) (createGrant c perms conn va length) s)

/-- R238. (DEDUCED, log entry 115) -/
def revokeGrant (c : Cmd) (g : Nat) (p : Part) (s : State) : State :=
  if (grantOf s p g).state = .active then
    onGrant p g (fun x => { x.goto .revoking with revokeAt := s.sys.beat, revokeCmd := some c }) s
  else done c 0x21 .invalidState s

def execGrantRevoke (c : Cmd) (grant : U16) (s : State) : Out :=
  .next (partCommand c 0x21 (decide (grant.toNat < 4096)) (revokeGrant c grant.toNat) s)

/-- R238: the boundary after IN_FLIGHT has reached zero. -/
def execGrantRevokeComplete (p : Part) (g : Fin 4096) (s : State) : Out :=
  let x := grantOf s p g.val
  .next (if x.state = .revoking ∧ x.inFlight = 0 ∧ (s.part p).phase ≠ .removing then
      let s := onGrant p g.val (fun x => { x.goto .free with revokeCmd := none }) s
      match x.revokeCmd with
        | some c => done c 0x21 .ok s
        | none => s
    else s)

/-! ### CONN_CREATE (R231) -/

def isFabric (t : ConnSpec) : Bool := t.cls == 1

/-- The first row of R231's table, but for what needs RXT_CTX_COUNT, and the fields R228 states as zero (R358).
(DEDUCED, log entry 147) -/
def connFieldsOk (t : ConnSpec) : Bool :=
  decide (t.cls.toNat < 2) && inRange 1 16 t.paths.toNat && inRange (if isFabric t then 11 else 10) 13 t.payloadLog.toNat
    && (t.ipVersion == 4 || t.ipVersion == 6) && t.landingVA.toNat % 64 == 0 && t.landingLen.toNat % 64 == 0
    && (if isFabric t then inRange fabricBase fabricLast t.conn.toNat else decide (t.conn.toNat < fabricBase))
    && t.remoteConn.extractLsb' 27 5 == 0 && (t.ipVersion == 6 || decide (t.remoteIp.toNat < 2 ^ 32))
    && (isFabric t || (t.landingVA == 0 && t.landingLen == 0))

/-- A sub-port of the partition's port reservation. -/
def reserved (s : State) (p : Part) (x : RPort × SubPort) : Bool := (s.part p).resv.portBw.toList.getD (2 * x.1.val + x.2.val) 0 != 0

/-- TX_PSN starts above what the number sent under the generation (R231). -/
def firstPsn (s : State) (n gen : Nat) : Nat := match s.rxt.lastPsn.find? fun e => e.1 == (n, gen) with
  | some e => e.2
  | none => 0

/-- A context with the fields of the command. -/
def newConn (t : ConnSpec) (p : Part) (s : State) : Conn :=
  { fabric := isFabric t, part := p, ports := t.ports, paths := t.paths.toNat, payloadLog := t.payloadLog.toNat
    remoteConn := t.remoteConn.extractLsb' 0 24, remotePart := (t.remoteConn.extractLsb' 24 3).toFin, ipVersion := t.ipVersion.toNat
    udpSrcBase := t.udpSrcBase, remoteIp := t.remoteIp, keyGen := (s.part p).keyGen, rate := rateInit s
    txPsn := if isFabric t then firstPsn s t.conn.toNat (s.part p).keyGen else 0
    landingVA := if isFabric t then t.landingVA.toNat else 0, landingLen := if isFabric t then t.landingLen.toNat else 0 }

/-- A P-256 private scalar from a random block. -/
def ephemeral (x : U256) : U256 := BitVec.ofNat 256 (x.toNat % (Crypto.pN - 1) + 1)

/-! ### CONNECT messages (R296) -/

/-- Bytes 0x000 to 0x19F of a body. -/
def connectHead (b : ConnectBody) : Bytes :=
  beBytes 1 b.typ.toNat ++ beBytes 1 b.reason.toNat ++ beBytes 2 b.member.toNat
    ++ beBytes 4 (b.partition.toNat % 8 ||| b.conn.toNat <<< 8) ++ beBytes 4 b.keyGen.toNat ++ beBytes 1 b.lifeCycle.toNat
    ++ beBytes 3 b.reserved0.toNat
    ++ bytes512 b.eph ++ bytes512 b.deviceId ++ bytes512 b.alias_ ++ bytes256 b.fwMeasure ++ bytes256 b.chitin
    ++ bytes512 b.endorse ++ beBytes 48 b.wrap.toNat ++ bytes256 b.reserved1

/-- A party to an agreement as KEK names it. (DEDUCED, log entry 94; DEDUCED, log entry 113) -/
def partyBytes (member part conn : Nat) : Bytes := leBytes 2 member ++ leBytes 1 part ++ leBytes 3 conn

/-- KEK for the wrap of one direction. (DEDUCED, log entry 113) -/
def kek (z : U256) (a b : U512) (sender receiver : Bytes) : U256 :=
  let low := if a.toNat < b.toNat then a else b
  let high := if a.toNat < b.toNat then b else a
  hkdf32 z (bytes256 (sha256 (bytes512 low ++ bytes512 high))) (ascii "GZ25CNK1" ++ sender ++ receiver)

/-- The 48 bytes of WRAP, and the key one holds. -/
def wrapKey (k key : U256) : BitVec 384 :=
  let c := Crypto.gcmCrypt k (zeroBytes 12) (bytes256 key)
  BitVec.ofNat 384 (beNat (c ++ beBytes 16 (Crypto.gcmTag k (zeroBytes 12) [] c).toNat))
def openWrap (k : U256) (w : BitVec 384) : Option U256 :=
  let b := beBytes 48 w.toNat
  if (Crypto.gcmTag k (zeroBytes 12) [] (b.take 32)).toNat = beNat (b.drop 32) then
    some (of256 (Crypto.gcmCrypt k (zeroBytes 12) (b.take 32)))
  else none

def ownParty (s : State) (n : Nat) : Bytes := partyBytes s.sys.member (s.conn n).part.val n
def peerParty (b : ConnectBody) : Bytes := partyBytes b.member.toNat (b.partition.toNat % 8) b.conn.toNat

/-- The packet of a CONNECT message: R222 gives the fields of its header that it names no use for as zero.
(DESIGN CHOICE, log entry 184) -/
def connectFrame (c : Conn) (b : ConnectBody) (s : State) : TxFrame :=
  let head := rxtHeader opConnect.toNat c.remotePart.val 0 s.sys.instar c.remoteConn.toNat 0 0 0 480 0 0 0
  .connect (connSub c).1 (connSub c).2 (connHead c (livePath c c.nextPath) (head ++ connectHead b ++ bytes512 b.sig) s)
    (BitVec.ofNat 8 c.remotePart.val) c.remoteConn.toNat (BitVec.ofNat 32 s.sys.instar) b

/-- A CONNECT message of the connection: with its transfer key wrapped for the peer, unless it is an OFFER or a REFUSE. -/
def sendConnect (n typ reason : Nat) (peer : Option ConnectBody) (s : State) : State :=
  let c := s.conn n
  match c.eph, slotValue 1 mSecurity uSign s, slotValue 3 mLink uSign s with
  | some e, some dev, some al =>
    let pub := Crypto.publicKey e.toNat
    let aliasKey := Crypto.publicKey al.toNat
    let wrap := match peer, slotValue (transferSlot c.part) mLink uEncrypt s with
      | some b, some key => match Crypto.ecdh e.toNat b.eph with
        | some z => wrapKey (kek z pub b.eph (ownParty s n) (peerParty b)) key
        | none => 0
      | _, _ => 0
    let body : ConnectBody := {
      typ := BitVec.ofNat 8 typ, reason := BitVec.ofNat 8 reason, member := BitVec.ofNat 16 s.sys.member
      partition := BitVec.ofNat 8 c.part.val, conn := BitVec.ofNat 24 n, keyGen := BitVec.ofNat 32 c.keyGen
      lifeCycle := BitVec.ofNat 8 s.key.fuses.lifeCycle.code, eph := pub, deviceId := Crypto.publicKey dev.toNat, alias_ := aliasKey
      fwMeasure := s.key.fwMeasure, chitin := (s.part c.part).img.measure
      endorse := Crypto.sign dev.toNat (sha256 (bytes512 aliasKey ++ bytes256 s.key.fwMeasure ++ leBytes 4 s.key.fuses.identityGen
        ++ leBytes 1 (dbgNow s)))
      wrap := wrap, sig := 0, reserved0 := 0, reserved1 := 0 }
    let body := { body with sig := Crypto.sign al.toNat (sha256 (connectHead body)) }
    emit (connSub c).1 (connSub c).2 (connectFrame c body s) s
  | _, _, _ => s

/-- Whether this side sends OFFER (R297). -/
def offers (s : State) (c : Conn) : Bool :=
  let peer := Config.peerMember c.remoteIp
  decide (s.sys.member < peer) || (s.sys.member == peer && decide (c.part.val < c.remotePart.val))

/-- The agreement's ephemeral key is drawn, and the side that offers sends OFFER. -/
def connDrawn (n : Nat) (s : State) : State :=
  let (x, s) := generate 0 s
  let s := State.onConn n (fun c => { c with eph := some (ephemeral x) }) s
  when (offers s (s.conn n)) (sendConnect n 1 0 none) s

/-- The checks of R231 after the first row, and the creation. (DEDUCED, log entry 114) -/
def createConn (c : Cmd) (t : ConnSpec) (p : Part) (s : State) : State :=
  let n := t.conn.toNat
  if !isFabric t && decide (s.rxt.ctxCount ≤ n) then done c 0x22 .invalidCommand s
  else if !(reserved s p (homeOf t.ports) && (failoverOf t.ports == homeOf t.ports || reserved s p (failoverOf t.ports))) then
    done c 0x22 .accessDenied s
  else if (s.conn n).state ≠ .free then done c 0x22 .busy s
  else if !isFabric t then
    done c 0x22 .ok (writeCtx n (State.onConn n (fun _ => { newConn t p s with state := .ready }) s))
  else if 1024 ≤ pinnedOn s ((homeOf t.ports).1.val / 2) then done c 0x22 .capacity s
  else if entropyStatus s ≠ .ok then done c 0x22 (entropyStatus s) s
  else request 0 (.connection n) (connDrawn n) (trimCache (linkDie (homeOf t.ports).1)
    (State.onConn n (fun _ => { newConn t p s with state := .connecting, createCmd := some c }) s))

def execConnCreate (c : Cmd) (spec : ConnSpec) (s : State) : Out := .next (partCommand c 0x22 (connFieldsOk spec) (createConn c spec) s)

/-- The context is FREE: the number's next TX_PSN is kept, and a user context in the table says FREE. -/
def freeConn (n : Nat) (s : State) : State :=
  let c := s.conn n
  let s := if c.fabric then s.onRxt fun r => { r with
      lastPsn := ((n, c.keyGen), c.txPsn) :: r.lastPsn.filter fun e => e.1 != (n, c.keyGen) }
    else writeCtx n (State.onConn n (fun c => { c with state := .free }) s)
  s.onRxt fun r => { r with conns := tdel r.conns n, cache := vall r.cache fun _ l => l.filter (· != n) }

/-- CONN_CREATE ends without a connection. -/
def refuseConn (n : Nat) (st : Status) (s : State) : State :=
  let c := s.conn n
  let s := freeConn n s
  match c.createCmd with
  | some cmd => done cmd 0x22 st s
  | none => s

/-- R231: the boundary after the agreement. -/
def execConnConnected (conn : Nat) (s : State) : Out :=
  let c := s.conn conn
  .next (if c.state = .connecting ∧ c.agreed then
      let s := State.onConn conn (fun c => { c with state := .ready, createCmd := none, eph := none }) s
      match c.createCmd with
        | some cmd => done cmd 0x22 .ok s
        | none => s
    else s)

/-- R231: no matching CONNECT for 1 s. -/
def execConnectTimeout (conn : Nat) (s : State) : Out :=
  .next (if (s.conn conn).state = .connecting ∧ !(s.conn conn).agreed then refuseConn conn .notReady s else s)

/-! ### CONN_DESTROY (R231) -/

/-- (DEDUCED, log entry 114) -/
def destroyConn (cmd : Cmd) (n : Nat) (p : Part) (s : State) : State :=
  let c := s.conn n
  if c.state = .free ∨ c.state = .draining ∨ c.part ≠ p then done cmd 0x23 .invalidState s
  else
    let s := match c.createCmd with
      | some x => done x 0x22 .flushed s
      | none => s
    discardIncomplete n (State.onConn n (fun c => { c with
      state := .draining, createCmd := none, destroyCmd := some cmd, unacked := [], rnr := [], cancelDue := [], eph := none }) s)

/-- (DEDUCED, log entry 114) -/
def execConnDestroy (c : Cmd) (conn : U32) (s : State) : Out := .next (partCommand c 0x23 true (destroyConn c conn.toNat) s)

/-- R231: no placement for the connection is in flight. -/
def execConnDestroyComplete (conn : Nat) (s : State) : Out :=
  let c := s.conn conn
  .next (if c.state = .draining ∧ c.inFlight = 0 ∧ (s.part c.part).phase ≠ .removing then
      let s := freeConn conn s
      match c.destroyCmd with
        | some cmd => done cmd 0x23 .ok s
        | none => s
    else s)

/-! ### The agreement (R297) -/

/-- Check 1. (DESIGN CHOICE, log entry 24) -/
def signedBody (b : ConnectBody) : Bool :=
  Crypto.verifyMsg b.deviceId (bytes512 b.alias_ ++ bytes256 b.fwMeasure ++ Config.endorseTail b.deviceId) b.endorse
    && Crypto.verifyMsg b.alias_ (connectHead b) b.sig

/-- Checks 1 to 3: the REASON of the first failure. -/
def peerRefused (s : State) (c : Conn) (b : ConnectBody) : Option Nat :=
  if !signedBody b then some 1
  else if !(s.part c.part).peerAllow.any fun e => e.2 != 0 && e.2 == sha256 (bytes512 b.deviceId ++ bytes256 b.fwMeasure ++ bytes256 b.chitin) then some 2
  else if s.key.fuses.lifeCycle == .deployed && b.lifeCycle.toNat != LifeCycle.deployed.code then some 3
  else none

/-- The peer's transfer key out of its WRAP. -/
def peerTransfer (s : State) (n : Nat) (b : ConnectBody) : Option U256 := match (s.conn n).eph with
  | some e => match Crypto.ecdh e.toNat b.eph with
    | some z => openWrap (kek z (Crypto.publicKey e.toNat) b.eph (peerParty b) (ownParty s n)) b.wrap
    | none => none
  | none => none

/-- Check 10 of a CONNECT packet: what R222 gives no use for in its header is zero, the body is 480 bytes, and its reserved bytes
are zero (R417). -/
def connectOk (f : RxtFrame) (b : ConnectBody) : Bool :=
  f.flags == 0 && f.echo == 0 && f.grantId == 0 && f.offset == 0 && f.reserved == 0 && f.keyOrTag == 0 && f.payloadLen.toNat == 480
    && b.reserved0 == 0 && b.reserved1 == 0

/-- Checks 5 to 10 of a CONNECT packet on a fabric context; check 7 lets a CONNECTING context pass. (DESIGN CHOICE, log
entry 187) -/
def checkConnect (f : RxtFrame) (b : ConnectBody) (body : State → State) (s : State) : State :=
  let n := f.destConn.toNat
  let c := s.conn n
  if f.instar.toNat < s.sys.instar then s
  else if s.sys.instar < f.instar.toNat then instarAhead f s
  else if !fromRemote c f then s.onSub f.port f.sub fun x => { x with noConn := sat32 x.noConn }
  else if c.state ≠ .connecting ∧ c.state ≠ .ready then s
  else if !connectOk f b then refuseHard n f.psn.toNat f.msgId .invalidCommand s
  else body s

/-- R225: a CONNECT packet arrives; a user context takes it as a packet of an opcode its class does not allow. -/
def receiveConnect (f : RxtFrame) (b : ConnectBody) (body : State → State) : State → State :=
  admitFrame f (buffer f fun f s =>
    if (s.conn f.destConn.toNat).state ≠ .free ∧ (s.conn f.destConn.toNat).fabric then checkConnect f b body s
    else findCtx opConnect f s)

/-- A message of the agreement reaches a CONNECTING context that it matches. -/
def agreement (n : Nat) (b : ConnectBody) (body : Conn → State → State) (s : State) : State :=
  let c := s.conn n
  if c.state = .connecting ∧ !c.agreed ∧ b.conn = c.remoteConn ∧ b.partition.toNat = c.remotePart.val then body c s else s

/-- The peer's key is the link payload key. -/
def agreeKey (n : Nat) (key : U256) (b : ConnectBody) : State → State :=
  State.onConn n fun c => { c with
    agreed := true, peerKey := some key, peerGen := b.keyGen.toNat, peerMember := b.member.toNat, peerEph := b.eph }

/-- An OFFER is checked and answered. (DEDUCED, log entry 113) -/
def takeOffer (n : Nat) (b : ConnectBody) : State → State :=
  agreement n b fun c s => match peerRefused s c b with
    | some r => sendConnect n 4 r none s
    | none => sendConnect n 2 0 (some b)
        (State.onConn n (fun c => { c with peerEph := b.eph, peerGen := b.keyGen.toNat, peerMember := b.member.toNat }) s)

/-- An ACCEPT is checked, unwrapped and confirmed. (DEDUCED, log entry 113) -/
def takeAccept (n : Nat) (b : ConnectBody) : State → State :=
  agreement n b fun c s => match peerRefused s c b with
    | some r => sendConnect n 4 r none s
    | none => match peerTransfer s n b with
      | none => sendConnect n 4 4 none s
      | some key => agreeKey n key b (sendConnect n 3 0 (some b) s)

/-- A CONFIRM is checked and unwrapped; it carries the generation and the key of the peer's OFFER. (DEDUCED, log entry 113) -/
def takeConfirm (n : Nat) (b : ConnectBody) : State → State :=
  agreement n b fun c s => match peerRefused s c b with
    | some r => sendConnect n 4 r none s
    | none => match peerTransfer s n b with
      | none => sendConnect n 4 4 none s
      | some key => if b.keyGen.toNat = c.peerGen ∧ b.eph = c.peerEph then agreeKey n key b s else sendConnect n 4 4 none s

/-- R297: an OFFER arrives. -/
def execConnectOffer (f : RxtFrame) (b : ConnectBody) (s : State) : Out :=
  .next (receiveConnect f b (takeOffer f.destConn.toNat b) s)

/-- R297: an ACCEPT arrives. -/
def execConnectAccept (f : RxtFrame) (b : ConnectBody) (s : State) : Out :=
  .next (receiveConnect f b (takeAccept f.destConn.toNat b) s)

/-- R297: a CONFIRM arrives. -/
def execConnectConfirm (f : RxtFrame) (b : ConnectBody) (s : State) : Out :=
  .next (receiveConnect f b (takeConfirm f.destConn.toNat b) s)

/-- R297: a REFUSE ends CONN_CREATE. -/
def execConnectRefuse (f : RxtFrame) (b : ConnectBody) (s : State) : Out :=
  .next (receiveConnect f b (agreement f.destConn.toNat b fun _ s => refuseConn f.destConn.toNat .remoteNak s) s)

end Sys2Proof.Machine
end

