-- ==== Sys2Proof/Machine/Links.lean ====
section
/-! DEFINITION. Sub-ports: modes and link states (R216, R217), the link handshake (R219, R220), ARP and Neighbor Discovery
(R217); and the order in which waiting draws are served (R319). -/

namespace Sys2Proof.Machine

open Sys2Proof.Crypto (bytes256 bytes512 sha256)

/-! ### Events of a sub-port -/

def portSource (q : RPort) (b : SubPort) : Nat := q.val ||| b.val <<< 3
/-- (DEDUCED, log entry 13) -/
def postPort (q : RPort) (b : SubPort) (sev : Severity) (kind : Nat) : State → State := postF0 .port .ok sev (portSource q b) (detail kind 0)

/-! ### The handshake (R219) -/

/-- The DRBG instance of a port's link die. -/
def linkInst (q : RPort) : Fin 13 := ⟨1 + q.val / 2, by omega⟩

def helloBytes (h : HelloFrame) : Bytes := bytes512 h.eph ++ bytes512 h.static ++ bytes512 h.sig

/-- What a HELLO's signature covers. -/
def helloSigned (e : U512) : U256 := sha256 (ascii "GZ25LNK1" ++ bytes512 e)

/-- Any failure: no traffic flows until a later handshake succeeds. (DEDUCED, log entry 116) -/
def handshakeFail (q : RPort) (b : SubPort) (s : State) : State :=
  postPort q b .warning 3 (s.onSub q b fun x => { x with hs := .failed, handshake := {}, assoc := none, oldAssoc := none })

/-- The key of one direction. -/
def directionKey (z : U256) (own peer : U512) (sender receiver : U512) : U256 :=
  let low := if own.toNat < peer.toNat then own else peer
  let high := if own.toNat < peer.toNat then peer else own
  hkdf32 z (bytes256 (sha256 (bytes512 low ++ bytes512 high))) (ascii "GZ25SAK" ++ bytes512 sender ++ bytes512 receiver)

/-- CONFIRM of the sender of `first`. (DEDUCED, log entry 116) -/
def confirmMac (key : U256) (first second : HelloFrame) : U128 :=
  Crypto.first128 (Crypto.hmac (bytes256 key) (helloBytes first ++ helloBytes second))

/-- Steps 3 and 4, once both HELLOs are there: the ephemeral key is erased when CONFIRM is sent. (DEDUCED, log entry 116) -/
def confirmLink (q : RPort) (b : SubPort) (s : State) : State :=
  let h := (s.sub q b).handshake
  match h.eph, h.ownHello, h.peerHello with
  | some e, some own, some peer => match Crypto.ecdh e.toNat peer.eph with
    | none => handshakeFail q b s
    | some z =>
      let tx := directionKey z own.eph peer.eph own.static peer.static
      let rx := directionKey z own.eph peer.eph peer.static own.static
      emitPlain q b (.confirm q b (s.sub q b).nexthop (confirmMac tx own peer))
        (s.onSub q b fun x => { x with handshake := { x.handshake with eph := none, keys := some (tx, rx), confirmed := true } })
  | _, _, _ => s

/-- Step 1: HELLO with an ephemeral key from `x`. -/
def sendHello (q : RPort) (b : SubPort) (x : U256) (s : State) : State :=
  match slotValue 3 mLink uSign s with
  | none => s
  | some al =>
    let e := ephemeral x
    let pub := Crypto.publicKey e.toNat
    let h : HelloFrame := ⟨pub, Crypto.publicKey al.toNat, Crypto.sign al.toNat (helloSigned pub)⟩
    confirmLink q b (emitPlain q b (.hello q b (s.sub q b).nexthop h) (s.onSub q b fun y =>
      { y with hs := .waiting, handshake := { y.handshake with eph := some e, ownHello := some h, keys := none, confirmed := false } }))

/-- The ephemeral key of a handshake is drawn. -/
def helloDrawn (q : RPort) (b : SubPort) (s : State) : State :=
  let (x, s) := generate (linkInst q) s
  sendHello q b x s

/-- A handshake starts when the source allows one (R220); its draw may have to wait. (DEDUCED, log entry 116) -/
def startHandshake (q : RPort) (b : SubPort) (s : State) : State :=
  if !(s.sub q b).linkUp || entropyStatus s != .ok || !hasAlias s then s
  else request (linkInst q) (.handshake q b) (helloDrawn q b) s

/-- The handshake starts afresh. -/
def restartHandshake (q : RPort) (b : SubPort) (s : State) : State :=
  startHandshake q b (s.onSub q b fun x => { x with hs := .idle, handshake := {} })

/-- Step 2. -/
def helloOk (x : SubState) (h : HelloFrame) : Bool :=
  x.peerHash != 0 && Crypto.keyHash h.static == x.peerHash && Crypto.verify h.static (helloSigned h.eph) h.sig

/-- R219: the peer's HELLO. -/
def execHello (q : RPort) (s_ : SubPort) (h : HelloFrame) (s : State) : Out :=
  .next (if !(s.sub q s_).linkUp then s
    else
      let s := s.onSub q s_ fun x => { x with rxFrames := x.rxFrames + 1 }
      if !helloOk (s.sub q s_) h then handshakeFail q s_ s
      else if (s.sub q s_).handshake.eph.isSome then confirmLink q s_ (s.onSub q s_ fun x => { x with handshake := { x.handshake with peerHello := some h } })
      else startHandshake q s_ (s.onSub q s_ fun x => { x with handshake := { peerHello := some h } }))

/-- R219: the peer's CONFIRM. -/
def execLinkConfirm (q : RPort) (s_ : SubPort) (mac : U128) (s : State) : Out :=
  let x := s.sub q s_
  .next (if !x.linkUp then s
    else
      let s := s.onSub q s_ fun x => { x with rxFrames := x.rxFrames + 1 }
      match x.handshake.keys, x.handshake.ownHello, x.handshake.peerHello with
      | some (tx, rx), some own, some peer =>
        if mac = confirmMac rx peer own then
          s.onSub q s_ fun x => { x with hs := .done, handshake := {}, oldAssoc := x.assoc, assoc := some ⟨tx, rx, 0, 0⟩ }
        else handshakeFail q s_ s
      | _, _, _ => s)

/-- R220. -/
def execRekeyTimer (q : RPort) (s_ : SubPort) (s : State) : Out :=
  .next (when ((s.sub q s_).linkUp && (s.sub q s_).assoc.isSome) (restartHandshake q s_) s)

/-- R219, R220: a handshake that is not done is tried again. -/
def execHandshakeRetry (q : RPort) (s_ : SubPort) (s : State) : Out :=
  .next (when ((s.sub q s_).linkUp && (s.sub q s_).hs != .done) (restartHandshake q s_) s)

/-! ### Links and modes (R216, R217) -/

/-- The sub-port exists in the port's mode. -/
def subExists (s : State) (q : RPort) (b : SubPort) : Bool := subCap s.ports[q] b.val != 0

/-- The link goes down: its associations and its handshake go with it. -/
def subDown (q : RPort) (b : SubPort) (s : State) : State :=
  if (s.sub q b).linkUp then
    postPort q b .warning 1 (s.onSub q b fun x => { x with linkUp := false, hs := .idle, assoc := none, oldAssoc := none, handshake := {} })
  else s

def execLinkStateChange (q : RPort) (s_ : SubPort) (up : Bool) (s : State) : Out :=
  .next (if !up then subDown q s_ s
    else if subExists s q s_ && !(s.sub q s_).linkUp then
      startHandshake q s_ (postPort q s_ .info 2 (s.onSub q s_ fun x => { x with linkUp := true }))
    else s)

/-- R216: a MODE write takes the port's links down; they come up again in the new mode. -/
def writePortMode (r : RPort) (v : U32) (s : State) : State :=
  let m := v.extractLsb' 0 2
  if m = 3 then s else (subDown r 1 (subDown r 0 s)).onPort r fun x => { x with mode := m }

def execPortModeWrite (q : PciePort) (r : RPort) (value : U32) (s : State) : Out := .next (f0WriteBooted q (writePortMode r value) s)

/-! ### ARP and Neighbor Discovery (R217) -/

/-- A protected frame that asks for an address. (DEDUCED, log entry 117) -/
def addressAsked (q : RPort) (b : SubPort) (sec : SecTag) (own : Bool) (reply : TxFrame) : State → State :=
  onFrame q b sec fun s => if own then emit q b reply s else s.onSub q b fun x => { x with nonRxt := sat32 x.nonRxt }

/-- An own address is answered through the next hop. (DEDUCED, log entry 117) -/
def execArpRequest (q : RPort) (s_ : SubPort) (a : ArpFrame) (s : State) : Out :=
  let x := s.sub q s_
  .next (addressAsked q s_ a.sec (a.targetIp != 0 && a.targetIp == x.ipv4) (.arpReply q s_ x.nexthop a.senderIp a.targetIp) s)

/-- (DEDUCED, log entry 117) -/
def execNeighborSolicitation (q : RPort) (s_ : SubPort) (a : NdFrame) (s : State) : Out :=
  let x := s.sub q s_
  .next (addressAsked q s_ a.sec (a.target != 0 && a.target == x.ipv6) (.ndReply q s_ x.nexthop a.senderIp a.target) s)

end Sys2Proof.Machine
end

