-- ==== Sys2Proof/Machine/Spdm.lean ====
section
/-! DEFINITION. The SPDM responder and the DOE mailbox of each port (R305 to R307, R367). -/

namespace Sys2Proof.Machine

open Sys2Proof.Crypto (bytes256 bytes512 sha256)

/-- (DEDUCED, log entry 81) -/
def onDoe (q : PciePort) (f : Doe → Doe) (s : State) : State := s.onHub fun h => { h with doe := vupd h.doe q f }

def answerDoe (q : PciePort) (r : SpdmResponse) (s : State) : State := onDoe q (fun d => { d with response := some r }) s

/-- (PRESUMED, log entry 77) -/
def spdmErr (q : PciePort) (e : SpdmError) (s : State) : State := answerDoe q (.error e) s

/-- One object at a time: before Toxel runs DOE Busy stays set (R367), and the mailbox needs Memory Space no more than any
configuration access does. -/
def doeServe (q : PciePort) (f : Doe → State → State) (s : State) : State :=
  if (s.hub.doe[q]).busy then s else f s.hub.doe[q] s

/-- A request that needs the version, the capabilities and the algorithms agreed. (PRESUMED, log entry 77) -/
def spdmReady (q : PciePort) (f : Doe → State → State) (s : State) : State :=
  doeServe q (fun d s => if d.version && d.capabilities && d.algorithms then f d s else spdmErr q .unexpectedRequest s) s

/-- The responder nonce: an HKDF output under COMPOUND over the boot count and a request counter. -/
def spdmNonce (s : State) : U256 :=
  hkdf32 (slotAt s 2).value [] (leBytes 8 s.key.vbat.bootCount ++ Config.countBytes s.key.spdmCount)

def countSpdm (s : State) : State := s.onKey fun k => { k with spdmCount := k.spdmCount + 1 }

/-- The chain of slot 0 (R306). -/
def certChain (s : State) : Bytes :=
  s.spi.certs ++ match s.key.aliasCert with
    | some a => derCertificate (aliasTbs a.publicKey a.fwMeasure a.identityGen a.lifeCycle.code a.dbg) a.signature
    | none => []

/-- A signature by ALIAS over a digest, where the key may be used. -/
def aliasSign (digest : U256) (s : State) : State × Option U512 :=
  match slotUse 3 mSecurity uSign s with
  | (s, .ok x) => (s, some (Crypto.sign x.value.toNat digest))
  | (s, .error _) => (s, none)

def execGetVersion (q : PciePort) (s : State) : Out :=
  .next (doeServe q (fun _ s => answerDoe q (.version 1 2)
    (onDoe q (fun d => { d with version := true, capabilities := false, algorithms := false }) s)) s)

def execGetCapabilities (q : PciePort) (s : State) : Out :=
  .next (doeServe q (fun d s =>
    if d.version then answerDoe q (.capabilities true true true true true true) (onDoe q (fun d => { d with capabilities := true }) s)
    else spdmErr q .unexpectedRequest s) s)

/-- The device selects, of what the requester offers, the one algorithm of each kind that it has; all four are needed before
a request that uses them. -/
def execNegotiateAlgorithms (q : PciePort) (a : SpdmAlgorithms) (s : State) : Out :=
  .next (doeServe q (fun d s =>
    if d.version && d.capabilities then
      answerDoe q (.algorithms a)
        (onDoe q (fun d => { d with algorithms := a.ecdsaP256 && a.sha256 && a.secp256r1 && a.aes256gcm }) s)
    else spdmErr q .unexpectedRequest s) s)

def execGetDigests (q : PciePort) (s : State) : Out :=
  .next (spdmReady q (fun _ s => answerDoe q (.digests (sha256 (certChain s))) s) s)

def execGetCertificate (q : PciePort) (slot : U8) (offset length : U16) (s : State) : Out :=
  .next (spdmReady q (fun _ s =>
    let c := certChain s
    if slot ≠ 0 ∨ (c.length ≤ offset.toNat ∧ c ≠ []) then spdmErr q .invalidRequest s
    else
      let part := fieldB c offset.toNat length.toNat
      answerDoe q (.certificate part (c.length - offset.toNat - part.length)) s) s)

/-- R305: a challenge response is signed with the alias key; a device without it answers ERROR Unspecified. -/
def execChallenge (q : PciePort) (slot : U8) (nonce : U256) (s : State) : Out :=
  .next (spdmReady q (fun _ s =>
    if slot ≠ 0 then spdmErr q .invalidRequest s
    else
      let n := spdmNonce s
      let chain := sha256 (certChain s)
      match aliasSign (Config.spdmHash 1 (bytes256 nonce ++ bytes256 chain ++ bytes256 n)) (countSpdm s) with
      | (s, some sig) => answerDoe q (.challengeAuth chain n sig) s
      | (s, none) => spdmErr q .unspecified s) s)

/-! ### Measurements (R307) -/

def ctxBlock (c : RoundCtx) : Bytes :=
  leBytes 1 c.phase.code ++ leBytes 1 (if c.phase == .free then 0 else c.policy.mode.code) ++ zeroBytes 6
    ++ leBytes 8 c.policy.roundId ++ bytes256 c.policyHash

def partBlock (s : State) (p : Part) : Bytes :=
  let x := s.part p
  if x.phase == .absent then zeroBytes 272
  else
    leBytes 1 x.phase.code ++ leBytes 1 x.resv.dieMask.toNat
      ++ leBytes 1 ((if x.resv.requireIde then 1 else 0) + if x.twin.phase == .bound then 2 else 0) ++ [0] ++ leBytes 4 x.keyGen
      ++ zeroBytes 8 ++ bytes256 x.img.measure ++ bytes256 x.resv.imageSignerHash ++ x.ctxs.toList.flatMap ctxBlock

/-- Block `i` of GET_MEASUREMENTS. -/
def measurementBlock (s : State) (i : Nat) : Option Bytes :=
  if i = 1 then some (bytes256 Config.romDigest)
  else if i = 2 then some (bytes256 s.key.fwMeasure)
  else if i = 3 then
    some (leBytes 1 s.key.fuses.lifeCycle.code ++ leBytes 1 (if tampered s then 1 else 0) ++ leBytes 1 (dbgNow s) ++ [0]
      ++ leBytes 4 s.key.fuses.identityGen ++ leBytes 4 s.key.fuses.svn ++ leBytes 4 s.key.runningSvn
      ++ leBytes 8 s.key.fuses.uniqueId.toNat ++ leBytes 8 s.key.vbat.bootCount)
  else if i = 4 then
    some (leBytes 4 s.sys.instar ++ leBytes 2 s.sys.member
      ++ leBytes 2 ((if s.sys.master then 1 else 0) + if s.sys.master || s.sys.locked then 2 else 0) ++ leBytes 8 s.sys.beat
      ++ leBytes 8 s.key.vbat.calTime ++ leBytes 1 ((if s.key.vbat.calSet then 1 else 0) + if s.key.vbat.oscFail then 2 else 0)
      ++ zeroBytes 7)
  else if h : 16 ≤ i ∧ i < 24 then some (partBlock s ⟨i - 16, by omega⟩)
  else none

/-- DMTFSpecMeasurementValueType of a block: 0 immutable ROM, 1 mutable firmware, 2 hardware and 3 firmware configuration; bit 7
marks a raw value. (PRESUMED, log entry 77) -/
def measurementType (i : Nat) : Nat := if i = 1 then 0 else if i = 2 then 1 else if i < 16 then 0x82 else 0x83

/-- A block in the DMTF measurement format: index, specification 1, size; then the value's type, size and bytes.
(PRESUMED, log entry 77) -/
def dmtfBlock (i : Nat) (value : Bytes) : Bytes :=
  leBytes 1 i ++ [1] ++ leBytes 2 (value.length + 3) ++ leBytes 1 (measurementType i) ++ leBytes 2 value.length ++ value

def blockIndices : List Nat := [1, 2, 3, 4] ++ (List.range 8).map (· + 16)

/-- The blocks a request names: 0 asks for their number, 0xFF for all. -/
def measurementsFor (s : State) (index : Nat) : Option (List (Nat × Bytes)) :=
  if index = 0 then some [(0, leBytes 1 blockIndices.length)]
  else if index = 255 then some (blockIndices.filterMap fun i => (measurementBlock s i).map fun b => (i, dmtfBlock i b))
  else (measurementBlock s index).map fun b => [(index, dmtfBlock index b)]

def execGetMeasurements (q : PciePort) (index : U8) (signed : Bool) (nonce : U256) (s : State) : Out :=
  .next (spdmReady q (fun _ s =>
    match measurementsFor s index.toNat with
    | none => spdmErr q .invalidRequest s
    | some bs =>
      let n := spdmNonce s
      if !signed then answerDoe q (.measurements bs n none) (countSpdm s)
      else
        let content := bytes256 nonce ++ (bs.flatMap fun b => leBytes 1 b.1 ++ b.2) ++ bytes256 n
        match aliasSign (Config.spdmHash 2 content) (countSpdm s) with
        | (s, some sig) => answerDoe q (.measurements bs n (some sig)) s
        | (s, none) => spdmErr q .unspecified s) s)

/-! ### Sessions (R305) -/

def sessionSlot (q : PciePort) : Nat := 56 + q.val

/-- The ephemeral key of KEY_EXCHANGE is drawn and the session begins. -/
def exchangeDrawn (q : PciePort) (reqSession : U16) (exchange : U512) (s : State) : State :=
  let (r, s) := generate 0 s
  let priv := (r.toNat % (Crypto.pN - 1)) + 1
  let pub := Crypto.publicKey priv
  let content := leBytes 2 reqSession.toNat ++ bytes512 exchange ++ bytes512 pub
  match Crypto.ecdh priv exchange, aliasSign (Config.spdmHash 3 content) s with
  | some z, (s, some sig) =>
    let secret := Config.spdmHash 4 (bytes256 z ++ content)
    let s := writeSlot (sessionSlot q) secret 0 2 [mSecurity] [uDerive, uEncrypt, uMac] s
    let v := Config.spdmHash 5 (bytes256 secret)
    answerDoe q (.keyExchange reqSession pub sig v)
      (onDoe q (fun d => { d with session := some ⟨reqSession, false, Config.spdmHash 6 (bytes256 secret), 0⟩ }) s)
  | _, (s, _) => spdmErr q .unspecified s

def setDoeBusy (q : PciePort) (b : Bool) : State → State := onDoe q fun d => { d with busy := b }

/-- The wait of a port's KEY_EXCHANGE. -/
def isExchange (q : PciePort) : DrbgUse → Bool
  | .keyExchange r _ _ => r == q
  | _ => false

/-- R305: an ephemeral key, or ERROR Busy without entropy; while it waits for the source, DOE Busy stays set. A port keeps one session, whose secret is in its slot (R291).
(DEDUCED, log entry 76) -/
def execKeyExchange (q : PciePort) (slot : U8) (reqSession : U16) (exchange : U512) (s : State) : Out :=
  .next (spdmReady q (fun d s =>
    if slot ≠ 0 ∨ !Crypto.onCurve exchange then spdmErr q .invalidRequest s
    else if entropyStatus s ≠ .ok then spdmErr q .busy s
    else if d.session.isSome then spdmErr q .unspecified s
    else if canGenerate s 0 then exchangeDrawn q reqSession exchange s
    else waitGenerate ⟨0, .keyExchange q reqSession exchange⟩ (setDoeBusy q true s)) s)

/-- The session and its secret are gone. -/
def endSession (q : PciePort) (s : State) : State :=
  invalidateSlot (sessionSlot q) (onDoe q (fun d => { d with session := none }) s)

def execFinish (q : PciePort) (verify : U256) (s : State) : Out :=
  .next (spdmReady q (fun d s => match d.session with
    | some x =>
      if x.established then spdmErr q .unexpectedRequest s
      else if verify = x.finishKey then
        answerDoe q .finish (onDoe q (fun d => { d with session := some { x with established := true } }) s)
      else spdmErr q .unspecified (endSession q s)
    | none => spdmErr q .unexpectedRequest s) s)

/-- A request that runs in an established session. -/
def inSession (q : PciePort) (f : SpdmSession → State → State) (s : State) : State :=
  spdmReady q (fun d s => match d.session with
    | some x => if x.established then f x s else spdmErr q .unexpectedRequest s
    | none => spdmErr q .unexpectedRequest s) s

/-- KEY_UPDATE: operations 1 UpdateKey, 2 UpdateAllKeys and 3 VerifyNewKey of SPDM 1.2; an update moves the session secret on. -/
def execKeyUpdate (q : PciePort) (op : U8) (s : State) : Out :=
  .next (inSession q (fun x s =>
    if op = 1 ∨ op = 2 then
      let next := Config.spdmHash 7 (bytes256 (slotAt s (sessionSlot q)).value)
      answerDoe q .keyUpdate
        (onDoe q (fun d => { d with session := some { x with updates := x.updates + 1 } })
          (writeSlot (sessionSlot q) next 0 2 [mSecurity] [uDerive, uEncrypt, uMac] s))
    else if op = 3 then answerDoe q .keyUpdate s
    else spdmErr q .invalidRequest s) s)

def execEndSession (q : PciePort) (s : State) : Out := .next (inSession q (fun _ s => answerDoe q .endSession (endSession q s)) s)

/-- R305: IDE keys go straight into the port's IDE engine. A stop takes the stream out of the Secure state; entering it is
the link's own event (IDE_STREAM_CHANGE). (DEDUCED, log entry 76) -/
def execIdeKeyProgramming (q : PciePort) (m : IdeKeyMessage) (s : State) : Out :=
  let link (f : PcieLink → PcieLink) (s : State) : State := s.onHub fun h => { h with links := vupd h.links q f }
  .next (inSession q (fun _ s => match m with
    | .query => answerDoe q (.ideKm (s.hub.links[q]).ideKey.isSome) s
    | .keyProg k =>
      if (s.hub.links[q]).inL0 then answerDoe q (.ideKm true) (link (fun l => { l with ideKey := some k }) s)
      else spdmErr q .unspecified s
    | .setGo => answerDoe q (.ideKm (s.hub.links[q]).ideKey.isSome) s
    | .setStop => answerDoe q (.ideKm true) (link (fun l => { l with ideSecure := false }) s)) s)

/-! ### The mailbox (R367) -/

/-- DOE Abort discards the object and the response. -/
def execDoeAbort (q : PciePort) (s : State) : Out :=
  let waits := s.rng.waiting.any fun w => isExchange q w.use
  let s := s.onRng fun r => { r with waiting := r.waiting.filter fun w => !isExchange q w.use }
  .next (onDoe q (fun d => { d with response := none, error := false, busy := d.busy && !waits }) s)

/-- An object longer than 16,384 bytes, or of a protocol the instance does not serve, sets DOE Error and is discarded. An object
of a served protocol that fits is refused by the responder: a request that R305 does not name is not supported (R11) and is
answered with ERROR UnsupportedRequest. (PRESUMED, log entry 77) -/
def execDoeObjectReject (q : PciePort) (bytes : Nat) (protocolKnown : Bool) (s : State) : Out :=
  .next (doeServe q (fun _ s =>
    if 16384 < bytes ∨ !protocolKnown then onDoe q (fun d => { d with error := true }) s
    else spdmErr q .unsupportedRequest s) s)

end Sys2Proof.Machine
end

