-- ==== Sys2Proof/Machine/Draws.lean ====
section
/-! DEFINITION. The consumers that wait for the entropy source (R319, R322): whose turn it is, what each does when it is served,
and what becomes of host requests when the source fails. -/

namespace Sys2Proof.Machine

/-- The first waiting consumer in the order of R319. -/
def nextWaiting (l : List DrbgWait) : Option DrbgWait :=
  l.foldl (fun (b : Option DrbgWait) w => match b with
    | some x => if instRank w.inst < instRank x.inst then some w else some x
    | none => some w) none

/-- An instance is seeded anew from two pool outputs. -/
def reseed (i : Fin 13) (s : State) : State :=
  let (e, s) := takePool s
  let d := s.rng.insts[i]
  if d.phase = 0 then instantiate i e s
  else
    let d' := Crypto.drbgReseed ⟨d.key, d.v⟩ e
    (onInst i (fun _ => ⟨1, d'.key, d'.v⟩) s).onRng fun r => { r with reseeds := sat64 r.reseeds }

/-- The agreement still waits for its ephemeral key. -/
def connWaits (c : Conn) : Bool := c.state == .connecting && c.eph.isNone && c.createCmd.isSome

/-- The consumer has what it waited for; one whose work has ended meanwhile takes nothing. (DEDUCED, log entry 74) -/
def serveWaiting (w : DrbgWait) (s : State) : State := match w.use with
  | .instantiate => reseed w.inst s
  | .noise p k => when ((s.ctx p k).phase == .finalizing && (s.ctx p k).ownNoise.isNone) (noiseDrawn p k) s
  | .handshake q b => when (s.sub q b).linkUp (helloDrawn q b) s
  | .create c p r => createDrawn c p r s
  | .load p => when (s.part p).img.load.isSome (loadDrawn p) s
  | .connection n => when (connWaits (s.conn n)) (connDrawn n) s
  | .enroll h ok => enrollRoot h ok s
  | .keyExchange q session x => exchangeDrawn q session x (setDoeBusy q false s)

/-- R319: two pool outputs go to the consumer whose turn it is. (DEDUCED, log entry 74) -/
def execDrbgGenerate (s : State) : Out :=
  .next (if s.rng.phase == .healthy && decide (2 ≤ s.rng.pool.length) then
      match nextWaiting s.rng.waiting with
      | some w => serveWaiting w (s.onRng fun r => { r with waiting := r.waiting.erase w })
      | none => s
    else s)

/-- A host request, and not one of the device's own consumers (R322). -/
def DrbgUse.isHost : DrbgUse → Bool
  | .noise _ _ | .handshake _ _ | .instantiate => false
  | .create _ _ _ | .load _ | .connection _ | .enroll _ _ | .keyExchange _ _ _ => true

/-- A host request ends for want of entropy. A PART_LOAD has ended with the failing window already. -/
def failWaiting (w : DrbgWait) (s : State) : State := match w.use with
  | .create c _ _ => done c 0x01 .entropyFail s
  | .connection n => when (connWaits (s.conn n)) (refuseConn n .entropyFail) s
  | .enroll _ _ => mbxDone .entropyFail [] s
  | .keyExchange q _ _ => spdmErr q .busy (setDoeBusy q false s)
  | .noise _ _ | .handshake _ _ | .instantiate | .load _ => s

/-- R322: at a boundary every host request that waits for a source that is not HEALTHY ends. -/
def failHostWaits (s : State) : State :=
  if s.rng.phase = .healthy then s
  else
    forAll (s.rng.waiting.filter fun w => w.use.isHost) failWaiting
      (s.onRng fun r => { r with waiting := r.waiting.filter fun w => !w.use.isHost })

end Sys2Proof.Machine
end

