-- ==== Sys2Proof/Machine/Recorder.lean ====
section
/-! DEFINITION. The event recorder (R379 to R384): programming, the SECTOR, HOURS and DROPPED records, and the two cursors. -/

namespace Sys2Proof.Machine

def RecType.code : RecType → Nat
  | .event => 1 | .boot => 2 | .sector => 3 | .hours => 4 | .dropped => 5 | .test => 6

/-- Bytes a record takes: its header, its stamp and the body after it. -/
def Record.size (r : Record) : Nat := 16 + r.body.length

/-- The record as it stands in flash, with the padding of its latch to 256 bytes. -/
def Record.bytes (r : Record) : Bytes :=
  leBytes 1 r.typ.code ++ leBytes 1 (8 + r.body.length) ++ leBytes 1 (r.severity.code ||| if r.compat then 0x80 else 0)
    ++ leBytes 1 r.seq ++ leBytes 4 r.queue ++ leBytes 8 r.stamp.toNat ++ r.body

def sectorBytes : Nat := 0x10000
def circStart : Nat := 0x01200000
def circEnd : Nat := 0x02000000
def sectorOf (a : Nat) : Nat := a / sectorBytes * sectorBytes

/-- Where `n` bytes go from `a` on: no record crosses a sector boundary. -/
def placeAt (a n : Nat) : Nat := if a % sectorBytes + n ≤ sectorBytes then a else sectorOf a + sectorBytes

/-- The stamp of a record written now: the sequence number, or the GZ1 stamp (R384). -/
def stampOf (e : EvrState) : U64 :=
  if e.compat then BitVec.ofNat 64 (e.powerCycles <<< 32 ||| e.hours % 2 ^ 32) else BitVec.ofNat 64 e.head

/-- A record for the next sequence number; SECTOR and HOURS bodies begin with the full sequence number. -/
def makeRecord (e : EvrState) (r : BufRec) (addr : Nat) : Record :=
  { typ := r.typ, severity := r.severity, compat := e.compat, queue := r.queue, seq := e.head, addr := addr, stamp := stampOf e,
    body := match r.typ with
      | .sector => leBytes 8 e.head ++ r.body
      | .hours => leBytes 8 e.head ++ r.body
      | _ => r.body }

def BufRec.full (r : BufRec) : Nat := match r.typ with
  | .sector => r.size + 8
  | .hours => r.size + 8
  | _ => r.size

/-- Operating hours and power cycles, as SECTOR and HOURS records carry them. -/
def hoursBody (e : EvrState) : Bytes := leBytes 4 e.hours ++ leBytes 4 e.powerCycles

/-- The next circulating sector after the one at `a`, not a failed one. -/
def nextSector (bad : List Nat) : Nat → Nat → Nat
  | 0, a => a
  | n + 1, a =>
    let b := if a + sectorBytes < circEnd then a + sectorBytes else circStart
    if bad.contains b then nextSector bad n b else b

/-- Start a circulating sector: erase it, dropping what it held, and write its SECTOR record. -/
def openSector (a : Nat) (e : EvrState) : EvrState :=
  let e := { e with circ := e.circ.filter fun r => sectorOf r.addr != a }
  let r := makeRecord e ⟨.sector, .info, 0, hoursBody e⟩ a
  { e with circ := e.circ ++ [r], head := e.head + 1, circAt := a + r.size }

/-- Program one record. -/
def programRec (r : BufRec) (e : EvrState) : EvrState :=
  let k := placeAt e.keptEnd r.full
  if !e.keptFull && decide (k + r.full ≤ circStart) then
    { e with kept := e.kept ++ [makeRecord e r k], head := e.head + 1, keptEnd := k + r.full }
  else
    let e := { e with keptFull := true }
    let e := if e.circAt % sectorBytes = 0 then openSector e.circAt e
      else if e.circAt % sectorBytes + r.full ≤ sectorBytes then e
      else openSector (nextSector e.badSectors 224 (sectorOf e.circAt)) e
    { e with circ := e.circ ++ [makeRecord e r e.circAt], head := e.head + 1, circAt := e.circAt + r.full }

/-- The sector the next record would go to. -/
def targetSector (r : BufRec) (e : EvrState) : Nat :=
  let k := placeAt e.keptEnd r.full
  if !e.keptFull && decide (k + r.full ≤ circStart) then sectorOf k
  else if e.circAt % sectorBytes = 0 then e.circAt
  else if e.circAt % sectorBytes + r.full ≤ sectorBytes then sectorOf e.circAt
  else nextSector e.badSectors 224 (sectorOf e.circAt)

/-- A sector failed its verify: it is skipped until the next hub reset (R382). -/
def skipSector (a : Nat) (e : EvrState) : EvrState :=
  let e := { e with flashFail := true, badSectors := insertSet e.badSectors a }
  if a < circStart then { e with keptEnd := a + sectorBytes, keptFull := e.keptFull || decide (circStart ≤ a + sectorBytes) }
  else { e with circAt := nextSector e.badSectors 224 a }

/-- The record to program next: the DROPPED record of a loss, then the oldest in the buffer. -/
def nextRecord (e : EvrState) : Option BufRec :=
  if 0 < e.droppedDue then some ⟨.dropped, .notice, 0, leBytes 8 e.droppedDue⟩ else e.buffer.head?

/-- A power loss between a record's body and its TYPE: the place is used up, and the record is none (R381). -/
def tearRec (r : BufRec) (e : EvrState) : EvrState :=
  let t := programRec r e
  let gone (x : Record) : Bool := x.seq + 1 == t.head
  { t with kept := t.kept.filter fun x => !gone x, circ := t.circ.filter fun x => !gone x, head := t.head - 1 }

/-- R381, R382: the flash is free, and the next buffered record is programmed; `ok` is whether its verify passed. -/
def execRecorderFlashProgram (ok : Bool) (s : State) : Out :=
  .next (if !s.evr.scanDone then s
    else match nextRecord s.evr with
      | none => s
      | some r =>
        if ok then s.onEvr fun e =>
          programRec r (if 0 < e.droppedDue then { e with droppedDue := 0 } else { e with buffer := e.buffer.tail })
        else
          let a := targetSector r s.evr
          let s := s.onEvr (skipSector a)
          s.onHif s.f0 (queueEvent ⟨0, s.sys.beat, .memory, .uncorrectableMemory, .error, 0xFFFFFFFF, BitVec.ofNat 64 a⟩))

/-- R384: every 16 units of operating time an HOURS record is written. -/
def execHoursRecord (s : State) : Out :=
  let s := s.onEvr fun e =>
    let h := (e.hourMark + 16) % 2 ^ 32
    { e with hours := h, hourMark := h, hourPhase := 0 }
  .next (record ⟨.hours, .info, 0, hoursBody s.evr⟩ s)

/-- 225 s, the unit of operating hours, in units of 0.8 ns. -/
def hourUnit : Nat := 281250000000

/-- Operating hours count `d` units of 0.8 ns, up to the next HOURS record, whose row carries the count on (R384).
(DEDUCED, log entry 194) -/
def hoursRun (d : Nat) (s : State) : State :=
  s.onEvr fun e =>
    let n := e.hourPhase + d
    { e with hourPhase := n % hourUnit, hours := if e.hourMark + 15 < e.hours + n / hourUnit then max e.hours (e.hourMark + 15)
                                                   else e.hours + n / hourUnit }

/-- EVR_TAIL: the oldest circulating record. -/
def evrTail (e : EvrState) : Nat := match e.circ.head? with
  | some r => r.seq
  | none => e.head

/-- What a read of word 0 latches at cursor `c`: the bytes, the latched sequence number, the cursor after (R383). -/
def latchAt (e : EvrState) (c : Nat) : Bytes × Option Nat × Nat :=
  match (e.kept ++ e.circ).find? fun r => r.seq == c with
  | some r => (r.bytes, some c, c + 1)
  | none =>
    if e.head ≤ c then (zeroBytes 8, none, c)
    else (leBytes 1 0xFE ++ leBytes 1 16 ++ zeroBytes 6 ++ leBytes 8 c ++ leBytes 8 (evrTail e - c), none, evrTail e)

/-- The 32 words of the window. -/
def windowWords (b : Bytes) : List U64 := (List.range 32).map fun i => BitVec.ofNat 64 (fieldLE b (8 * i) 8)

/-- R383: a read of EVR_WINDOW word 0. -/
def execEvrWindowRead (q : PciePort) (s : State) : Out :=
  .next (if !barOpen s (.f0 q) then s
    else
      let (b, n, c) := latchAt s.evr (s.evr.ports[q]).cursor
      let w := windowWords b
      { s.onEvr (fun e => { e with ports := vupd e.ports q fun x =>
          { x with cursor := c, latchedSeq := n.getD x.latchedSeq, window := w } }) with
        answer := fieldB (b ++ zeroBytes 8) 0 8, answerPoison := false })

/-- R383: EVR_CURSOR takes effect at once; on the non-managing port the write is discarded. -/
def execEvrCursorWrite (q : PciePort) (value : U64) (s : State) : Out :=
  .next (f0Write q (fun s => s.onEvr fun e => { e with ports := vupd e.ports q fun x => { x with cursor := value.toNat } }) s)

end Sys2Proof.Machine
end

