-- ==== Sys2Proof/Machine/Systems.lean ====
section
/-! DEFINITION. The system: the instar (R251 to R253), chirps, alignment and adoption (R160 to R162, R254 to R256, R398), and the
registers of R154, R250 and R270 that have rows of their own. -/

namespace Sys2Proof.Machine

/-! ### The instar (R252) -/

/-- The pending INSTAR_SET ends with a status. -/
def endInstar (st : Status) (s : State) : State := match s.sys.instarPending with
  | some x => done x.cmd 0x03 st (s.onSys fun y => { y with instarPending := none })
  | none => s

/-- The two checks; one that passes replaces a pending one. (DEDUCED, log entry 119) -/
def setInstar (c : Cmd) (value effective : Nat) (s : State) : State :=
  let least := match s.sys.instarPending with
    | some x => max s.sys.instar x.value
    | none => s.sys.instar
  if value ≤ least then done c 0x03 .invalidCommand s
  else if effective < s.sys.beat + 1 then done c 0x03 .invalidState s
  else (endInstar .invalidState s).onSys fun y => { y with instarPending := some ⟨value, effective, c⟩ }

def execInstarSet (c : Cmd) (newInstar : U32) (effectiveBeat : U64) (s : State) : Out :=
  .next (f0Command c 0x03 true (setInstar c newInstar.toNat effectiveBeat.toNat) s)

/-- R252: the boundary that ends beat EFFECTIVE_BEAT − 1. -/
def execInstarEffective (s : State) : Out :=
  .next (match s.sys.instarPending with
    | some x => if x.beat ≤ s.sys.beat then endInstar .ok (s.onSys fun y => { y with instar := x.value }) else s
    | none => s)

/-! ### Chirps (R254 to R256) -/

/-- LOCKED and DRIFT as SYS_BEAT_STATUS and the chirps show them: a beat master is its own reference. -/
def lockedNow (y : SysState) : Bool := y.master || y.locked
def driftNow (y : SysState) : Bool := !y.master && y.drift

/-- SYS_BEAT_STATUS (R176). -/
def beatStatus (y : SysState) : Nat :=
  (if lockedNow y then 1 else 0) ||| (if driftNow y then 2 else 0) ||| if y.periodRefused then 4 else 0

/-- The chirp-alignment event. -/
def postAlign (sev : Severity) (s : State) : State := postF0 .clockPower .ok sev 0 (detail 9 (beatStatus s.sys)) s

/-- The mean of the delay samples. -/
def linkDelay (y : SysState) : Int := if y.delaySamples.isEmpty then 0 else y.delaySamples.sum / (y.delaySamples.length : Int)

/-- When a chirp arrived, in elapsed units. -/
def arrivedAt (s : State) (f : ChirpFrame) : Int := (s.sys.beatStart : Int) + f.arrival

/-- R256: a returned chirp is a sample of the link delay. (DEDUCED, log entry 118) -/
def sampleDelay (f : ChirpFrame) (s : State) : State :=
  match s.sys.sentChirps.find? fun x => x.1 == f.echoBeat.toNat with
  | some x => s.onSys fun y => { y with
      delaySamples := ((arrivedAt s f - (x.2 : Int) - (f.turn.toNat : Int)) / 2 :: y.delaySamples).take 16 }
  | none => s

/-- The beat whose local start lies nearest a time, in whole beats from the one in progress. (DEDUCED, log entry 118) -/
def beatsAway (period : Nat) (t : Int) : Int := (2 * t + (period : Int)) / (2 * (period : Int))

/-- Where the beat `away` beats from the one in progress starts on the local clock, from the start of that one: the corrections that
stand for this beat and the next count, and so does the length of the beat before (R160). (DEDUCED, log entry 118) -/
def startOf (y : SysState) (away : Int) : Int :=
  let p : Int := y.beatPeriod
  if 0 < away then away * p + y.slew + (if 1 < away then y.slewNext else 0)
  else if away < 0 then (away + 1) * p - y.prevLen
  else 0

/-- The phase error becomes the latest one: LOCKED follows it, and the next beat is slewed against it (R160).
(DEDUCED, log entry 118) -/
def takePhase (e : Int) (s : State) : State :=
  let lock := decide (-25 ≤ e ∧ e ≤ 25)
  let step := max (-8) (min e 8)
  let was := s.sys.locked
  let s := s.onSys fun y => { y with
    chirpError := e, locked := lock, slewNext := -step, drift := y.drift && !lock }
  if was = lock then s else postAlign .warning s

/-- R251, R398: a package without partitions takes the chirp's number, instar and phase. (DEDUCED, log entry 35) -/
def adoptChirp (f : ChirpFrame) (at_ : Int) (s : State) : State :=
  takePhase 0 (s.onSys fun y => { y with adopt := some (f.beat.toNat, at_) })

/-- R253: the chirp's instar fences the package. (DEDUCED, log entry 119) -/
def chirpFences (y : SysState) (f : ChirpFrame) : Bool :=
  decide (y.instar < f.instar.toNat) && match y.instarPending with
    | some x => !(x.value == f.instar.toNat && decide (x.beat ≤ f.beat.toNat))
    | none => true

/-- What an accepted chirp does. (DEDUCED, log entry 118) -/
def acceptChirp (f : ChirpFrame) (s : State) : State :=
  let s := sampleDelay f s
  let first := !s.sys.chirpSeen
  let s := s.onSys fun y => { y with
    chirpSeen := true, chirpNow := true, chirpMissed := 0, hops := f.hops.toNat + 1, masterSeen := f.master.toNat % 1024 }
  let at_ := f.arrival - linkDelay s.sys
  let away := (f.beat.toNat : Int) - (s.sys.beat : Int)
  let same := beatsAway s.sys.beatPeriod at_ == away
  let e := startOf s.sys away - at_
  if !anyPartition s then
    let s := s.onSys fun y => { y with instar := f.instar.toNat }
    if first || !same then adoptChirp f at_ s else takePhase e s
  else
    let s := takePhase e s
    if chirpFences s.sys f then s.onSys fun y => { y with fenceDue := true }
    else if f.instar.toNat = s.sys.instar ∧ !same then postAlign .critical (s.onSys fun y => { y with fenceDue := true })
    else s

/-- The bytes and bits that R222 and R255 mark reserved or zero are zero; another chirp is discarded (R254, R417). -/
def chirpFormed (f : ChirpFrame) : Bool :=
  decide (f.partition.toNat < 8) && decide (f.flags.toNat < 16) && f.reserved == 0 && f.marks.toNat / 8 == 0 && f.spare == 0

/-- A chirp of the right format. Every one of a sub-port's peer is remembered for the echo. -/
def takeChirp (f : ChirpFrame) (s : State) : State :=
  let peer := s.sys.peerIp.toList.getD (2 * f.port.val + f.sub.val) 0
  let s := when (f.srcIp == peer) (State.onSub f.port f.sub fun x => { x with lastChirp := some (f.beat, arrivedAt s f) }) s
  let y := s.sys
  if y.master || f.port != y.clockPort || f.sub != y.clockSub || f.srcIp != y.upstreamIp then s
  else if f.period.toNat ≠ y.beatPeriod then postAlign .warning s
  else if 31 ≤ f.hops.toNat then s
  else acceptChirp f s

/-- R254, R256: a chirp. -/
def receiveChirp (f : ChirpFrame) : State → State := when (chirpFormed f) (takeChirp f)

def execChirp (f : ChirpFrame) (s : State) : Out := .next (admitFrame f.toRxtFrame (receiveChirp f) s)

/-- R161: 64 beats without an accepted chirp. -/
def execChirpMissedLimit (s : State) : Out :=
  .next (when (!s.sys.master && decide (64 ≤ s.sys.chirpMissed) && !s.sys.drift)
    (fun s => postAlign .warning (s.onSys fun y => { y with drift := true })) s)

/-- The chirp a sub-port sends at the start of a beat (R255): an RXT packet to the sub-port's peer. The spec names neither its
source port nor its DSCP. (DESIGN CHOICE, log entry 184) -/
def chirpFrame (s : State) (q : RPort) (b : SubPort) : TxFrame :=
  let y := s.sys
  let last := (s.sub q b).lastChirp
  let echo : U64 := match last with
    | some x => x.1
    | none => BitVec.ofNat 64 (2 ^ 64 - 1)
  let turn : U32 := match last with
    | some x => BitVec.ofInt 32 ((y.now : Int) - x.2)
    | none => 0
  let member := if y.master then y.member else y.masterSeen
  let hops := if y.master then 0 else y.hops
  let marks := (if lockedNow y then 1 else 0) ||| (if driftNow y then 2 else 0) ||| if y.master then 4 else 0
  let peer := y.peerIp.toList.getD (2 * q.val + b.val) 0
  let data := rxtHeader opChirp.toNat 0 0 y.instar 0 0 0 0 0 0 0 0 ++ beBytes 8 y.beat ++ beBytes 8 echo.toNat ++ beBytes 4 turn.toNat
    ++ beBytes 4 y.beatPeriod ++ beBytes 2 member ++ beBytes 1 hops ++ beBytes 1 marks ++ zeroBytes 4
  .chirp q b (wireHead q b (if peer.toNat < 2 ^ 32 then 4 else 6) peer (BitVec.ofNat 6 (Config.openField 17))
      (BitVec.ofNat 16 (Config.openField 18)) data s)
    (BitVec.ofNat 32 y.instar) (BitVec.ofNat 64 y.beat) echo turn (BitVec.ofNat 32 y.beatPeriod)
    (BitVec.ofNat 16 member) (BitVec.ofNat 8 hops) (BitVec.ofNat 8 marks)

/-- R255: the start of a beat sends one chirp on each named sub-port. The clock sub-port keeps the times of its chirps, the
latest 64, for R256. (DEDUCED, log entry 118) -/
def sendChirps (s : State) : State :=
  let all : List (RPort × SubPort) := (List.finRange 8).flatMap fun q => (List.finRange 2).map fun b => (q, b)
  let named := all.filter fun x => s.sys.chirpPorts.getLsbD (2 * x.1.val + x.2.val) && !(s.ports[x.1]).looped
  let s := forAll named (fun x s => emit x.1 x.2 (chirpFrame s x.1 x.2) s) s
  if named.contains (s.sys.clockPort, s.sys.clockSub) then
    s.onSys fun y => { y with sentChirps := ((y.beat, y.now) :: y.sentChirps).take 64 }
  else s

/-! ### Registers with rows of their own -/

/-- R154. (DEDUCED, log entry 86) -/
def writeBeatPeriod (v : U32) (s : State) : State :=
  s.onSys fun y =>
    if anyPartition s then { y with periodRefused := true }
    else if inRange 12500 12500000 v.toNat then { y with periodPending := some v.toNat } else y

def execSysBeatPeriodWrite (q : PciePort) (value : U32) (s : State) : Out := .next (f0WriteBooted q (writeBeatPeriod value) s)

/-- R250. -/
def writeMember (v : U32) (s : State) : State :=
  if anyPartition s then s else s.onSys fun y => { y with member := v.toNat % 1024 }

def execSysMemberWrite (q : PciePort) (value : U32) (s : State) : Out := .next (f0WriteBooted q (writeMember value) s)

/-- R270; the beat master's clock runs free (R327). -/
def writeRole (v : U32) (s : State) : State :=
  if anyPartition s then s
  else refSelect (s.onSys fun y => { y with
    master := v.getLsbD 0, clockPort := (v.extractLsb' 1 3).toFin, clockSub := (v.extractLsb' 4 1).toFin })

def execSysRoleWrite (q : PciePort) (value : U32) (s : State) : Out := .next (f0WriteBooted q (writeRole value) s)

end Sys2Proof.Machine
end

