-- ==== Sys2Proof/Machine/Registers.lean ====
section
/-! DEFINITION. Register writes (R7 to R9) over the register maps of the chapters, and the latched writes that take effect at
step 9 of the boundary (R235, R240, R241, R310, R363). -/

namespace Sys2Proof.Machine

/-! ### Parts of wide registers -/

/-- A 64-bit register whose bytes 0 to 7 are the first of a byte string. -/
def swap64 (v : U64) : U64 := BitVec.ofNat 64 (beNat (leBytes 8 v.toNat))

/-- Register word `i` of an address whose first byte is most significant. -/
def word128 (x : U128) (i : Nat) : U64 := swap64 (x.extractLsb' (64 * (1 - i)) 64)
def setWord128 (x : U128) (i : Nat) (v : U64) : U128 :=
  if i = 0 then swap64 v ++ x.extractLsb' 0 64 else x.extractLsb' 64 64 ++ swap64 v

/-- Register word `i` of a digest. -/
def word256 (x : U256) (i : Nat) : U64 := BitVec.ofNat 64 (fieldLE (Crypto.bytes256 x) (8 * i) 8)
def setWord256 (x : U256) (i : Nat) (v : U64) : U256 :=
  Crypto.of256 ((Crypto.bytes256 x).take (8 * i) ++ leBytes 8 v.toNat ++ (Crypto.bytes256 x).drop (8 * i + 8))

/-- One half of a 64-bit register replaced (R9). (DEDUCED, log entry 85) -/
def splice (old : U64) (high : Bool) (v : U32) : U64 :=
  if high then v ++ old.extractLsb' 0 32 else old.extractLsb' 32 32 ++ v

/-- A 64-bit register: the value its halves keep, and what a write does. -/
abbrev Reg64 := U64 × (U64 → State → State)

def noWrite : State → State := id

/-! ### The host-interface set (R370) -/

/-- BASE and SIZE writes are discarded while ENABLED is set (R354). -/
def ringReg (fn : Fn) (f : HifSet → HifSet) : State → State :=
  hifWrite fn fun s => if (s.hif fn).enabled then s else s.onHif fn f

def hif64 (s : State) (fn : Fn) (off : Nat) : Option Reg64 :=
  let h := s.hif fn
  match off with
  | 0x000 => some (h.cmdqBase, fun v => ringReg fn fun h => { h with cmdqBase := v })
  | 0x010 => some (h.cplqBase, fun v => ringReg fn fun h => { h with cplqBase := v })
  | 0x020 => some (h.evqBase, fun v => ringReg fn fun h => { h with evqBase := v })
  | 0x030 => some (h.fltqBase, fun v => ringReg fn fun h => if isPart fn then { h with fltqBase := v } else h)
  | 0x040 => some (h.idxBase, fun v => ringReg fn fun h => { h with idxBase := v })
  | _ => none

def hif32 (fn : Fn) (off : Nat) (v : U32) : State → State :=
  match off with
  | 0x008 => ringReg fn fun h => { h with cmdqSize := v &&& 0x1F }
  | 0x00C => hifWrite fn (writeCmdqDb fn v)
  | 0x018 => ringReg fn fun h => { h with cplqSize := v &&& 0x1F }
  | 0x01C => hifWrite fn (writeCplqHead fn v)
  | 0x028 => ringReg fn fun h => { h with evqSize := v &&& 0x1F }
  | 0x02C => hifWrite fn (writeEvqHead fn v)
  | 0x038 => ringReg fn fun h => if isPart fn then { h with fltqSize := v &&& 0x1F } else h
  | 0x03C => hifWrite fn (writeFltqHead fn v)
  | 0x048 => hifWrite fn (writeHifCtrl fn (v.getLsbD 0))
  | _ => noWrite

/-! ### A partition's registers (R350, R371, R372, R214, R249, R271, R310) -/

/-- R241: a write of PRT_RXT_RECV_CTRL. -/
def writeRecvCtrl (p : Part) (v : U32) : State → State :=
  State.onRx p fun r =>
    if !v.getLsbD 0 && !v.getLsbD 1 then r
    else match r.recvPending with
      | some _ => { r with recvLast := .busy }
      | none => { r with recvPending := some ⟨v &&& 7, r.recvPos, r.recvTag, r.recvMask, r.recvVA, r.recvLen⟩ }

def execRecvPost (p : Part) (ctrl : U32) (s : State) : Out := .next (partWrite p (writeRecvCtrl p ctrl) s)
def execRecvRemove (p : Part) (ctrl : U32) (s : State) : Out := .next (partWrite p (writeRecvCtrl p ctrl) s)

/-- R240: bit 0 of PRT_RXT_UNEXP_FLUSH. -/
def writeFlush (p : Part) (v : U32) : State → State :=
  State.onRx p fun r => { r with flushReq := r.flushReq || v.getLsbD 0 }

def execUnexpFlush (p : Part) (value : U32) (s : State) : Out := .next (partWrite p (writeFlush p value) s)

/-- R235. -/
def writeAccessKey (p : Part) (v : U64) : State → State := State.onRx p fun r => { r with keyPending := some v }

def execAccessKeyWrite (p : Part) (key : U64) (s : State) : Out := .next (partWrite p (writeAccessKey p key) s)

/-- Log registers are written only while unbound with every context FREE (R271). -/
def logWrite (p : Part) (f : TwinState → TwinState) (s : State) : State :=
  if (s.part p).twin.phase == .unbound && (s.part p).allFree then State.onTwin p f s else s

/-- The log's ring starts anew: no record is kept. (DEDUCED, log entry 137) -/
def TwinState.emptyLog (w : TwinState) : TwinState := { w with logUsed := 0, logOff := 0, logTail := w.logHead, records := [] }

/-- R266: a write of PRT_LOG_VA resumes a log that stopped. (DEDUCED, log entry 137) -/
def writeLogVA (p : Part) (v : U64) : State → State := logWrite p fun w => { w.emptyLog with logVA := v, logStopped := false }

/-- (DEDUCED, log entry 137) -/
def writeLogBytes (p : Part) (v : U64) : State → State :=
  logWrite p fun w => if v.toNat % 65536 = 0 then { w.emptyLog with logBytes := v } else w

def execLogVaWrite (p : Part) (value : U64) (s : State) : Out := .next (partWrite p (writeLogVA p value) s)

/-- Word `i` of PRT_PEER_ALLOW as its halves keep it: the write that waits, else the register. -/
def peerWord (x : PartState) (i : Nat) : U64 :=
  match x.peerPending.reverse.find? fun e => e.1 == i with
  | some e => e.2
  | none => word256 (tget x.peerAllow (i / 4) 0) (i % 4)

def part64 (s : State) (p : Part) (off : Nat) : Option Reg64 :=
  let x := s.part p
  let rx (f : U64 → PartRxt → PartRxt) : U64 → State → State := fun v => partWrite p (State.onRx p (f v))
  if off < 0x60 then hif64 s (.part p) off
  else if 0x100 ≤ off ∧ off < 0x180 then
    let r : Fin 4 := Fin.ofNat 4 ((off - 0x100) / 0x20)
    if off % 0x20 = 0 then
      some ((x.ingest[r]).va, fun v => partWrite p (State.onPart p fun x => { x with ingest := vupd x.ingest r fun i =>
        if i.enabled then i else { i with va := v } }))
    else none
  else if 0xB000 ≤ off ∧ off < 0xB800 then
    let i := (off - 0xB000) / 8
    if off % 8 = 0 then
      some (peerWord x i, fun v => partWrite p (State.onPart p fun x => { x with peerPending := x.peerPending ++ [(i, v)] }))
    else none
  else match off with
  | 0x0090 => some (x.bar2Pending.getD x.bar2Base,
      fun v => partWrite p (State.onPart p fun x => { x with bar2Pending := some (v &&& 0xF000000000) }))
  | 0x2008 => some (x.mem.mapVA, fun v => partWrite p (State.onMem p fun m => { m with mapVA := v }))
  | 0x2010 => some (x.mem.mapEntry, fun v => partWrite p (State.onMem p fun m => { m with mapEntry := v }))
  | 0x9000 => some (x.rxt.keyPending.getD x.rxt.accessKey, fun v => partWrite p (writeAccessKey p v))
  | 0x9048 => some (x.rxt.recvTag, rx fun v r => { r with recvTag := v })
  | 0x9050 => some (x.rxt.recvMask, rx fun v r => { r with recvMask := v })
  | 0x9058 => some (x.rxt.recvVA, rx fun v r => { r with recvVA := v })
  | 0xA030 => some (x.twin.logVA, fun v => partWrite p (writeLogVA p v))
  | 0xA038 => some (x.twin.logBytes, fun v => partWrite p (writeLogBytes p v))
  | _ => none

def part32 (p : Part) (off : Nat) (v : U32) : State → State :=
  if off < 0x60 then hif32 (.part p) off v
  else if 0x100 ≤ off ∧ off < 0x180 then
    let r : Fin 4 := Fin.ofNat 4 ((off - 0x100) / 0x20)
    match off % 0x20 with
    | 0x08 => partWrite p (writeIngCfg p r v)
    | 0x0C => partWrite p (writeIngDb p r v)
    | _ => noWrite
  else match off with
  | 0x2018 => partWrite p (writeMapCtrl p v)
  | 0x901C => partWrite p (writeFlush p v)
  | 0x9040 => partWrite p (State.onRx p fun r => { r with recvPos := v &&& 0xFFFF })
  | 0x9060 => partWrite p (State.onRx p fun r => { r with recvLen := v })
  | 0x9064 => partWrite p (writeRecvCtrl p v)
  | _ => noWrite

/-! ### Recel ports and the transport (R247, R248) -/

/-- A user connection that is not FREE holds CTX_BASE and CTX_COUNT (R229). -/
def userConns (s : State) : Bool := s.rxt.conns.any fun c => !c.2.fabric && c.2.state != .free

def writeCtxBase (v : U64) (s : State) : State :=
  if v.toNat % 4096 = 0 ∧ !userConns s then s.onRxt fun r => { r with ctxBase := v } else s

def writeCtxCount (v : U32) (s : State) : State :=
  if v.toNat % 4096 = 0 ∧ v.toNat ≤ 4194304 ∧ !userConns s then s.onRxt fun r => { r with ctxCount := v.toNat } else s

/-- MD outside 1 to 255 is discarded; AI is applied. (DEDUCED, log entry 86) -/
def writeCcParams (v : U32) : State → State :=
  State.onRxt fun r => { r with ccParams :=
    (v &&& 0x00FFFF00) ||| (if v &&& 0xFF = 0 then r.ccParams &&& 0xFF else v &&& 0xFF) }

/-- The device-wide registers, at 0xC000 of port 0's block. -/
def rxtWide32 (off : Nat) (v : U32) : State → State :=
  match off with
  | 0xC008 => writeCtxCount v
  | 0xC010 => writeCcParams v
  | 0xC014 => State.onRxt fun r => { r with ccRate := v }
  | 0xC018 => State.onRxt fun r => { r with ccMark := v &&& 0xFFFF }
  | 0xC01C => State.onRxt fun r => { r with retry := v &&& 0xFF0FFFFF }
  | 0xC020 => State.onRxt fun r => { r with ack := v &&& 0xFFFF }
  | 0xC024 => State.onRxt fun r => { r with unexpAge := v.toNat }
  | _ => noWrite

/-- Sub-port registers; `o` is the offset within S. -/
def sub64 (s : State) (r : RPort) (b : SubPort) (o : Nat) : Option Reg64 :=
  let x := s.sub r b
  let hash (i : Nat) : Option Reg64 :=
    some (word256 x.peerHash i, fun v => State.onSub r b fun x => { x with peerHash := setWord256 x.peerHash i v })
  match o with
  | 0x008 => some (x.mac.setWidth 64, fun v => State.onSub r b fun x => { x with mac := v.setWidth 48 })
  | 0x010 => some (x.nexthop.setWidth 64, fun v => State.onSub r b fun x => { x with nexthop := v.setWidth 48 })
  | 0x020 => some (word128 x.ipv6 0, fun v => State.onSub r b fun x => { x with ipv6 := setWord128 x.ipv6 0 v })
  | 0x028 => some (word128 x.ipv6 1, fun v => State.onSub r b fun x => { x with ipv6 := setWord128 x.ipv6 1 v })
  | 0x040 => hash 0
  | 0x048 => hash 1
  | 0x050 => hash 2
  | 0x058 => hash 3
  | _ => none

/-- (DEDUCED, log entry 86) -/
def sub32 (r : RPort) (b : SubPort) (o : Nat) (v : U32) : State → State :=
  match o with
  | 0x000 => if b = 0 then writePortMode r v else noWrite
  | 0x018 => State.onSub r b fun x => { x with ipv4 := v }
  | 0x030 => State.onSub r b fun x => { x with udp := v &&& 0x3F3FFFFF }
  | 0x034 => State.onSub r b fun x => if inRange 1500 9216 v.toNat then { x with mtu := v.toNat } else x
  | 0x060 => State.onSub r b fun x => if inRange 60 604800 v.toNat then { x with rekey := v.toNat } else x
  | _ => noWrite

/-! ### Function 0 (R350, R369) -/

/-- R302: a write of KEY_MBX_CMD; a code outside the table is refused. A burn or a flash write that fails is the command's own
row. (DEDUCED, log entry 72; DEDUCED, log entry 191) -/
def writeMbxCmd (q : PciePort) (v : U32) (s : State) : State :=
  let n := (v.extractLsb' 16 13).toNat
  let o : Out := match (v.extractLsb' 0 8).toNat with
    | 0x01 => execLcFactory q ⟨n, true⟩ s
    | 0x02 => execEnroll q ⟨n, true⟩ s
    | 0x03 => execLcAdvance q ⟨n, true⟩ s
    | 0x04 => execDebugUnlock q n s
    | 0x05 => execCertWrite q n s
    | 0x06 => execSlotInfo q n s
    | 0x07 => execImageChunk q n s
    | 0x08 => execImageRun q n s
    | 0x09 => execFwWrite q ⟨n, true⟩ s
    | 0x0A => execSvnCommit q n s
    | _ => .next (mailbox q n false (fun _ => mbxDone .invalidCommand []) s)
  match o with
  | .next t => t
  | _ => s

/-- Bytes into the mailbox's data window. -/
def writeMbxData (at_ : Nat) (b : Bytes) : State → State :=
  State.onKey fun k => { k with mbxData := (b.foldl (fun (a : Tbl Byte × Nat) x => (tput a.1 a.2 x, a.2 + 1)) (k.mbxData, at_)).1 }

/-- A write to the PWR block is a wake event (R339). -/
def pwrReg (f : PwrState → PwrState) (s : State) : State := wake (s.onPwr f)

/-- (DEDUCED, log entry 86) -/
def pwr32 (o : Nat) (v : U32) : State → State :=
  if 0x010 ≤ o ∧ o < 0x030 then writeCapped (Fin.ofNat 8 ((o - 0x010) / 4)) v
  else match o with
  | 0x004 => writeStateReq v
  | 0x00C => writeSoftStart v
  | 0x09C => pwrReg fun w => { w with coolantI3c := v &&& 0x7F }
  | 0x0A4 => pwrReg fun w => { w with flowMin := v.toNat % 256 }
  | 0x0A8 => pwrReg fun w => if inRange 240 380 (v.toNat % 1024) then { w with thermTarget := v.toNat % 1024 } else w
  | 0x0B0 => pwrReg fun w => { w with model0 := v }
  | 0x0B4 => pwrReg fun w => { w with model1 := v }
  | 0x0B8 => pwrReg fun w => if inRange 10 300 v.toNat then { w with horizon := v.toNat } else w
  | _ => wake

def sys32 (o : Nat) (v : U32) : State → State :=
  match o with
  | 0x000 => writeMember v
  | 0x004 => writeRole v
  | 0x018 => State.onSys fun y => { y with chirpPorts := v.setWidth 16 }
  | 0x100 => writeBeatPeriod v
  | 0x110 => State.onSys fun y => { y with periodRefused := y.periodRefused && !v.getLsbD 2 }
  | _ => noWrite

def mem32 (o : Nat) (v : U32) : State → State :=
  match o with
  | 0x00 => State.onStore fun m => { m with weevilCtrl := v.setWidth 2 }
  | 0x04 => State.onStore fun m => if inRange 60 86400 v.toNat then { m with sramPeriodNext := v.toNat } else m
  | 0x08 => State.onStore fun m => if inRange 14400 604800 v.toNat then { m with dramPeriodNext := v.toNat } else m
  | 0x0C => State.onStore fun m => if inRange 1 65535 v.toNat then { m with sramCeLimit := v.toNat } else m
  | 0x10 => State.onStore fun m => if inRange 1 255 v.toNat then { m with dramRowCeLimit := v.toNat } else m
  | _ => noWrite

/-- 64-bit registers of function 0. Half of RNG_INJECT gives 32 samples; the other 32 are not stated. -/
def f064 (s : State) (q : PciePort) (off : Nat) : Option Reg64 :=
  let booted64 (r : Option Reg64) : Option Reg64 := r.map fun x => (x.1, fun v => f0WriteBooted q (x.2 v))
  if 0x1000 ≤ off ∧ off < 0x1060 then hif64 s (.f0 q) (off - 0x1000)
  else if 0x41000 ≤ off ∧ off < 0x42000 then
    let at_ := off - 0x41000
    if off % 8 = 0 then
      some (BitVec.ofNat 64 (leNat ((List.range 8).map fun i => tget s.key.mbxData (at_ + i) 0)),
        fun v => f0Write q (writeMbxData at_ (leBytes 8 v.toNat)))
    else none
  else if 0x200000 ≤ off ∧ off < 0x280000 then
    let r : RPort := Fin.ofNat 8 ((off - 0x200000) / 0x10000)
    let o := off % 0x10000
    if o < 0x8000 then booted64 (sub64 s r (Fin.ofNat 2 (o / 0x4000)) (o % 0x4000))
    else if r = 0 ∧ o = 0xC000 then booted64 (some (s.rxt.ctxBase, writeCtxBase))
    else none
  else if 0x100200 ≤ off ∧ off < 0x100300 then
    let i : Fin 16 := Fin.ofNat 16 ((off - 0x100200) / 16)
    let w := off % 16 / 8
    if off % 8 = 0 then
      booted64 (some (word128 s.sys.peerIp[i] w,
        fun v => State.onSys fun y => { y with peerIp := vupd y.peerIp i fun x => setWord128 x w v }))
    else none
  else match off with
  | 0x30040 => some (BitVec.ofNat 64 (Config.openField 13), fun v => f0Write q (writeRngInject v))
  | 0x40040 => some (BitVec.ofNat 64 s.key.vbat.calTime, fun v => f0Write q (writeCalTime v))
  | 0x50020 => some (BitVec.ofNat 64 (s.evr.ports[q]).cursor, fun v => f0Write q fun s =>
      s.onEvr fun e => { e with ports := vupd e.ports q fun x => { x with cursor := v.toNat } })
  | 0x100028 => booted64 (some (word128 s.sys.upstreamIp 0,
      fun v => State.onSys fun y => { y with upstreamIp := setWord128 y.upstreamIp 0 v }))
  | 0x100030 => booted64 (some (word128 s.sys.upstreamIp 1,
      fun v => State.onSys fun y => { y with upstreamIp := setWord128 y.upstreamIp 1 v }))
  | _ => none

def f032 (q : PciePort) (off : Nat) (v : U32) : State → State :=
  if 0x1000 ≤ off ∧ off < 0x1060 then hif32 (.f0 q) (off - 0x1000) v
  else if 0x20000 ≤ off ∧ off < 0x30000 then f0Write q (pwr32 (off - 0x20000) v)
  else if 0x100000 ≤ off ∧ off < 0x200000 then f0WriteBooted q (sys32 (off - 0x100000) v)
  else if 0x200000 ≤ off ∧ off < 0x280000 then
    let r : RPort := Fin.ofNat 8 ((off - 0x200000) / 0x10000)
    let o := off % 0x10000
    if o < 0x8000 then f0WriteBooted q (sub32 r (Fin.ofNat 2 (o / 0x4000)) (o % 0x4000) v)
    else if r = 0 then f0WriteBooted q (rxtWide32 o v) else noWrite
  else if 0x400000 ≤ off ∧ off < 0x500000 then f0WriteBooted q (mem32 (off - 0x400000) v)
  else match off with
  | 0x0000C => fun s => if barOpen s (.f0 q) then writeClaim q v s else s
  | 0x10000 => f0Write q (writeClkCtrl v)
  | 0x30038 => f0Write q (writeRngTest v)
  | 0x40070 => writeMbxCmd q v
  | 0x50000 => f0Write q (State.onEvr fun e => { e with compat := v.getLsbD 0 })
  | _ => noWrite

/-! ### REGISTER_WRITE (R7 to R9) -/

def reg64 (s : State) (fn : Fn) (off : Nat) : Option Reg64 := match fn with
  | .f0 q => f064 s q off
  | .part p => part64 s p off

def reg32 (fn : Fn) (off : Nat) (v : U32) : State → State := match fn with
  | .f0 q => f032 q off v
  | .part p => part32 p off v

/-- A 32-bit access: to a 32-bit register, or to one half of a 64-bit one. (DEDUCED, log entry 85) -/
def write32 (fn : Fn) (off : Nat) (v : U32) (s : State) : State :=
  match reg64 s fn (off / 8 * 8) with
  | some r => r.2 (splice r.1 (off % 8 == 4) v) s
  | none => reg32 fn off v s

/-- A 64-bit access: to a 64-bit register, or to the two 32-bit registers it covers. (DEDUCED, log entry 85) -/
def write64 (fn : Fn) (off : Nat) (v : U64) (s : State) : State :=
  match reg64 s fn off with
  | some r => r.2 v s
  | none => write32 fn (off + 4) (v.extractLsb' 32 32) (write32 fn off (v.extractLsb' 0 32) s)

/-- R7 to R9: a write to a register of BAR0; a misaligned one is discarded and counted. (DEDUCED, log entry 85) -/
def execRegisterWrite (fn : Fn) (offset : Nat) (wide : Bool) (value : U64) (s : State) : Out :=
  .next (if offset % (if wide then 8 else 4) ≠ 0 then (if barOpen s fn then badAccess fn s else s)
    else if wide then write64 fn offset value s
    else write32 fn offset (value.setWidth 32) s)

/-! ### Latched writes at step 9 of the boundary -/

/-- R241: the judgement of a latched receive edit. (DEDUCED, log entry 87) -/
def recvJudge (e : RecvEdit) : Status :=
  if e.ctrl.getLsbD 0 && e.ctrl.getLsbD 1 then .invalidCommand
  else if e.pos.toNat < 4 || e.len == 0 || e.len.toNat % 64 != 0 then .invalidCommand
  else .ok

/-- (DEDUCED, log entry 87) -/
def recvBoundary (r : PartRxt) : PartRxt := match r.recvPending with
  | none => r
  | some e =>
    let r := { r with recvPending := none, recvLast := recvJudge e }
    match recvJudge e with
    | .ok =>
      if e.ctrl.getLsbD 0 then { r with receive := tput r.receive e.pos.toNat ⟨e.tag, e.mask, e.va.toNat, e.len.toNat, e.ctrl.getLsbD 2⟩ }
      else { r with receive := tdel r.receive e.pos.toNat }
    | _ => r

/-- R240: every unexpected message is discarded, those still arriving too. (DEDUCED, log entry 87) -/
def flushBoundary (p : Part) (s : State) : State :=
  if !(s.part p).rxt.flushReq then s
  else
    State.onConns (fun _ c => if c.part = p then c.dropUnexpected (fun _ => true) else c)
      (State.onRx p (fun r => { r with flushReq := false, unexp := [] }) s)

/-- R235, R310, R363: the access key, the allow list and the BAR2 window change. -/
def PartState.latched (x : PartState) : PartState :=
  { x with bar2Base := x.bar2Pending.getD x.bar2Base, bar2Pending := none,
           rxt := { x.rxt with accessKey := x.rxt.keyPending.getD x.rxt.accessKey, keyPending := none },
           peerAllow := x.peerPending.foldl (fun t (i, v) => tupd t (i / 4) 0 fun e => setWord256 e (i % 4) v) x.peerAllow,
           peerPending := [] }

/-- Every latched register write of a partition takes effect. -/
def latchBoundary (p : Part) (s : State) : State :=
  mapBoundary p (ingBoundary p (flushBoundary p (State.onRx p recvBoundary (State.onPart p PartState.latched s))))

end Sys2Proof.Machine
end

