-- ==== Sys2Proof/Machine/Twin.lean ====
section
/-! DEFINITION. Twins and replay (R257 to R269, R361): binding, ORDER and forwarding, the comparison of fingerprints, noise and
release agreement, checkpoints and their agreement, divergence, re-enactment and field replay. -/

/-- The checkpoint that the bytes of a transfer on TWIN_CONN stand for, with the log that follows it taken in: the manual
describes no frame of the transfer (R258). (DESIGN CHOICE, log entry 135) -/
opaque Sys2Proof.Config.sentCheckpoint : Sys2Proof.Bytes → Sys2Proof.Machine.Checkpoint

namespace Sys2Proof.Machine

/-! ### Events and states -/

/-- States of PRT_TWIN_STATE (R271). -/
def TwinPhase.code : TwinPhase → Nat
  | .unbound => 0 | .binding => 1 | .bound => 2 | .alone => 3 | .replaying => 4 | .diverged => 5

def postTwin (p : Part) (st : Status) (sev : Severity) (kind value : Nat) (s : State) : State :=
  postBoth p .twin st sev (p.val ||| (s.part p).twin.peerMember <<< 3) (detail kind value) s

def State.twin (s : State) (p : Part) : TwinState := (s.part p).twin

/-! ### What a checkpoint holds (R264) -/

/-- The partition's own memory: a key that no swap or migration changes, the key it has now, and its length. -/
def extents (s : State) (p : Part) : List (Nat × Nat × Nat) :=
  let m := (s.part p).mem
  let slices := (s.diesOf p).flatMap fun d => (List.finRange 32).filterMap fun c =>
    (s.physOf d c).map fun ph => ((d.val * 32 + c.val) * 2 ^ 25, sramKey d.val ph 0, 2 ^ 25)
  let pages (t : Tbl U64) (size : Nat) : List (Nat × Nat × Nat) := t.filterMap fun (n, e) =>
    if leafType e = 2 ∧ leafBacking e = 1 then some (2 ^ 40 + n * size, dramKey (leafSite e) (leafFrame e * 2 ^ 16), size) else none
  slices ++ pages m.leaves (2 ^ 16) ++ pages m.largeLeaves (2 ^ 25)

/-- The lasting key of a key, and the key of a lasting key. (DESIGN CHOICE, log entry 123) -/
def toLasting (l : List (Nat × Nat × Nat)) (k : Nat) : Option Nat :=
  l.findSome? fun e => if e.2.1 ≤ k ∧ k < e.2.1 + e.2.2 then some (k - e.2.1 + e.1) else none
/-- (DESIGN CHOICE, log entry 123) -/
def ofLasting (l : List (Nat × Nat × Nat)) (k : Nat) : Option Nat :=
  l.findSome? fun e => if e.1 ≤ k ∧ k < e.1 + e.2.2 then some (k - e.1 + e.2.1) else none

/-- The units of the partition's dies. -/
def unitsOf (s : State) (p : Part) : Tbl UnitState := s.units.filter fun u => (s.diesOf p).any fun d => d.val == u.1 / 256

/-- Each unit's context goes into the running job's save area. -/
def saveJob (p : Part) (s : State) : State :=
  forAll (clustersOf s p) (fun (_, d, c) => forAll (List.finRange 8) (saveUnit p d c)) s

/-- The committed state at the boundary that ended `beat`. -/
def snapshot (s : State) (p : Part) (beat : Nat) : Checkpoint :=
  let t := forAll (s.diesOf p) abortDie s
  let l := extents t p
  let x := t.part p
  { beat := beat, delay := x.delay, fp := x.twin.fp,
    bytes := t.mem.cells.filterMap fun c => (toLasting l c.1).map fun k => (k, c.2),
    poison := (t.mem.poison ++ t.mem.bad).filterMap fun n => (toLasting l (n * 64)).map (· / 64),
    ctxs := x.ctxs.toList, jobs := x.img.jobs.toList, units := (unitsOf t p).map fun u => (u.1, u.2.base),
    committed := x.committed, bulk := x.twin.bulk, curJob := x.img.curJob, measure := x.img.measure }

/-- Bytes of one checkpoint: the mapped pages, the save and work areas, and the controller state. (DESIGN CHOICE, log entry 22) -/
def ckptSize (s : State) (p : Part) : Nat :=
  let m := (s.part p).mem
  let pages := (m.leaves.filter fun x => leafType x.2 == 2 && leafBacking x.2 != 2).length + 512 * m.largeLeaves.length
  pages * 2 ^ 16 + (s.diesOf p).length * 32 * (2 ^ 19 + 2 ^ 21) + Config.ckptState.toNat

/-! ### Restoring (R267, R268) -/

/-- Keys a range of partition addresses has: first key and length of each piece. -/
def rangeKeys (s : State) (p : Part) (r : Nat × Nat) : List (Nat × Nat) :=
  (pageSplit r.1 r.2).filterMap fun (a, n) => match s.leafAt p a with
    | some e => if leafType e = 2 then (s.leafKey p e a).map fun k => (k, n) else none
    | none => none

def inKeys (l : List (Nat × Nat)) (k : Nat) : Bool := l.any fun r => decide (r.1 ≤ k ∧ k < r.1 + r.2)

/-- The staging slots of messages that no stamp has named yet: they are not the log's. (DEDUCED, log entry 125) -/
def liveSlots (x : PartState) (k : Ctx) : List Nat :=
  let gone := (x.stamps.filter (·.ctx == k)).map (·.msgVA) ++ (x.committed.filter (·.ctx == k)).map (·.msgVA)
    ++ ((x.ctxs[k]).shared.index.filter (·.2.staged)).map (·.2.stageVA)
  (tget x.rxt.poolSlots k.val []).filter fun a => !gone.contains a

def slotSize (s : State) (p : Part) (k : Ctx) : Nat := (s.ctx p k).policy.largestMsg (s.imageOf p).rings

/-- What is not restored: result slots, ingest rings, and the staging of messages not yet named. (DEDUCED, log entry 125) -/
def keptRanges (s : State) (p : Part) : List (Nat × Nat) :=
  let x := s.part p
  let slots := x.ctxs.toList.filterMap fun c => if c.phase = .free then none else some (c.slotVA, c.slotBytes)
  let rings := x.ingest.toList.filterMap fun i => if i.enabled then some (i.va.toNat, i.bytes) else none
  let live := (List.finRange 4).flatMap fun k => (liveSlots x k).map fun a => (a, slotSize s p k)
  (slots ++ rings ++ live).flatMap (rangeKeys s p)

/-- The messages a checkpoint still needs, wherever they lie. -/
def neededRanges (s : State) (p : Part) (c : Checkpoint) : List (Nat × Nat) :=
  ((c.committed.map fun m => (m.msgVA, ((c.ctxs.getD m.ctx.val {}).policy.largestMsg (s.imageOf p).rings)))
    ++ (c.ctxs.flatMap fun x => (x.shared.index.filter (·.2.staged)).map fun r => (r.2.stageVA, r.2.stageLen))).flatMap (rangeKeys s p)

/-- Memory as the checkpoint holds it. -/
def restoreMemory (p : Part) (c : Checkpoint) (s : State) : State :=
  let l := extents s p
  let kept := keptRanges s p
  let needed := neededRanges s p c
  let keep (k : Nat) : Bool := inKeys kept k && !inKeys needed k
  let new := c.bytes.filterMap fun b => (ofLasting l b.1).map fun k => (k, b.2)
  let lines := c.poison.filterMap fun n => (ofLasting l (n * 64)).map (· / 64)
  s.onStore fun m => { m with
    cells := (new.filter fun b => !keep b.1).foldl (fun t b => cellPut t b.1 b.2)
      (m.cells.filter fun b => (toLasting l b.1).isNone || keep b.1)
    poison := (lines.filter fun n => !keep (n * 64)).foldl insertSet
      (m.poison.filter fun n => (toLasting l (n * 64)).isNone || keep (n * 64)) }

/-- A context of a checkpoint: what its staged shares occupied is the device's now. -/
def RoundCtx.restored (c : RoundCtx) : RoundCtx :=
  { c with shared := { c.shared with index := c.shared.index.map fun r => (r.1, { r.2 with source := .forwarded }) } }

/-- The staging slots of a context after a restore. -/
def restoredSlots (x : PartState) (c : Checkpoint) (k : Ctx) : List Nat :=
  liveSlots x k ++ (c.committed.filter (·.ctx == k)).map (·.msgVA)
    ++ ((c.ctxs.getD k.val {}).shared.index.filter (·.2.staged)).map (·.2.stageVA)

/-- The ring entries of stamped messages: the log holds the messages, so they are free. -/
def freeStamped (p : Part) (s : State) : State :=
  let x := s.part p
  let src := x.stamps.map (·.source) ++ x.committed.map (·.source)
    ++ x.ctxs.toList.flatMap fun c => (c.shared.index.filter (·.2.staged)).map (·.2.source)
  forAll (src.filterMap fun
    | .ring r i => some (r, i)
    | _ => none) (fun (r, i) => freeEntry p r i) s

/-- The committed state of a checkpoint; the ledger and the slots stay as they are. (DEDUCED, log entry 125) -/
def restore (p : Part) (c : Checkpoint) (s : State) : State :=
  let s := freeStamped p (restoreMemory p c (stopClusters p s))
  let x := s.part p
  let s := { s with units := c.units.foldl (fun t u => tput t u.1 { work := u.2, base := u.2 }) s.units }
  State.onPart p (fun y => { y with
    ctxs := vall y.ctxs fun k z => ((c.ctxs[k.val]?).map RoundCtx.restored).getD z
    stamps := [], admittedNow := [], committed := c.committed.map fun m => { m with source := .forwarded }
    img := { y.img with curJob := c.curJob, jobs := vall y.img.jobs fun j z => (c.jobs[j.val]?).getD z,
                        switching := false, switchTo := none, switchArmed := false }
    rxt := { y.rxt with poolSlots := (List.finRange 4).map fun k => (k.val, restoredSlots x c k) }
    twin := { y.twin with fp := c.fp, bulk := c.bulk, ownFps := [], peerFps := [], ckptPoint := none } }) s

/-! ### Re-enactment (R267 to R269) -/

/-- The log that re-enactment reads. -/
def TwinState.log (w : TwinState) : List LogRec := if w.replayStatus = 1 then w.replayLog else w.records

/-- Tag and opcode of a command's entry. -/
def entryHead (b : Bytes) : U32 × U8 := (BitVec.ofNat 32 (fieldLE b 4 4), b.getD 0 0)

/-- The head of a round command. -/
def roundHead : Instr → Option Cmd
  | .roundOpen c _ _ _ _ => some c
  | .roundClose c _ => some c
  | .roundUnmask c _ _ _ => some c
  | .roundFinalize c _ => some c
  | .roundAbort c _ => some c
  | .resultAck c _ => some c
  | _ => none

/-- A round command executed in re-enactment. (DEDUCED, log entry 126) -/
def reenact (i : Instr) (s : State) : State :=
  match i with
  | .roundOpen c a b n o => partCommand c 0x10 true (openRound c a b n o) s
  | .roundClose c r => partCommand c 0x11 true (closeRound c r) s
  | .roundUnmask c r va n => partCommand c 0x12 (inRange 1 65536 n.toNat) (unmaskRound c r va n.toNat) s
  | .roundFinalize c r => partCommand c 0x13 true (finalizeRound c r) s
  | .roundAbort c r => partCommand c 0x14 true (abortCommand c r) s
  | .resultAck c r => partCommand c 0x15 true (ackCommand c r) s
  | _ => s

/-- Commands that are still owed a completion; the others complete no more. (DEDUCED, log entry 126) -/
def muteOthers (p : Part) (l : List (U32 × U8)) : State → State :=
  State.onPart p fun x => { x with twin := { x.twin with
    mute := x.twin.mute ++ if x.twin.replayStatus = 1 then l else l.filter fun e => !x.fetched.contains e } }

/-- A COMMAND record: the entry, and the operand bytes the device read. -/
def replayCommand (p : Part) (r : LogRec) (s : State) : State :=
  match decodeEntry (.part p) (r.body.take 64) with
  | none => s
  | some i =>
    if (roundHead i).isNone then s
    else
      let s := State.onTwin p (fun w => { w with operand := some (r.body.drop 64) }) (muteOthers p [entryHead r.body] s)
      State.onTwin p (fun w => { w with operand := none }) (reenact i s)

/-- The commands of the boundary that ended beat `n`: those of the log, and those that came while the pair replays.
(DEDUCED, log entry 126) -/
def replayCommands (p : Part) (n : Nat) (s : State) : State :=
  let w := s.twin p
  let late := (w.deferred.filter (·.1 == n)).map (·.2)
  let came (r : LogRec) : Bool := late.any fun i => (roundHead i).map (·.tag) == some (entryHead r.body).1
  let recs := if n ≤ w.replayStop then w.log.filter fun r => r.kind == 2 && r.beat == n && !came r else []
  let s := State.onTwin p (fun w => { w with deferred := w.deferred.filter (·.1 != n) }) s
  forAll late reenact (forAll recs (replayCommand p) s)

/-- The context of a logged contribution, and the tag it came with. -/
def contribCtx (s : State) (p : Part) (b : Bytes) : Option (Ctx × U64) :=
  (List.finRange 4).findSome? fun k =>
    let q := (s.ctx p k).policy
    let tag := tagOf q.tagKind (fieldLE b 0 4) q.stretchId q.roundId
    if (s.ctx p k).phase != .free && messageOk s p k tag b.length b then some (k, tag) else none

/-- A CONTRIB record: the message is placed in staging again, and stamped as it was. -/
def replayContrib (p : Part) (r : LogRec) (s : State) : State :=
  match contribCtx s p r.body with
  | none => s
  | some (k, tag) => match freeStage s p k with
    | none => s
    | some va =>
      let q := (s.ctx p k).policy
      let t : Stamp := {
        seq := r.aux, beat := r.beat - (s.part p).delay, ctx := k, contrib := tagContrib tag
        index := if q.mode = .shared then 0 else fieldLE r.body 4 4
        msgVA := va, length := r.body.length
        noise := if q.mode = .encrypted then fieldLE r.body 21 1 else 0
        source := .forwarded }
      let s := deviceWrite p va r.body s
      State.onRx p (fun x => { x with poolSlots := tupd x.poolSlots k.val [] (· ++ [va]) })
        (State.onPart p (fun x => { x with stamps := x.stamps ++ [t] }) s)

/-- A FABRIC record opened under the partition's log key. -/
def openFabric (s : State) (p : Part) (r : LogRec) : Option Bytes :=
  let key := (slotAt s (logSlot p)).value
  let n := r.body.length - 16
  let iv := beBytes 12 r.seq
  if Crypto.gcmTag key iv [] (r.body.take n) = BitVec.ofNat 128 (beNat (r.body.drop n)) then some (Crypto.gcmCrypt key iv (r.body.take n))
  else none

/-- The fabric messages of the log from after the checkpoint up to the last recorded beat. (DEDUCED, log entry 127) -/
def loggedFabric (s : State) (p : Part) (after stop : Nat) : List (Nat × Nat × Bytes) :=
  (s.twin p).log.filterMap fun r =>
    if r.kind = 3 ∧ after < r.beat ∧ r.beat ≤ stop then (openFabric s p r).map fun b => (r.beat, r.aux, b) else none

/-- The kind of the re-enacted beat `n`: that of its BEAT record; a beat not yet over is fallow by the calendar. -/
def replayKind (s : State) (p : Part) (n : Nat) : BeatKind :=
  let w := s.twin p
  match w.log.find? fun r => r.kind == 5 && r.beat == n with
  | some r => BeatKind.ofCode r.aux
  | none => if w.replayStop < n && fallowBeat (s.imageOf p) n then .fallow else .run

/-- The re-enacted beat starts. A recorded switch beat switches. -/
def startReplayBeat (p : Part) (n : Nat) (s : State) : State :=
  let k := replayKind s p n
  let s := if k = .switch then switchJob p (State.onImg p (fun i => { i with switchTo := nextJob s p }) s) else s
  startBeat p k s

/-- Restore, and re-enact from the beat after the checkpoint on. -/
def beginReplay (p : Part) (c : Checkpoint) (stop : Nat) (s : State) : State :=
  let s := restore p c s
  let s := State.onTwin p (fun w => { w with
    replayAt := c.beat + 1, replayStop := stop, replayBeats := 0, mute := [], peerProgress := none }) s
  let s := State.onTwin p (fun w => { w with bulk := w.bulk ++ loggedFabric s p c.beat stop }) s
  let owed := ((openCommands s p).filter fun o => inRange 0x10 0x15 o.2.1).map fun o => (o.1.tag, BitVec.ofNat 8 o.2.1)
  startReplayBeat p (c.beat + 1) (muteOthers p owed s)

/-! ### Divergence (R267) -/

/-- The pair stops comparing, and its rounds are held. (DEDUCED, log entry 128) -/
def secondDivergence (p : Part) (s : State) : State :=
  let s := State.onTwin p (fun w => { w with phase := .diverged }) s
  let s := postTwin p .twinDiverged .error 1 TwinPhase.diverged.code s
  forAll (List.finRange 4) (fun k => holdOutside p k .diverged) s

/-- A divergence that the boundary ending `b` acts on. (DEDUCED, log entry 128) -/
def diverge (p : Part) (b : Nat) (s : State) : State :=
  let s := State.onTwin p (fun w => { w with divergences := sat32 w.divergences }) s
  let s := postTwin p .twinDiverged .error 2 b s
  let w := s.twin p
  match w.ckpt with
  | some c =>
    if !w.agreedSinceReplay || w.logStopped then secondDivergence p s
    else beginReplay p c b (State.onTwin p (fun w => { w with phase := .replaying }) s)
  | none => secondDivergence p s

/-! ### Stamping in a pair (R259) -/

def orderBytes (e : OrderEntry) : Bytes :=
  leBytes 1 e.source.toNat ++ leBytes 3 e.number.toNat ++ leBytes 4 e.item.toNat ++ leBytes 4 e.length.toNat ++ zeroBytes 4

def orderBody (l : List OrderEntry) : Bytes := leBytes 4 l.length ++ zeroBytes 12 ++ l.flatMap orderBytes

/-- The secondary has what an entry names. -/
def hasEntry (w : TwinState) (e : OrderEntry) : Bool := w.seenFabric.contains e || w.held.any fun h => h.entry == e

/-- An entry of ORDER takes effect: the held message is stamped with the stamping beat. -/
def stampEntry (p : Part) (beat : Nat) (e : OrderEntry) (s : State) : State :=
  match (s.twin p).held.find? fun h => h.entry == e with
  | some h =>
    let n := e.length.toNat
    stampNow p h.ctx h.tag beat h.msgVA n (deviceRead s p h.msgVA n) h.source
      (State.onTwin p (fun w => { w with held := w.held.erase h }) s)
  | none => State.onTwin p (fun w => { w with seenFabric := w.seenFabric.erase e }) s

def stampOrder (p : Part) (o : Nat × List OrderEntry) (s : State) : State :=
  forAll o.2 (stampEntry p o.1) (State.onTwin p (fun w => { w with orders := w.orders.erase o }) s)

/-- The boundary that ends beat `b`, on a secondary: complete orders of beat b − D are stamped, and NEED asks for what the
order of beat b − 1 names and is not there. -/
def orderBoundary (p : Part) (b : Nat) (s : State) : State :=
  if !(s.part p).silent then s
  else
    let w := s.twin p
    let due := w.orders.filter fun o => decide (o.1 + w.orderDelay ≤ b) && o.2.all (hasEntry w)
    let ask := w.orders.filter fun o => o.1 + 1 == b && !o.2.all (hasEntry w)
    forAll ask (fun o => twinSend p 3 o.1 (orderBody (o.2.filter fun e => !hasEntry w e))) (forAll due (stampOrder p) s)

/-- A twin message one of whose reserved or zero bytes is set is discarded (R417). (DESIGN CHOICE, log entry 156) -/
def twinMessage (rsv : Bytes) (f : State → State) (s : State) : Out := .next (if rsv.all (· == 0) then f s else s)

/-- R259: ORDER arrives at the secondary. -/
def execTwinOrder (h : TwinHead) (beat : U64) (entries : List OrderEntry) (s : State) : Out :=
  let p := h.part
  twinMessage h.reserved (fun s =>
    when (s.part p).silent (State.onTwin p fun w => { w with orders := w.orders ++ [(beat.toNat, entries)] }) s) s

/-- The payload of a stamped message. -/
def stampedBytes (s : State) (p : Part) (e : OrderEntry) : Option Bytes :=
  ((s.part p).stamps.find? fun t => orderEntry t.source t.length == e).map fun t => deviceRead s p t.msgVA t.length

/-- R259: the primary answers NEED. -/
def execTwinNeed (h : TwinHead) (beat : U64) (entries : List OrderEntry) (s : State) : Out :=
  let p := h.part
  twinMessage h.reserved (fun s =>
    if (s.part p).paired && !(s.part p).silent then
      forAll entries (fun e t => match stampedBytes s p e with
        | some b => twinSend p 4 beat.toNat (orderBytes e ++ b) t
        | none => t) s
    else s) s

/-- A forwarded contribution is placed in a free slot and waits for its ORDER. -/
def holdForwarded (p : Part) (e : OrderEntry) (tag : U64) (b : Bytes) (s : State) : State :=
  if hasEntry (s.twin p) e then s
  else match poolCtx s p tag with
    | none => s
    | some k => match freeStage s p k with
      | none => s
      | some va =>
        let s := deviceWrite p va b s
        let s := State.onRx p (fun r => { r with poolSlots := tupd r.poolSlots k.val [] (· ++ [va]) }) s
        State.onTwin p (fun w => { w with held := w.held ++ [⟨e, k, tag, va, .forwarded⟩] }) s

/-- A forwarded fabric message: logged, named as seen, and taken into effect D beats after the primary's arrival beat (R260). -/
def takeForwarded (p : Part) (beat : Nat) (e : OrderEntry) (b : Bytes) (s : State) : State :=
  let s := logFabric p e.number.toNat b s
  State.onTwin p (fun w => { w with
    seenFabric := w.seenFabric ++ [e], bulk := w.bulk ++ [(beat, e.number.toNat, b)] }) s

/-- R259, R260: FWD arrives. -/
def execTwinFwd (h : TwinHead) (beat : U64) (entry : OrderEntry) (tag : U64) (payload : Bytes) (s : State) : Out :=
  let p := h.part
  twinMessage h.reserved (fun s =>
    if !(s.part p).silent then s
    else if entry.source = 3 then takeForwarded p beat.toNat entry payload s
    else holdForwarded p entry tag payload s) s

/-- R259: what an order names is still lacking at the end of b + D. -/
def execOrderMissing (p : Part) (beat : U64) (s : State) : Out :=
  let w := s.twin p
  .next (match w.orders.find? fun o => o.1 == beat.toNat with
    | some o =>
      if (s.part p).silent && w.phase == .bound && decide (o.1 + w.orderDelay < s.sys.beat) && !o.2.all (hasEntry w) then
        diverge p (s.sys.beat - 1) (stampOrder p (o.1, o.2.filter (hasEntry w)) (State.onTwin p (fun w => { w with orders := w.orders.erase o }) s))
      else s
    | none => s)

/-- R259: messages that ORDER never named leave unannounced. -/
def execUnnamedMessageDiscard (p : Part) (s : State) : Out :=
  let old (h : HeldMsg) : Bool := decide ((s.ctx p h.ctx).lastBeat + (s.twin p).orderDelay < s.sys.beat)
  let l := (s.twin p).held.filter old
  .next (forAll l (fun h => freeSource p h.ctx h.msgVA h.source)
    (State.onTwin p (fun w => { w with held := w.held.filter fun h => !old h }) s))

/-! ### Checkpoints (R264, R361) -/

/-- Records that re-enactment from a checkpoint no longer needs leave the log (R266). (DEDUCED, log entry 124) -/
def trimLog (beat : Nat) (w : TwinState) : TwinState :=
  let l := w.records.filter fun r => decide (beat ≤ r.beat)
  { w with records := l, logTail := (l.head?.map (·.seq)).getD w.logHead, logUsed := (l.map LogRec.size).sum, logStopped := false }

/-- A checkpoint whose copies are complete, and at whose beat the twins matched, is agreed; an ALONE twin's own counts.
(DEDUCED, log entry 124) -/
def tryAgree (p : Part) (s : State) : State :=
  let w := s.twin p
  match w.ckptPending with
  | none => s
  | some c =>
    let both := w.peerCkpt == some c.beat && decide (c.beat ≤ w.matched)
    if w.copyRunning || !(w.phase == .alone || (w.phase == .bound && both)) then s
    else State.onTwin p (fun w => trimLog c.beat { w with
      ckpt := some c, ckptBeat := c.beat, ckptSlot := !w.ckptSlot, ckptPending := none, agreedSinceReplay := true }) s

/-- A checkpoint is due at the boundary that ends beat `b`. While the previous copy runs it is skipped and counted.
(DEDUCED, log entry 122) -/
def ckptBoundary (p : Part) (b : Nat) (s : State) : State :=
  let w := s.twin p
  let byTime := (s.part p).bound && decide (w.ckptAt + w.interval ≤ b)
  if !(w.ckptDue || byTime) || !preemptPoint s p then s
  else if !w.copyRunning then State.onTwin p (fun w => { w with ckptPoint := some b }) s
  else if byTime then
    postTwin p .ok .warning 3 0 (State.onTwin p (fun w => { w with skipped := sat16 w.skipped, ckptAt := b }) s)
  else s

/-- A command for a checkpoint completes. -/
def ckptDone (p : Part) (st : Status) (beat : Nat) (s : State) : State := match (s.twin p).ckptCmd with
  | some c => complete c 0x32 st 0 beat (State.onTwin p (fun w => { w with ckptCmd := none }) s)
  | none => s

/-- Where slot `b` of the checkpoint store lies: the store in two halves. (DESIGN CHOICE, log entry 123) -/
def TwinState.slotAddr (w : TwinState) (b : Bool) : Nat := w.ckptVA.toNat + if b then w.ckptBytes.toNat / 2 else 0

/-- R264: the contexts are saved, and the copy starts. (DESIGN CHOICE, log entry 123) -/
def takeCheckpoint (p : Part) (b : Nat) (s : State) : State :=
  let s := saveJob p (State.onTwin p (fun w => { w with ckptPoint := none, ckptDue := false, ckptAt := b }) s)
  let c := snapshot s p b
  let s := logRecordAt p b 7 0 (leBytes 1 (if (s.twin p).ckptSlot then 0 else 1)) s
  if (s.part p).bound then
    ckptDone p .ok b (State.onTwin p (fun w => { w with ckptPending := some c, copyRunning := true }) s)
  else ckptDone p .ok b (State.onTwin p (fun w => { w with slots := tput w.slots w.ckptVA.toNat c }) s)

def execCheckpointTake (p : Part) (s : State) : Out :=
  .next (match (s.twin p).ckptPoint with
    | some b => if b + 1 = s.sys.beat then takeCheckpoint p b s else State.onTwin p (fun w => { w with ckptPoint := none }) s
    | none => s)

/-- R264: the copy is complete, and CKPT says so. -/
def execCheckpointCopyComplete (p : Part) (s : State) : Out :=
  let w := s.twin p
  .next (match w.ckptPending with
    | some c =>
      if w.copyRunning then
        tryAgree p (twinSend p 7 c.beat (leBytes 1 1 ++ zeroBytes 15) (State.onTwin p (fun w => { w with
          copyRunning := false, slots := tput w.slots (w.slotAddr !w.ckptSlot) c }) s))
      else s
    | none => s)

/-- R361. (DEDUCED, log entry 122) -/
def checkpointCommand (c : Cmd) (va len : U64) (p : Part) (s : State) : State :=
  let x := s.part p
  let arm (f : TwinState → TwinState) : State := State.onTwin p (fun w => f { w with ckptDue := true, ckptCmd := some c }) s
  if x.img.image.isNone then done c 0x32 .invalidState s
  else if x.bound then
    if va ≠ 0 ∨ len ≠ 0 then done c 0x32 .invalidCommand s
    else if x.twin.ckptCmd.isSome then done c 0x32 .busy s
    else arm id
  else if (slotFault s p va.toNat len.toNat).isSome ∨ len = 0 then done c 0x32 .pageFault s
  else if len.toNat < ckptSize s p then done c 0x32 .capacity s
  else if x.twin.ckptCmd.isSome then done c 0x32 .busy s
  else arm fun w => { w with ckptVA := va, ckptBytes := len }

/-- (DEDUCED, log entry 122) -/
def execCheckpoint (c : Cmd) (ckptVA ckptBytes : U64) (s : State) : Out :=
  .next (partCommand c 0x32 true (checkpointCommand c ckptVA ckptBytes) s)

/-- R264: the partner's copy is complete. -/
def execTwinCkpt (h : TwinHead) (beat : U64) (complete : Bool) (s : State) : Out :=
  let p := h.part
  twinMessage h.reserved (fun s =>
    if complete && (s.part p).bound then tryAgree p (State.onTwin p (fun w => { w with peerCkpt := some beat.toNat }) s) else s) s

/-! ### Binding (R257, R258) -/

def bindDelay (b : BindSpec) : Nat := if b.d = 0 then 4 else b.d.toNat
def bindInterval (b : BindSpec) : Nat := if b.ckptInterval = 0 then 4000 else b.ckptInterval.toNat

/-- TWIN_BIND completes. -/
def bindDone (p : Part) (c : Cmd) (st : Status) (s : State) : State :=
  done c 0x31 st (State.onTwin p (fun w => { w with lastStatus := st }) s)

/-- The TWIN_BIND in progress ends. -/
def bindEnds (p : Part) (st : Status) (s : State) : State :=
  let s' := State.onTwin p (fun w => { w with bindCmd := none, bindReq := none, answered := false }) s
  match (s.twin p).bindCmd with
  | some c => bindDone p c st s'
  | none => s'

/-- Check 2. -/
def bindOperandsOk (s : State) (p : Part) (b : BindSpec) : Bool :=
  let n := b.twinConn.toNat
  let c := s.conn n
  (b.d == 0 || inRange 2 16 b.d.toNat) && (b.ckptInterval == 0 || inRange 256 1048576 b.ckptInterval.toNat)
    && decide (b.peerMember.toNat < 1024) && decide (b.peerPartition.toNat < 8)
    && fabricConn s p n && c.state == .ready && c.remotePart.val == b.peerPartition.toNat && c.peerMember == b.peerMember.toNat

/-- The running job has a PREEMPT entry (check 3). -/
def jobPreempts (s : State) (p : Part) : Bool :=
  (imageDies s p).all fun (n, _) => (((s.imageOf p).schedules.getD n []).getD (s.part p).img.curJob.val []).any (·.preempt)

/-- Every page of a range translates, with BACKING 1 or 2 (check 4). -/
def storeBacked (s : State) (p : Part) (va len : Nat) : Bool :=
  (pagesOf va (boundLen va len)).all fun n => match s.leafAt p (n * 2 ^ 16) with
    | some e => decide (va + len ≤ 2 ^ 40) && leafType e == 2 && leafBacking e != 0
    | none => false

/-- Checks 1 to 5. (DEDUCED, log entry 92) -/
def bindChecks (s : State) (p : Part) (b : BindSpec) : Status :=
  let x := s.part p
  let free := match x.twin.phase with
    | .unbound => true
    | .alone => true
    | .diverged => true
    | _ => false
  if x.phase ≠ .loaded ∨ x.img.image = none ∨ !free ∨ x.twin.bindCmd.isSome ∨ x.twin.replayStatus = 1
      ∨ (b.role = 1 ∧ !x.allFree) then .invalidState
  else if !bindOperandsOk s p b then .invalidCommand
  else if !jobPreempts s p then .policyRefused
  else if !storeBacked s p b.ckptVA.toNat b.ckptBytes.toNat || !storeBacked s p b.logVA.toNat b.logBytes.toNat then .pageFault
  else if b.ckptBytes.toNat < 2 * ckptSize s p ∨ b.logBytes.toNat < 2 ^ 26 then .capacity
  else .ok

/-- The log's ring starts anew. -/
def TwinState.freshLog (w : TwinState) : TwinState :=
  { w with logUsed := 0, logOff := 0, logTail := w.logHead, records := [], logStopped := false }

/-- Held messages are stamped at once by a partition that now stamps for itself. (DEDUCED, log entry 120) -/
def stampHeld (p : Part) (s : State) : State :=
  let w := s.twin p
  let s := forAll w.orders (fun o => stampOrder p (o.1, o.2.filter (hasEntry w))) (State.onTwin p (fun w => { w with orders := [] }) s)
  forAll (s.twin p).held (fun h s => stampEntry p s.sys.beat h.entry s) s

/-- The pair is given up. (DEDUCED, log entry 120) -/
def unbind (p : Part) (s : State) : State :=
  let s := State.onTwin p (fun w => { w with actingPrimary := true }) s
  let s := stampHeld p s
  State.onTwin p (fun w => { w.freshLog with
    phase := .unbound, secondary := false, actingPrimary := false, bind := none, ckpt := none, ckptPending := none, copyRunning := false,
    orderDue := [], seenFabric := [], ownFps := [], peerFps := [], peerCkpt := none, agreedSinceReplay := true }) s

/-- R257: ROLE 2 unbinds; ROLE 0 and 1 are checked, and wait for the peer's answer. -/
def bindCommand (c : Cmd) (b : BindSpec) (p : Part) (s : State) : State :=
  if b.role = 2 then
    if (s.twin p).phase = .unbound then bindDone p c .invalidState s
    else bindDone p c .ok (unbind p (bindEnds p .flushed s))
  else match bindChecks s p b with
    | .ok => State.onTwin p (fun w => { w with bindReq := some b, bindCmd := some c, answered := false }) s
    | e => bindDone p c e s

/-- ROLE 2 takes no other operand. -/
def bindFormed (b : BindSpec) : Bool :=
  if b.role = 2 then b == { role := 2, d := 0, peerMember := 0, peerPartition := 0, twinConn := 0, ckptInterval := 0, bindBeat := 0,
                            ckptVA := 0, ckptBytes := 0, logVA := 0, logBytes := 0 }
  else decide (b.role.toNat < 2)

/-- (DEDUCED, log entry 120) -/
def execTwinBind (c : Cmd) (b : BindSpec) (s : State) : Out := .next (partCommand c 0x31 (bindFormed b) (bindCommand c b) s)

/-- Check 6. -/
def answerFits (s : State) (p : Part) (b : BindSpec) (a : BindAnswer) : Bool :=
  decide (s.sys.beat ≤ b.bindBeat.toNat) && a.role.toNat < 2 && a.role != b.role && a.measurement == (s.part p).img.measure
    && a.dieCount == (s.diesOf p).length && (if a.d = 0 then 4 else a.d) == bindDelay b
    && (if a.interval = 0 then 4000 else a.interval) == bindInterval b

def execTwinBindAnswer (p : Part) (a : BindAnswer) (s : State) : Out :=
  .next (match (s.twin p).bindReq with
    | some b =>
      if (s.twin p).answered then s
      else if answerFits s p b a then State.onTwin p (fun w => { w with answered := true }) s
      else bindEnds p .policyRefused s
    | none => s)

def execTwinBindAnswerTimeout (p : Part) (s : State) : Out :=
  .next (when ((s.twin p).bindReq.isSome && !(s.twin p).answered) (bindEnds p .notReady) s)

/-- The pair's parameters are in force. -/
def TwinState.bindTo (b : BindSpec) (beat : Nat) (w : TwinState) : TwinState :=
  { w.freshLog with
    phase := if b.role = 1 then .binding else .alone, secondary := b.role == 1, actingPrimary := false, bind := some b,
    bindReq := none, answered := false, peerMember := b.peerMember.toNat, peerPart := Fin.ofNat 8 b.peerPartition.toNat,
    orderDelay := bindDelay b, interval := bindInterval b, conn := b.twinConn.toNat, ckptVA := b.ckptVA, ckptBytes := b.ckptBytes,
    ckpt := none, ckptPending := none, copyRunning := false, ckptSlot := false, ckptAt := beat, peerCkpt := none, agreedSinceReplay := true,
    ownFps := [], peerFps := [], orders := [], orderDue := [], seenFabric := [] }

/-- R258: the boundary that ends BIND_BEAT has passed; the primary's checkpoint counts as agreed.
(DEDUCED, log entry 120; DEDUCED, log entry 135) -/
def execTwinBindBeat (p : Part) (s : State) : Out :=
  .next (match (s.twin p).bindReq with
    | some b =>
      let n := b.bindBeat.toNat
      if (s.twin p).answered && decide (n < s.sys.beat) then
        let s := State.onTwin p (TwinState.bindTo b n) (stampHeld p s)
        if b.role = 1 then s
        else
          let s := saveJob p s
          let c := snapshot s p n
          State.onTwin p (fun w => { w with ckpt := some c, ckptBeat := n, slots := tput w.slots (w.slotAddr w.ckptSlot) c }) s
      else s
    | none => s)

/-- What the secondary has received and made of it: the log key in its slot, below the partition root, and the state that the
checkpoint and the log from it lead to. (DESIGN CHOICE, log entry 135) -/
def catchUp (p : Part) (logKey : U256) (transfer : Bytes) (s : State) : State :=
  restore p (Config.sentCheckpoint transfer)
    (writeSlot (logSlot p) logKey 0 (rootSlot p) [mLink, mMemory, mPart p.val] [uEncrypt] s)

/-- R258: the secondary has caught up, and the twins compare. (DESIGN CHOICE, log entry 135) -/
def execBindCatchUpDone (p : Part) (c : CatchUp) (s : State) : Out :=
  .next (if (s.twin p).bindCmd.isSome && (s.twin p).bindReq.isNone && ((s.twin p).phase == .binding || (s.twin p).phase == .alone) then
      let s := when ((s.twin p).phase == .binding) (catchUp p c.logKey c.transfer) s
      if (s.twin p).fp = c.partnerFp then
        bindEnds p .ok (State.onTwin p (fun w => { w with phase := .bound, lastPeerFp := s.sys.beat, matched := s.sys.beat - 1 }) s)
      else bindEnds p .twinDiverged (unbind p s)
    else s)

/-! ### Fingerprints (R262) -/

/-- R262: the partner's F arrives. -/
def execTwinFp (h : TwinHead) (beat : U64) (fp : U128) (s : State) : Out :=
  let p := h.part
  twinMessage h.reserved (fun s => when (s.part p).bound (State.onTwin p fun w => { w with
    peerFps := w.peerFps ++ [(beat.toNat, fp)], lastPeerFp := s.sys.beat }) s) s

/-- Step 3 of R25: the comparisons completed in beat `b`. -/
def compareFps (p : Part) (b : Nat) (s : State) : State :=
  let s := State.onTwin p (fun w => { w with ownFps := w.ownFps ++ [(b, w.fp)] }) s
  let w := s.twin p
  if w.phase ≠ .bound then s
  else
    let pairs := w.peerFps.filterMap fun e => (w.ownFps.find? fun o => o.1 == e.1).map fun o => (e.1, e.2 == o.2)
    let good := (pairs.filter (·.2)).foldl (fun m e => max m e.1) w.matched
    let s := State.onTwin p (fun w => { w with
      matched := good, peerFps := w.peerFps.filter (fun e => !pairs.any fun x => x.1 == e.1),
      ownFps := w.ownFps.filter fun o => decide (b < o.1 + 64) }) s
    if pairs.any fun x => !x.2 then diverge p b s else tryAgree p s

/-- What a twin sends at the start of a beat about beat `b`, which has ended: F, and the primary's ORDER. -/
def twinSends (p : Part) (b : Nat) (s : State) : State :=
  let w := s.twin p
  let s := if (s.part p).paired && !w.secondary then
      State.onTwin p (fun w => { w with orderDue := [] }) (twinSend p 2 b (orderBody w.orderDue) s)
    else State.onTwin p (fun w => { w with orderDue := [] }) s
  if w.phase = .bound then twinSend p 1 b (beBytes 16 w.fp.toNat) s else s

/-- R262: the twin enters ALONE. -/
def enterAlone (p : Part) (s : State) : State :=
  let sec := (s.twin p).secondary
  let s := State.onTwin p (fun w => { w with phase := .alone, actingPrimary := sec }) s
  let s := postTwin p .twinAbsent .error 1 TwinPhase.alone.code s
  tryAgree p (stampHeld p s)

/-- (DEDUCED, log entry 128) -/
def execTwinFpTimeout (p : Part) (s : State) : Out :=
  .next (when ((s.twin p).phase == .bound && decide ((s.twin p).lastPeerFp + 64 ≤ s.sys.beat)) (enterAlone p) s)

/-! ### Noise and release agreement (R41, R263) -/

/-- The context that keeps a round's contributions. (DEDUCED, log entry 121) -/
def keepsNoise (c : RoundCtx) : Bool :=
  c.phase == .finalizing || c.phase == .released || (c.phase == .held && c.holdCause == .twinAbsent)

def roundCtx (s : State) (p : Part) (id : Nat) : Option Ctx :=
  (List.finRange 4).find? fun k => keepsNoise (s.ctx p k) && (s.ctx p k).policy.roundId == id

/-- R263: the partner's contribution. A twin that has its own answers with it, once for a contribution it knew.
(DEDUCED, log entry 121) -/
def execTwinNoise (h : TwinHead) (roundId : U64) (contribution : U256) (s : State) : Out :=
  let p := h.part
  twinMessage h.reserved (fun s => match roundCtx s p roundId.toNat with
    | none => s
    | some k =>
      let c := s.ctx p k
      let answer := c.ownNoise.isSome && (c.partnerNoise != some contribution || c.phase != .finalizing)
      let s := when answer (sendNoise p k) (State.onCtx p k (fun c => { c with partnerNoise := some contribution }) s)
      when (c.phase == .finalizing && c.finStep == .waitNoise && c.ownNoise.isSome) (formSeed p k) s) s

/-- The release fingerprint of a round that this twin has released. (DEDUCED, log entry 121) -/
def releasedFp (s : State) (p : Part) (id : Nat) : Option U128 :=
  match (List.finRange 4).find? fun k =>
      let c := s.ctx p k
      c.phase != .free && c.policy.roundId == id && (c.phase == .released || ledgerRecorded s c.policy.signer id) with
  | some k => (s.ctx p k).releaseFp.or (((s.twin p).releases.find? (·.1 == id)).map (·.2))
  | none => ((s.twin p).releases.find? (·.1 == id)).map (·.2)

/-- R41: the partner's release fingerprint; it is compared, and answered for a round that is released. (DEDUCED, log entry 121) -/
def execTwinRelease (h : TwinHead) (roundId : U64) (fp : U128) (s : State) : Out :=
  let p := h.part
  let id := roundId.toNat
  twinMessage h.reserved (fun s =>
    let s := match releasedFp s p id with
      | some own => twinSend p 6 (s.sys.beat - 1) (leBytes 8 id ++ zeroBytes 8 ++ beBytes 16 own.toNat) s
      | none => s
    match roundCtx s p id with
    | none => s
    | some k =>
      let s := State.onCtx p k (fun c => { c with partnerFp := some fp }) s
      when ((s.ctx p k).phase == .finalizing && (s.ctx p k).finStep == .waitTwin) (compareRelease p k) s) s

/-! ### Catch-up and field replay (R267, R269) -/

/-- R267: the partner's last re-enacted beat. -/
def execTwinProgress (h : TwinHead) (beat : U64) (fp : U128) (s : State) : Out :=
  let p := h.part
  twinMessage h.reserved (when ((s.twin p).phase == .replaying)
    (State.onTwin p fun w => { w with peerProgress := some (beat.toNat, fp) })) s

/-- A field replay ends. -/
def endReplay (p : Part) (st : Status) (mismatch : Nat) (s : State) : State :=
  let s := stopClusters p s
  let w := s.twin p
  let s := State.onTwin p (fun w => { w with
    replayStatus := 2, replayLast := st, replayCmd := none, replayMismatch := mismatch, mute := [], orderDelay := 4 }) s
  match w.replayCmd with
  | some c => complete c 0x33 st 0 w.replayBeats s
  | none => s

/-- Aborts recorded in a BEAT record are forced in a field replay. -/
def forceAborts (p : Part) (r : Nat) (s : State) : State :=
  match (s.twin p).replayLog.find? fun x => x.kind == 5 && x.beat == r with
  | some x => forAll (imageDies s p) (fun (n, d) => forAll (List.finRange 32) fun c =>
      when ((BitVec.ofNat 32 (fieldLE x.body (4 * n) 4)).getLsbD c.val) (abortCluster d c)) s
  | none => s

/-- One more than the last ingest sequence number that is due by the beat. -/
def replaySeq (s : State) (p : Part) (r : Nat) : Nat :=
  ((s.twin p).log.filter fun x => x.kind == 1 && decide (x.beat ≤ r)).foldl (fun m x => max m (x.aux + 1)) 0

/-- One recorded beat is re-enacted: the commands of the boundary before it, its inputs, its work, its commit. -/
def replayBeat (p : Part) (s : State) : State :=
  let field := (s.twin p).replayStatus == 1
  let r := (s.twin p).replayAt
  let s := when field (forceAborts p r) (replayCommands p (r - 1) s)
  let s := closeWindow p s
  let s := forAll ((s.twin p).log.filter fun x => x.kind == 1 && x.beat == r) (replayContrib p) s
  let s := takeFingerprint p (replaySeq s p r) (finishBeat p s)
  let s := State.onTwin p (fun w => { w with replayBeats := w.replayBeats + 1 }) s
  if field then
    let bad := (s.twin p).replayLog.any fun x => x.kind == 6 && x.beat == r && x.body != beBytes 16 (s.twin p).fp.toNat
    let forged := (s.twin p).replayLog.any fun x => x.kind == 3 && x.beat == r && (openFabric s p x).isNone
    if forged then endReplay p .keyOrphaned 0 s
    else if bad then endReplay p .twinDiverged r s
    else if (s.twin p).replayStop ≤ r then endReplay p .ok 0 s
    else startReplayBeat p (r + 1) (State.onTwin p (fun w => { w with replayAt := r + 1 }) s)
  else
    let s := when (decide ((s.twin p).replayStop < r)) (logRecordAt p r 6 (s.part p).img.job.step (beBytes 16 (s.twin p).fp.toNat)) s
    let s := twinSend p 8 r (beBytes 16 (s.twin p).fp.toNat) s
    startReplayBeat p (r + 1) (State.onTwin p (fun w => { w with replayAt := r + 1 }) s)

/-- R267: a beat that is recorded, or in progress, is re-enacted. -/
def execReplayBeat (p : Part) (s : State) : Out :=
  let w := s.twin p
  .next (when ((s.part p).phase == .loaded && w.replaying && decide (w.replayAt ≤ if w.replayStatus = 1 then w.replayStop else s.sys.beat)) (replayBeat p) s)

/-- The boundary that ends live beat `b` of a pair that replays: it resumes once both have re-enacted `b`. -/
def tryResume (p : Part) (b : Nat) (s : State) : State :=
  let w := s.twin p
  match w.peerProgress with
  | some (n, f) =>
    if n = b ∧ w.replayAt = b + 1 then
      let s := forAll (s.diesOf p) abortDie s
      if f = w.fp then
        State.onTwin p (fun w => { w with phase := .bound, agreedSinceReplay := false, lastPeerFp := b, matched := b, mute := [] }) s
      else secondDivergence p s
    else s
  | none => s

/-- A record of a log in memory at an offset of its ring. -/
def readRecord (ring : Bytes) (off : Nat) : LogRec :=
  let b := ring.drop off ++ ring.take off
  ⟨fieldLE b 4 1, fieldLE b 8 8, fieldLE b 16 8, fieldLE b 24 8, fieldB b 32 (fieldLE b 0 4)⟩

/-- The records of a ring from sequence number `n` at `off` on. -/
def readRecords (ring : Bytes) : Nat → Nat → Nat → List LogRec
  | 0, _, _ => []
  | fuel + 1, off, n =>
    let r := readRecord ring off
    if r.seq = n ∧ inRange 1 7 r.kind then r :: readRecords ring fuel ((off + r.size) % max ring.length 1) (n + 1) else []

/-- The records of the log at an address, from the first one named on. -/
def readLog (s : State) (p : Part) (va len first : Nat) : List LogRec :=
  let ring := deviceRead s p va len
  match ((List.range (len / 64)).map (· * 64)).find? fun o =>
      (readRecord ring o).seq == first && inRange 1 7 (readRecord ring o).kind with
  | some o => readRecords ring (len / 64) o first
  | none => []

/-- R269. (DEDUCED, log entry 126) -/
def startReplay (c : Cmd) (r : ReplaySpec) (p : Part) (s : State) : State :=
  let x := s.part p
  let refuse (st : Status) : State := done c 0x33 st (State.onTwin p (fun w => { w with replayLast := st }) s)
  if x.phase ≠ .loaded ∨ x.twin.phase ≠ .unbound ∨ !x.allFree ∨ x.twin.replayStatus = 1 then refuse .invalidState
  else match tfind x.twin.slots r.ckptVA.toNat with
    | none => refuse .policyRefused
    | some k =>
      if k.measure ≠ x.img.measure then refuse .policyRefused
      else
        let log := readLog s p r.logVA.toNat r.logBytes.toNat r.firstSeq.toNat
        let s := State.onTwin p (fun w => { w with
          replayStatus := 1, replayCmd := some c, replayMismatch := 0, replayLog := log, orderDelay := k.delay }) s
        let s := beginReplay p k r.lastBeat.toNat s
        if r.lastBeat.toNat ≤ k.beat then endReplay p .ok 0 s else s

def execReplayStart (c : Cmd) (r : ReplaySpec) (s : State) : Out := .next (partCommand c 0x33 true (startReplay c r) s)

end Sys2Proof.Machine
end

