-- ==== Sys2Proof/Machine/Boundary.lean ====
section
/-! DEFINITION. The beat boundary: the ten steps of R25, the holds and state changes of step 4 (R253, R279, R282, R343, R348, R421),
pre-emption (R174), the fallow calendar (R172, R173), the governor (R335, R336), and the start of the next beat (R160, R398). -/

namespace Sys2Proof.Machine

/-! ### Holds (R253, R278, R282, R332, R343, R348) -/

/-- A failed fixed PLL of a die that the partition depends on: the memory-side die of its compute dies, or a link die on whose
sub-ports it has a reservation. (DEDUCED, log entry 30) -/
def fixedPllFailed (s : State) (p : Part) : Bool :=
  ((s.diesOf p).any fun d => s.clk.memFailed[(⟨d.val / 2, by omega⟩ : Fin 4)])
    || (List.finRange 16).any fun i => (s.part p).resv.portBw[i] != 0 && s.clk.linkFailed[(⟨i.val / 4, by omega⟩ : Fin 4)]

/-- What holds a partition's next beat, in the order of HELD_CAUSE, but for the power rule.
(DEDUCED, log entry 27; DEDUCED, log entry 30) -/
def holdCauses (s : State) (p : Part) : List HeldCause :=
  let c := s.configOf (.part p)
  let one (b : Bool) (h : HeldCause) : List HeldCause := if b then [h] else []
  one s.pwr.emThermal .thermal ++ one s.pwr.emSupply .supply ++ one (s.pwr.emClock && (s.clk.xoFail || fixedPllFailed s p)) .clock
    ++ one (ideHeld s p) .ide ++ one (s.hub.links[(s.part p).resv.pciePort]).holdLink .link
    ++ one (!c.busMaster || c.d3hot) .busMaster

/-- A state in which holds are shown. -/
def PartPhase.live : PartPhase → Bool
  | .idle => true
  | .loaded => true
  | .degraded => true
  | _ => false

/-- The holds of step 4 are taken. (DEDUCED, log entry 27) -/
def setHolds (p : Part) (l : List HeldCause) : State → State :=
  State.onPart p fun x => { x with holds := l, heldCause := l.headD .none, powerHold := false }

/-- Entry to DEGRADED. (DEDUCED, log entry 104) -/
def degradeNow (p : Part) (s : State) : State :=
  let s := stopClusters p (State.onPart p (fun x => { x with phase := .degraded, degradeDue := false }) s)
  forAll (List.finRange 4) (fun k => holdOutside p k .degraded) s

/-- The reports of R285. -/
def reportDrained (p : Part) (s : State) : State :=
  let x := s.part p
  if x.phase ≠ .removing ∨ x.removeZeroing then s
  else
    let r := drainedNow s p
    State.onPart p (fun x => { x with
      drained := r, drainedAt := if r.toList.all id then (if x.drainedAt.isSome then x.drainedAt else some s.sys.beat) else none }) s

/-- Step 4 for one partition; the answer says whether the later steps go on. (DEDUCED, log entry 27) -/
def stepHolds (p : Part) (s : State) : State × Bool :=
  let x := s.part p
  if s.sys.fenceDue ∧ x.phase.live then (noteState p (setHolds p [] (fencePartition p s)), false)
  else if x.phase = .removing then (reportDrained p s, false)
  else if !x.phase.live then (setHolds p [] s, x.phase == .fenced)
  else
    let l := holdCauses s p
    let s := setHolds p l s
    let s := if x.degradeDue ∧ x.phase = .loaded then degradeNow p s else s
    (s, l.isEmpty)

/-- Every region of the die. -/
def onRegions (d : Die) (f : Die → Region → State → State) (s : State) : State := forAll (List.finRange 4) (f d) s

/-- Step 4 for the clusters of a die that failed without a spare (R211). -/
def stepLost (d : Die) (s : State) : State :=
  onRegions d (fun d r s => let x := (s.dies[d]).regions[r]
    if x.map.spare.toNat ≤ 8 then s else forAll x.swap.lost (loseRole d r) s) s

/-! ### The end of a beat: steps 1 to 3 -/

/-- The kind a live beat has for a partition whose clusters re-enact other beats. (DEDUCED, log entry 29) -/
def liveKind (s : State) (p : Part) : BeatKind :=
  if (s.part p).heldCause ≠ .none then .held else if fallowBeat (s.imageOf p) s.sys.beat then .fallow else .run

/-- A partition in replay: only BAR2 writes end with the live beat, and its kind is logged for the re-enactment. -/
def endReplaying (p : Part) (s : State) : State :=
  let s := applyBar2 p s
  if (s.twin p).replayStatus = 1 then s
  else
    let s := if liveKind s p = .run then s
      else logRecord p 5 (liveKind s p).code ((s.diesOf p).flatMap fun _ => leBytes 4 0) s
    tryResume p s.sys.beat s

/-- The committed work of a beat, and what the twins make of it. -/
def endLive (p : Part) (s : State) : State :=
  let b := s.sys.beat
  let s := closeWindow p s
  let s := orderBoundary p b s
  let s := finishBeat p s
  let s := logBeat p b (s.part p).img.kind (takeFingerprint p (s.part p).ingestSeq s)
  if (s.twin p).phase = .bound then compareFps p b s else s

/-- Steps 1 to 3 for one partition. (DEDUCED, log entry 35) -/
def stepEnd (p : Part) (s : State) : State :=
  let x := s.part p
  let s := State.onMem p (fun m => { m with notedPages := m.notedPages.filter fun e => decide (s.sys.beat < e.1) }) s
  match x.phase with
  | .absent => s
  | .fenced => s
  | .removing => s
  | .idle => applyBar2 p s
  | _ =>
    if x.twin.replaying then (if x.phase = .loaded then endReplaying p s else applyBar2 p s)
    else if x.img.image.isSome then endLive p s else applyBar2 p s

/-! ### Pre-emption and swaps: steps 5 and 6 -/

/-- Pre-emption after beat `b`: a switch beat that has ended lets the incoming job start; an armed switch takes place at a
pre-emption point. -/
def stepPreempt (p : Part) (b : Nat) (s : State) : State :=
  let x := (s.part p).img
  let s := if x.switching && x.switchTo.isNone then
      State.onImg p (fun i => { i with switching := false, quantumStart := b + 1 }) s else s
  let x := (s.part p).img
  let s := if x.switchArmed && !x.switching && preemptPoint s p then
      (match nextJob s p with
      | some j => State.onImg p (fun i => { i with switching := true, switchTo := some j, switchArmed := false }) s
      | none => State.onImg p (fun i => { i with switchArmed := false, quantumStart := b + 1 }) s)
    else s
  ckptBoundary p b s

/-- Step 6 for one die (R25): the maps of its regions change where its partition goes on, or no partition owns it; else a swap
in progress is deferred (R173). (DESIGN CHOICE, log entry 155) -/
def stepSwaps (going : List Part) (d : Die) (s : State) : State :=
  match s.ownerOf d with
  | none => onRegions d stepRegion s
  | some p => if going.contains p then onRegions d stepRegion s else onRegions d cancelSwap s

/-- A swap that falls on a beat in which the partition does not run is owed (R173). (DESIGN CHOICE, log entry 34) -/
def oweSwaps (p : Part) (n : Nat) (s : State) : State :=
  match (s.part p).img.image with
  | none => s
  | some i =>
    if fallowBeat i n then
      forAll (regionsOf s p) (fun (d, r) => onSwap d r fun w => { w with owed := some (w.owed.getD (swapTurn i n)) }) s
    else s

/-- The kind of beat `n` for a partition. (DESIGN CHOICE, log entry 34) -/
def nextKind (s : State) (p : Part) (n : Nat) : BeatKind :=
  let x := s.part p
  match x.phase, x.img.image with
  | .loaded, some i =>
    if x.heldCause ≠ .none then .held else if x.img.switching then .switch else if fallowBeat i n then .fallow else .run
  | _, _ => .held

/-! ### Operating points: step 7 (R171, R278, R336) -/

/-- The power rule holds a partition; HELD_CAUSE shows the cause of lowest code. (DEDUCED, log entry 28) -/
def PartState.powerHeld (x : PartState) : PartState :=
  let first : HeldCause := if x.heldCause = .none ∨ 5 < x.heldCause.code then .power else x.heldCause
  { x with holds := x.holds ++ [.power], heldCause := first }

/-- The governor for one partition. Its power rule holds the next beat. (DEDUCED, log entry 28) -/
def stepGovern (p : Part) (s : State) : State × Bool :=
  let x := s.part p
  match x.img.load with
  | some j => (if j.checked then raiseForLoad p j.image.minOp s else s, true)
  | none => match x.phase, x.img.image with
    | .loaded, some i =>
      let s := governor p i.powerBudget s
      if (s.part p).powerHold then
        (State.onPart p PartState.powerHeld s, false)
      else (s, true)
    | _, _ => (s, true)

/-- Dies that belong to no partition whose image runs or is about to. (DESIGN CHOICE, log entry 33) -/
def idleDie (s : State) (d : Die) : Bool := match s.ownerOf d with
  | none => true
  | some p => (s.part p).phase != .loaded && !((s.part p).img.load.any fun j => j.checked)

/-! ### Step 9 -/

/-- Once a beat, the events that are posted at most once. -/
def stepNotes (p : Part) (s : State) : State :=
  let n := (s.part p).rxt.dropNoted
  if n = 0 then s
  else postPart p .ok .warning (Config.openField 14) n (State.onRx p (fun r => { r with dropNoted := 0 }) s)

def clearNotes (s : State) : State :=
  let s := s.onConns fun _ c => { c with authNoted := false }
  { s with ports := vall s.ports fun _ q => { q with subs := vall q.subs fun _ x => { x with aheadNoted := false } } }

/-- Step 9 for one function. (DEDUCED, log entry 29) -/
def stepFetch (m : BoundaryInputs) (fn : Fn) (goesOn : Bool) (s : State) : State :=
  let s := if goesOn then fetchCommands fn (m.fetchErrors.contains fn) (hifEnableCheck fn s) else s
  flushRings fn s

/-! ### Step 10 -/

/-- The clock enters beat b + 1 (R154, R160, R251, R398). (DESIGN CHOICE, log entry 32) -/
def nextBeat (y : SysState) : SysState :=
  let len : Int := match y.adopt with
    | some a => a.2
    | none => (y.beatPeriod : Int) + y.slew
  let start := y.beatStart + len.toNat
  { y with
    beat := match y.adopt with
      | some a => a.1
      | none => y.beat + 1
    now := start, beatStart := start, prevLen := len.toNat, slew := y.slewNext, slewNext := 0, adopt := none
    beatPeriod := y.periodPending.getD y.beatPeriod, periodPending := none
    chirpMissed := if y.chirpNow || y.master then 0 else sat32 y.chirpMissed, chirpNow := false }

/-- Step 10 for one partition; `b` is the beat that has ended. -/
def stepStart (p : Part) (b : Nat) (s : State) : State :=
  let x := s.part p
  match x.phase with
  | .absent => s
  | .removing => s
  | .fenced => s
  | _ =>
    if x.twin.replaying && x.phase == .loaded then s
    else
      let k := nextKind s p s.sys.beat
      let s := if k = .held then oweSwaps p s.sys.beat s else s
      let s := startBeat p k s
      if (s.part p).bound then twinSends p b s else s

/-! ### The boundary -/

/-- Apply a step to every partition that still goes on; the list holds those that do. (DESIGN CHOICE, log entry 36) -/
def eachGoing (l : List Part) (f : Part → State → State × Bool) (s : State) : State × List Part :=
  l.foldl (fun (a : State × List Part) p => let r := f p a.1; (r.1, if r.2 then a.2 ++ [p] else a.2)) (s, [])

/-- The calendar and the operating hours count with the beats. (DEDUCED, log entry 194; DEDUCED, log entry 27; DESIGN CHOICE, log entry 32; DESIGN CHOICE, log entry 36) -/
def boundary (m : BoundaryInputs) (s : State) : State :=
  let all := List.finRange 8
  let b := s.sys.beat
  let s := failHostWaits (settleReads (forAll m.upsets upset s))
  let s := forAll (List.finRange 8) stepLost (forAll all stepEnd s)
  let (s, going) := eachGoing all stepHolds s
  let s := s.onSys fun y => { y with fenceDue := false }
  let run (p : Part) (s : State) : Bool := (s.part p).phase == .loaded && (s.part p).img.image.isSome && !(s.part p).twin.replaying
  let s := forAll going (fun p s => when (run p s) (stepPreempt p b) s) s
  let s := forAll (List.finRange 8) (stepSwaps going) s
  let (s, going) := eachGoing going stepGovern (meter m s)
  let s := forAll ((List.finRange 8).filter (idleDie s)) gateDie s
  let s := forAll all (fun p s => when (s.exists_ p) (noteState p) s) s
  let s := enterPowerState s
  let s := claimBoundary (forAll going latchBoundary (clearNotes (forAll all stepNotes s)))
  let s := forAll [.f0 0, .f0 1] (fun fn => stepFetch m fn true) s
  let s := forAll all (fun p => stepFetch m (.part p) (going.contains p)) s
  if !s.sys.running then s
  else
    let t := s.onSys nextBeat
    let d := t.sys.now - s.sys.now
    sendChirps (forAll all (fun p => stepStart p b) (hoursRun d (calendarRun d t)))

/-! ### FAULT_RESUME (R207) -/

/-- The faults a command names: those of posted entries whose agents wait. -/
def namedFaults (m : PartMem) (id : Nat) : List FaultRec :=
  m.faults.filter fun f => f.waits && (id == 0 || f.id == id) && !m.heldFaults.any fun e => e.id == f.id

/-- A cluster that waited no longer does; in a run beat it reruns its entry at once: the command was fetched at the boundary that
started the beat. (DEDUCED, log entry 10) -/
def resumeCluster (p : Part) (d : Die) (c : Cluster) (s : State) : State :=
  let s := State.onCluster d c (fun r => { r with waitFault := false }) s
  if (s.part p).img.kind = .run ∧ (s.part p).img.image.isSome ∧ (s.cluster d c).running = false then
    match (imageDies s p).find? fun x => x.2 == d with
    | some (n, _) => startCluster p n d c s
    | none => s
  else s

/-- An agent is released and retries. -/
def releaseAgent (p : Part) : FaultAgent → State → State
  | .cluster d c, s => if agentWaitsAny (s.part p).mem (.cluster d c) then s else resumeCluster p d c s
  | .slot k, s => if agentWaitsAny (s.part p).mem (.slot k) then s else retrySlot p k s
  | _, s => s

def resumeFaults (c : Cmd) (id : Nat) (p : Part) (s : State) : State :=
  let m := (s.part p).mem
  let l := namedFaults m id
  let plain := id != 0 && m.faults.any fun f => f.id == id && !f.waits && !m.heldFaults.any fun e => e.id == f.id
  if l.isEmpty then done c 0x34 (if plain then .ok else .invalidState) s
  else
    let ids := l.map (·.id)
    let s := State.onMem p (fun m => { m with faults := m.faults.filter fun f => !ids.contains f.id }) s
    done c 0x34 .ok (forAll ((l.map (·.agent)).eraseDups) (releaseAgent p) s)

def execFaultResume (c : Cmd) (faultId : U32) (s : State) : Out :=
  .next (partCommand c 0x34 true (resumeFaults c faultId.toNat) s)

/-- R25. (DEDUCED, log entry 10; DEDUCED, log entry 12) -/
def execBeatBoundary (m : BoundaryInputs) (s : State) : Out := .next (if s.sys.running then boundary m s else s)

end Sys2Proof.Machine
end

