-- ==== Sys2Proof/Machine/Startup.lean ====
section
/-! DEFINITION. Reset and start-up (chapter 19), tamper (R288, R289), the UCIe joins (R13, R14), the links of the PCIe ports
(R347, R348, R395), and the pins (R404, R411, R413, R414). -/

namespace Sys2Proof.Machine

/-! ### Reset (R392) -/

/-- KEY_LC and KEY_BOOT. -/
def keyLc (s : State) : Nat :=
  s.key.fuses.lifeCycle.code ||| (if tampered s then 8 else 0) ||| dbgNow s <<< 4 ||| (s.key.fuses.identityGen % 256) <<< 8
    ||| (s.key.fuses.svn % 256) <<< 16

def BootStage.code : BootStage → Nat
  | .off => 0 | .fuses => 1 | .root => 2 | .image => 3 | .keys => 4 | .running => 5 | .recovery => 6 | .recovered => 7

def keyBoot (s : State) : Nat := s.key.stage.code ||| s.key.bootStatus.code <<< 8

/-- Operating hours of the newest SECTOR or HOURS record in the flash (R384). -/
def newestHours (e : EvrState) : Nat :=
  match ((e.kept ++ e.circ).filter fun r => r.typ == .sector || r.typ == .hours).getLast? with
  | some r => fieldLE r.body 8 4
  | none => 0

/-- The oldest record in the flash: 0, or the tail if the kept area is empty (R383). -/
def oldestRecord (e : EvrState) : Nat := if e.kept.isEmpty then evrTail e else 0

/-- Everything outside the VBAT domain, the fuses and the SPI NOR is cleared; LPDDR5X keeps its bytes until its start-up
zeroing, host memory is the host's, and frames sent are sent. (DEDUCED, log entry 80) -/
def clearHub (s : State) : State :=
  let e := s.evr
  { ({} : State) with
    hub := { lowLeakage := s.key.fuses.lowLeakage },
    ports := Vector.ofFn fun q => { subs := Vector.ofFn fun b => { mac := (s.key.fuses.portMac[q])[b] } },
    key := { fuses := s.key.fuses, vbat := s.key.vbat },
    spi := s.spi,
    evr := { kept := e.kept, circ := e.circ, head := e.head, keptEnd := e.keptEnd, keptFull := e.keptFull, circAt := e.circAt,
             hours := newestHours e, hourMark := newestHours e, powerCycles := e.powerCycles, interrupted := e.interrupted,
             ports := Vector.replicate 2 { cursor := oldestRecord e } },
    mem := { cells := s.mem.cells.filter fun c => decide (2 ^ 40 ≤ c.1 ∧ (c.1 < 2 ^ 50 ∨ 2 ^ 64 ≤ c.1)), bad := s.mem.bad.filter fun l => decide (2 ^ 40 ≤ l * 64) },
    tx := s.tx, draws := s.draws, pending := s.pending }

/-- R381: the boot scan steps over the interrupted record where it stands in the flash without its TYPE. -/
def scanTorn (torn : Bool) (s : State) : State :=
  s.onEvr fun e =>
    let e' := match e.interrupted with
      | some r => if torn then tearRec r e else e
      | none => e
    { e' with interrupted := none }

/-- The BOOT record (R380, R382): it counts itself among the power cycles. -/
def bootRecord (s : State) : State :=
  let s := s.onEvr fun e => { e with scanDone := true, powerCycles := (e.powerCycles + 1) % 2 ^ 32 }
  let body := leBytes 8 s.key.vbat.bootCount ++ leBytes 4 s.evr.powerCycles ++ leBytes 4 (keyBoot s) ++ leBytes 4 (keyLc s)
    ++ zeroBytes 4 ++ Crypto.bytes256 s.key.fwMeasure
  s.onEvr fun e => { e with buffer := ⟨.boot, .info, 0, body⟩ :: e.buffer }

/-- R392, R393: the device starts up by itself; what needs the links, the sites, the array or Toxel follows with its own
events. An unreadable life-cycle word halts the hub (R396). TEST_MODE enables manufacturing scan in BLANK and FACTORY only (R405). (DEDUCED, log entry 80; DEDUCED, log entry 141) -/
def execHubReset (h : ResetInputs) (s : State) : Out :=
  let s := scanTorn h.torn (clearHub s)
  let s := { s with
    hub := { s.hub with mgrSel := h.mgrSel, managing := h.mgrSel },
    pins := { s.pins with
      resetN := true, mainPower := true,
      testMode := h.testMode && (s.key.fuses.lifeCycle == .blank || s.key.fuses.lifeCycle == .factory) } }
  .next (if !s.key.fuses.readable then s
    else
      let s := { s with sys := { s.sys with running := true } }
      let s := { s with mem := { s.mem with
        sites := Vector.ofFn fun n => {
          pending := (s.spi.repairs.filter fun (r : Nat × Nat) => r.1 == n.val).map Prod.snd,
          ppr := s.key.fuses.ppr[n] } } }
      let s := s.onHub fun b => { b with links := #v[{ b.links[0] with refPresent := h.refA }, { b.links[1] with refPresent := h.refB }] }
      let s := bootRecord (romBoot s)
      if h.xoPresent then s else enterEmergency .clock 0 (s.onClk fun c => { c with xoFail := true }))

/-- R392: RESET_N asserts; every partition ends at once, with no boundary and no completion. -/
def execResetAssert (s : State) : Out := .next (clearHub s)

/-- R407: all main rails are lost; the LPDDR5X loses its contents as well. The record the recorder was programming stands
interrupted until the next boot scan (R381). (DEDUCED, log entry 80) -/
def execMainPowerLoss (s : State) : Out :=
  let s := when s.evr.scanDone (State.onEvr fun e => { e with interrupted := nextRecord e }) s
  let s := clearHub s
  .next { s with
    mem := { s.mem with cells := s.mem.cells.filter (fun c => decide (2 ^ 64 ≤ c.1)), bad := [] },
    pins := { s.pins with mainPower := false } }

/-- R393: Toxel starts; the DOE instances answer (R367). -/
def execToxelStart (s : State) : Out :=
  .next (if booted s then
      s.onHub fun h => { h with toxel := true, doe := Vector.ofFn fun q => { h.doe[q] with busy := false } }
    else s)

/-- R394: training, with its repairs, ends: zeroing starts, or the site has failed. -/
def execDramTrainingComplete (n : Site) (ok : Bool) (s : State) : Out :=
  .next (if !s.pins.resetN || (s.mem.sites[n]).trained || (s.mem.sites[n]).failed then s
    else if ok then onSite n (fun x => { x with zeroing := true }) s
    else failSite n s)

/-- R393: the site is zero and TRAINED. -/
def execSiteZeroingComplete (n : Site) (s : State) : Out :=
  .next (if !(s.mem.sites[n]).zeroing then s
    else onSite n (fun x => { x with zeroing := false, trained := true }) (s.zeroRange (dramKey n.val 0) (sitePages * 2 ^ 16)))

/-! ### UCIe (R13, R14, R396) -/

/-- The PORT event of a join: its port is that of an L–M join, and open for the others. -/
def postJoin (j : Join) (s : State) : State :=
  let port := match j with
    | .lm k => 2 * k.val
    | _ => Config.openField 7 % 8
  postF0 .port .ok .warning port (detail 7 0) s

/-- A memory-side die's compute dies and sites, its link die's ports, or a compute die, are lost. -/
def loseJoin (j : Join) (s : State) : State :=
  let dieOff (d : Nat) (s : State) : State := if h : d < 8 then s.onDie ⟨d, h⟩ (fun x => { x with unusable := true }) else s
  let siteOff (n : Nat) (s : State) : State := if h : n < 8 then onSite ⟨n, h⟩ (fun x => { x with unusable := true }) s else s
  let portOff (q : Nat) (s : State) : State :=
    if h : q < 8 then s.onPort ⟨q, h⟩ (fun x => { x with disabled := true, mode := 0 }) else s
  match j with
  | .cm d => dieOff d.val s
  | .mm _ => s
  | .lm k => portOff (2 * k.val) (portOff (2 * k.val + 1) s)
  | .hm k =>
    dieOff (2 * k.val) (dieOff (2 * k.val + 1) (siteOff (2 * k.val) (siteOff (2 * k.val + 1)
      (portOff (2 * k.val) (portOff (2 * k.val + 1) s)))))

/-- R396: every module trains but those named. -/
def execUcieTrainingComplete (untrained : List UcieModule) (s : State) : Out :=
  let s := { s with ucie := vall s.ucie fun m x => { x with trained := !untrained.contains m } }
  .next (forAll allJoins (fun j s =>
    let live := joinLive s j
    if live = j.modules.2 then s
    else
      let s := postJoin j s
      if live = 0 then loseJoin j s else s) s)

/-- The flits sent since the last failure enter the buffer of the direction; it keeps the newest 64 (R14). -/
def UcieDir.send (n : Nat) (x : UcieDir) : UcieDir :=
  { x with sent := max x.sent n, replayBuffer := (List.range (min 64 (max x.sent n))).map fun i => max x.sent n - i }

/-- A flit the buffer still holds is sent again (R14). -/
def UcieDir.replay (flit : Nat) (x : UcieDir) : UcieDir :=
  if x.replayBuffer.contains flit then { x with replayed := some flit } else x

/-- R14: a flit fails its CRC and is replayed; nothing but the module's counter shows it. Flits are numbered from 1 in each
direction; what they carry takes effect with the row it belongs to. (DESIGN CHOICE, log entry 150) -/
def execUcieFlitCrcFail (m : UcieModule) (f : FlitFailure) (s : State) : Out :=
  .next { s with ucie := vupd s.ucie m fun x =>
    { x with crcErrors := sat32 x.crcErrors, dirs := vupd x.dirs f.dir fun d => (d.send f.sent).replay f.flit } }

/-- R14: a redundant lane replaces a failing one; a module that has none left is retired, and reservations are checked
again. (PRESUMED, log entry 79) -/
def execUcieLaneFail (m : UcieModule) (s : State) : Out :=
  let x := s.ucie[m]
  .next (if !x.trained || x.retired then s
    else if 0 < x.spareLanes then
      postJoin (joinOf m) { s with ucie := vput s.ucie m { x with spareLanes := x.spareLanes - 1 } }
    else recheck (postJoin (joinOf m) { s with ucie := vput s.ucie m { x with retired := true } }))

/-! ### PCIe links (R347, R348, R395) -/

/-- GB/s of a link of a width and a RATE code: 56 × width/16 × rate/32 GT/s, rounded down. Codes 1 to 5 stand for 2.5, 5, 8,
16 and 32 GT/s. (DEDUCED, log entry 138) -/
def linkCapacity (width rate : Nat) : Nat := 56 * width * [0, 5, 10, 16, 32, 64].getD rate 0 / 1024

def onLink (q : PciePort) (f : PcieLink → PcieLink) (s : State) : State :=
  s.onHub fun h => { h with links := vupd h.links q f }

/-- The link leaves L0: the functions' configuration space resets, and the IDE keys with it. (DEDUCED, log entry 81) -/
def linkDown (q : PciePort) (s : State) : State :=
  let s := onLink q (fun l =>
    { l with inL0 := false, outSince := if l.inL0 then s.sys.now else l.outSince, ideSecure := false, ideKey := none }) s
  s.onHub fun h =>
    { h with fnConfig := vput h.fnConfig q (Vector.replicate 9 {}), doe := vupd h.doe q fun d => { d with response := none, error := false } }

def execPcieLinkDown (q : PciePort) (s : State) : Out := .next (linkDown q s)

/-- R392: PERST_N resets only its port's link and configuration space. -/
def execPerstAssert (q : PciePort) (s : State) : Out := .next (onLink q (fun l => { l with perst := true }) (linkDown q s))

/-- R395: the link reaches L0; a LINK hold ends at the next boundary. -/
def execPcieLinkUp (q : PciePort) (width rate : Nat) (sris : Bool) (s : State) : Out :=
  .next (if !s.pins.resetN then s
    else
      let lower := decide (linkCapacity width rate < (s.hub.links[q]).capacity)
      let s := onLink q (fun l => { l with inL0 := true, width := width % 32, rate := rate % 8, sris := sris, perst := false,
                                            holdLink := false, capacity := linkCapacity width rate }) s
      when lower recheck s)

/-- R347: the link retrains. -/
def execPcieLinkRetrain (q : PciePort) (width rate : Nat) (s : State) : Out :=
  .next (if !(s.hub.links[q]).inL0 then s
    else
      let lower := decide (linkCapacity width rate < (s.hub.links[q]).capacity)
      when lower recheck (onLink q (fun l => { l with width := width % 32, rate := rate % 8, capacity := linkCapacity width rate }) s))

/-! ### Tamper (R289) -/

def tamperBit : TamperCause → BitVec 5
  | .mesh => 1 | .light => 2 | .rail => 4 | .temperature => 8 | .vbatLoss => 16

/-- The root record is gone, and with it the ledger and the boot count (R290). -/
def dropRoot (v : VbatState) : VbatState := { v with root := none, ledger := [], bootCount := 0, pendingUnlock := false }

/-- R289: what main power lets the hardware do besides: every key slot and engine key register is zeroed, MACsec
associations are erased, and every partition is fenced at the next boundary. -/
def tamperMain (s : State) : State :=
  let s := s.onKey fun k => { k with slots := Vector.replicate 64 {}, tagKey := 0, aliasCert := none }
  let s := s.onRng fun r => { r with insts := Vector.replicate 13 {} }
  let s := State.onConns (fun _ c => { c with peerKey := none, eph := none }) s
  let s := { s with ports := vall s.ports fun _ x =>
    { x with subs := vall x.subs fun _ b => { b with assoc := none, oldAssoc := none, handshake := {}, hs := .idle } } }
  let s := s.onHub fun h => { h with doe := vall h.doe fun _ d => { d with session := none },
                                     links := vall h.links fun _ l => { l with ideKey := none } }
  let s := s.onSys fun y => { y with fenceDue := true }
  wake (abortTest (postF0 .security .tampered .critical 0 (detail 1 (keyTamper s).toNat) s))

/-- R289. -/
def execTamperDetect (cause : TamperCause) (mainPower : Bool) (s : State) : Out :=
  let s := s.onKey fun k => { k with vbat := { dropRoot k.vbat with tamper := k.vbat.tamper ||| tamperBit cause } }
  .next (if mainPower then tamperMain s else s)

/-- R289, R409: the hold-up capacitor runs out; without VDDIO the whole VBAT domain is lost. (DEDUCED, log entry 80) -/
def execHoldupExpiry (s : State) : Out :=
  .next (if s.pins.mainPower then s else s.onKey fun k => { k with vbat := {} })

/-! ### Pins (R404, R411, R413, R414) -/

/-- R414: THERMTRIP_N asserts and stays so until the next hub reset. -/
def execThermtrip (_d : AnyDie) (s : State) : Out := .next (s.onPins fun p => { p with thermtrip := true })

/-- The bits of a 32-bit register as the TAP shifts them out, least significant first. -/
def bits32 (n : Nat) : List Bool := (List.range 32).map n.testBit

/-- R413: BYPASS and IDCODE always work, the boundary-scan instructions only while the debug byte is 1 or 2; what does not
work selects the bypass register. -/
def execTapInstruction (i : TapInstr) (s : State) : Out :=
  let scan := dbgNow s == 1 || dbgNow s == 2
  let bypass (s : State) : State := s.onPins fun p => { p with tapInstr := .bypass, tapData := [false] }
  .next (match i with
    | .bypass => bypass s
    | .idcode => s.onPins fun p => { p with tapInstr := .idcode, tapData := bits32 0x00250E67 }
    | .samplePreload cells =>
      if scan then s.onPins fun p => { p with tapInstr := .samplePreload cells, tapData := cells } else bypass s
    | .extest cells =>
      if scan then s.onPins fun p => { p with tapInstr := .extest cells, tapData := cells, bsrOut := cells } else bypass s
    | .other => bypass s)

/-- R411: a request for the controller role of the I3C bus is refused. -/
def execControllerRoleRequest (s : State) : Out := .next (s.onPins fun p => { p with roleRefused := p.roleRefused + 1 })

end Sys2Proof.Machine
end

