-- ==== Sys2Proof/Machine/Dispatch.lean ====
section
/-! DEFINITION. The dispatch: one arm per command. A row whose event cannot occur in the state changes nothing (DEDUCED, log
entry 6). What the rules put at one boundary for one command is one row (DEDUCED, log entry 142). -/

namespace Sys2Proof.Machine

def exec (i : Instr) (s : State) : Host.Outcome State Fault Refusal :=
  match i with
  | .beatBoundary m => Sys2Proof.Machine.execBeatBoundary m s
  | .commitWindowOpen p => Sys2Proof.Machine.execCommitWindowOpen p s
  | .testSwapStart p => Sys2Proof.Machine.execTestSwapStart p s
  | .swapMapUpdate p => Sys2Proof.Machine.execSwapMapUpdate p s
  | .quantumExpiry p => Sys2Proof.Machine.execQuantumExpiry p s
  | .jobSwitch p => Sys2Proof.Machine.execJobSwitch p s
  | .nop u f => Sys2Proof.Machine.execNop u f s
  | .xadd u f => Sys2Proof.Machine.execXadd u f s
  | .xld u f => Sys2Proof.Machine.execXld u f s
  | .loop u f => Sys2Proof.Machine.execLoop u f s
  | .loopx u f => Sys2Proof.Machine.execLoopx u f s
  | .msel u f => Sys2Proof.Machine.execMsel u f s
  | .waits u f => Sys2Proof.Machine.execWaits u f s
  | .barrier u f => Sys2Proof.Machine.execBarrier u f s
  | .rbarrier u f => Sys2Proof.Machine.execRbarrier u f s
  | .fpadd u f => Sys2Proof.Machine.execFpadd u f s
  | .vadd u f => Sys2Proof.Machine.execVadd u f s
  | .vsub u f => Sys2Proof.Machine.execVsub u f s
  | .vneg u f => Sys2Proof.Machine.execVneg u f s
  | .vmov u f => Sys2Proof.Machine.execVmov u f s
  | .vsplat u f => Sys2Proof.Machine.execVsplat u f s
  | .vmul u f => Sys2Proof.Machine.execVmul u f s
  | .vmuls u f => Sys2Proof.Machine.execVmuls u f s
  | .vred u f => Sys2Proof.Machine.execVred u f s
  | .tacc u f => Sys2Proof.Machine.execTacc u f s
  | .tmac u f => Sys2Proof.Machine.execTmac u f s
  | .tmacs u f => Sys2Proof.Machine.execTmacs u f s
  | .tread u f => Sys2Proof.Machine.execTread u f s
  | .tpois u f => Sys2Proof.Machine.execTpois u f s
  | .nstage u f => Sys2Proof.Machine.execNstage u f s
  | .istage u f => Sys2Proof.Machine.execIstage u f s
  | .nttl u f => Sys2Proof.Machine.execNttl u f s
  | .inttl u f => Sys2Proof.Machine.execInttl u f s
  | .autol u f => Sys2Proof.Machine.execAutol u f s
  | .ctAdd u f => Sys2Proof.Machine.execCtAdd u f s
  | .ctSub u f => Sys2Proof.Machine.execCtSub u f s
  | .ctAddp u f => Sys2Proof.Machine.execCtAddp u f s
  | .ctMulp u f => Sys2Proof.Machine.execCtMulp u f s
  | .ctMul u f => Sys2Proof.Machine.execCtMul u f s
  | .ctRot u f => Sys2Proof.Machine.execCtRot u f s
  | .ctConj u f => Sys2Proof.Machine.execCtConj u f s
  | .ctRescale u f => Sys2Proof.Machine.execCtRescale u f s
  | .ctDrop u f => Sys2Proof.Machine.execCtDrop u f s
  | .ctNtt u f => Sys2Proof.Machine.execCtNtt u f s
  | .ctIntt u f => Sys2Proof.Machine.execCtIntt u f s
  | .ctSlotsum u f => Sys2Proof.Machine.execCtSlotsum u f s
  | .molt u f => Sys2Proof.Machine.execMolt u f s
  | .moltEx u f => Sys2Proof.Machine.execMoltEx u f s
  | .ctFlood u f => Sys2Proof.Machine.execCtFlood u f s
  | .ctCombine u f => Sys2Proof.Machine.execCtCombine u f s
  | .vshare u f => Sys2Proof.Machine.execVshare u f s
  | .vcheck u f => Sys2Proof.Machine.execVcheck u f s
  | .ld u f => Sys2Proof.Machine.execLd u f s
  | .st u f => Sys2Proof.Machine.execSt u f s
  | .tld u f => Sys2Proof.Machine.execTld u f s
  | .tst u f => Sys2Proof.Machine.execTst u f s
  | .scopy u f => Sys2Proof.Machine.execScopy u f s
  | .szero u f => Sys2Proof.Machine.execSzero u f s
  | .prg u f => Sys2Proof.Machine.execPrg u f s
  | .hash u f => Sys2Proof.Machine.execHash u f s
  | .sample u f => Sys2Proof.Machine.execSample u f s
  | .vjoint u f => Sys2Proof.Machine.execVjoint u f s
  | .xmit u f => Sys2Proof.Machine.execXmit u f s
  | .tdec u f => Sys2Proof.Machine.execTdec u f s
  | .tred u f => Sys2Proof.Machine.execTred u f s
  | .tmerge u f => Sys2Proof.Machine.execTmerge u f s
  | .tclip u f => Sys2Proof.Machine.execTclip u f s
  | .tnoise u f => Sys2Proof.Machine.execTnoise u f s
  | .tstat u f => Sys2Proof.Machine.execTstat u f s
  | .topt u f => Sys2Proof.Machine.execTopt u f s
  | .tenc u f => Sys2Proof.Machine.execTenc u f s
  | .asyncOpComplete u e => Sys2Proof.Machine.execAsyncOpComplete u e s
  | .barrierRelease p d c region => Sys2Proof.Machine.execBarrierRelease p d c region s
  | .partCreate c createPA => Sys2Proof.Machine.execPartCreate c createPA s
  | .partRemove c partition => Sys2Proof.Machine.execPartRemove c partition s
  | .removeDrained p => Sys2Proof.Machine.execRemoveDrained p s
  | .removeComplete p => Sys2Proof.Machine.execRemoveComplete p s
  | .partLoad c imageVA imageBytes => Sys2Proof.Machine.execPartLoad c imageVA imageBytes s
  | .partLoadChecksEnd p => Sys2Proof.Machine.execPartLoadChecksEnd p s
  | .partLoadComplete p => Sys2Proof.Machine.execPartLoadComplete p s
  | .opSet c opMax => Sys2Proof.Machine.execOpSet c opMax s
  | .instarSet c newInstar effectiveBeat => Sys2Proof.Machine.execInstarSet c newInstar effectiveBeat s
  | .instarEffective => Sys2Proof.Machine.execInstarEffective s
  | .roundOpen c policyVA slotVA slotBytes openBeat => Sys2Proof.Machine.execRoundOpen c policyVA slotVA slotBytes openBeat s
  | .roundOpenEffect p k => Sys2Proof.Machine.execRoundOpenEffect p k s
  | .roundClose c r => Sys2Proof.Machine.execRoundClose c r s
  | .admissionDeadline p k => Sys2Proof.Machine.execAdmissionDeadline p k s
  | .cohortLimitReached p k => Sys2Proof.Machine.execCohortLimitReached p k s
  | .roundUnmask c r listVA recordCount => Sys2Proof.Machine.execRoundUnmask c r listVA recordCount s
  | .unmaskExpansionComplete p w => Sys2Proof.Machine.execUnmaskExpansionComplete p w s
  | .closeWorkComplete p k => Sys2Proof.Machine.execCloseWorkComplete p k s
  | .recoveryTimeout p k => Sys2Proof.Machine.execRecoveryTimeout p k s
  | .memberHandoffSend p k => Sys2Proof.Machine.execMemberHandoffSend p k s
  | .memberTransferArrive p k m => Sys2Proof.Machine.execMemberTransferArrive p k m s
  | .memberTransferAck p k => Sys2Proof.Machine.execMemberTransferAck p k s
  | .roundFinalize c r => Sys2Proof.Machine.execRoundFinalize c r s
  | .releasePipelineDone p k => Sys2Proof.Machine.execReleasePipelineDone p k s
  | .slotWriteComplete p k => Sys2Proof.Machine.execSlotWriteComplete p k s
  | .finalizeDeadline p k => Sys2Proof.Machine.execFinalizeDeadline p k s
  | .twinReleaseTimeout p k => Sys2Proof.Machine.execTwinReleaseTimeout p k s
  | .stagingError p k => Sys2Proof.Machine.execStagingError p k s
  | .roundAbort c r => Sys2Proof.Machine.execRoundAbort c r s
  | .abortZeroingComplete p k => Sys2Proof.Machine.execAbortZeroingComplete p k s
  | .resultAck c r => Sys2Proof.Machine.execResultAck c r s
  | .resultAckComplete p k => Sys2Proof.Machine.execResultAckComplete p k s
  | .combineSourceRead p k => Sys2Proof.Machine.execCombineSourceRead p k s
  | .helperCloseSend p k => Sys2Proof.Machine.execHelperCloseSend p k s
  | .helperTransferAck p k => Sys2Proof.Machine.execHelperTransferAck p k s
  | .xchgAggregateShare p k party share => Sys2Proof.Machine.execXchgAggregateShare p k party share s
  | .xchgPart p h jk paramTag => Sys2Proof.Machine.execXchgPart p h jk paramTag s
  | .xchgSeed p h seed => Sys2Proof.Machine.execXchgSeed p h seed s
  | .xchgShare p h v => Sys2Proof.Machine.execXchgShare p h v s
  | .xchgDecide p h verdict => Sys2Proof.Machine.execXchgDecide p h verdict s
  | .xchgDone p h accepted digest => Sys2Proof.Machine.execXchgDone p h accepted digest s
  | .verifyTimeout p k index => Sys2Proof.Machine.execVerifyTimeout p k index s
  | .partHoldExpiry p k index => Sys2Proof.Machine.execPartHoldExpiry p k index s
  | .keysetLoad c slot ksVA blockTotal => Sys2Proof.Machine.execKeysetLoad c slot ksVA blockTotal s
  | .grantCreate c perms conn va length => Sys2Proof.Machine.execGrantCreate c perms conn va length s
  | .grantRevoke c grant => Sys2Proof.Machine.execGrantRevoke c grant s
  | .grantRevokeComplete p g => Sys2Proof.Machine.execGrantRevokeComplete p g s
  | .placementComplete p g => Sys2Proof.Machine.execPlacementComplete p g s
  | .connCreate c spec => Sys2Proof.Machine.execConnCreate c spec s
  | .connConnected conn => Sys2Proof.Machine.execConnConnected conn s
  | .connectTimeout conn => Sys2Proof.Machine.execConnectTimeout conn s
  | .connDestroy c conn => Sys2Proof.Machine.execConnDestroy c conn s
  | .connDestroyComplete conn => Sys2Proof.Machine.execConnDestroyComplete conn s
  | .twinBind c b => Sys2Proof.Machine.execTwinBind c b s
  | .twinBindBeat p => Sys2Proof.Machine.execTwinBindBeat p s
  | .bindCatchUpDone p c => Sys2Proof.Machine.execBindCatchUpDone p c s
  | .checkpoint c ckptVA ckptBytes => Sys2Proof.Machine.execCheckpoint c ckptVA ckptBytes s
  | .checkpointTake p => Sys2Proof.Machine.execCheckpointTake p s
  | .checkpointCopyComplete p => Sys2Proof.Machine.execCheckpointCopyComplete p s
  | .replayStart c r => Sys2Proof.Machine.execReplayStart c r s
  | .replayBeat p => Sys2Proof.Machine.execReplayBeat p s
  | .faultResume c faultId => Sys2Proof.Machine.execFaultResume c faultId s
  | .faultEntryDeferredPost p => Sys2Proof.Machine.execFaultEntryDeferredPost p s
  | .testRun c test die target arg => Sys2Proof.Machine.execTestRun c test die target arg s
  | .testRunComplete o => Sys2Proof.Machine.execTestRunComplete o s
  | .spareTestComplete d r t => Sys2Proof.Machine.execSpareTestComplete d r t s
  | .twinFp h beat fp => Sys2Proof.Machine.execTwinFp h beat fp s
  | .twinOrder h beat entries => Sys2Proof.Machine.execTwinOrder h beat entries s
  | .twinNeed h beat entries => Sys2Proof.Machine.execTwinNeed h beat entries s
  | .twinFwd h beat entry tag payload => Sys2Proof.Machine.execTwinFwd h beat entry tag payload s
  | .twinNoise h roundId contribution => Sys2Proof.Machine.execTwinNoise h roundId contribution s
  | .twinRelease h roundId fp => Sys2Proof.Machine.execTwinRelease h roundId fp s
  | .twinCkpt h beat complete => Sys2Proof.Machine.execTwinCkpt h beat complete s
  | .twinProgress h beat fp => Sys2Proof.Machine.execTwinProgress h beat fp s
  | .orderMissing p beat => Sys2Proof.Machine.execOrderMissing p beat s
  | .unnamedMessageDiscard p => Sys2Proof.Machine.execUnnamedMessageDiscard p s
  | .twinFpTimeout p => Sys2Proof.Machine.execTwinFpTimeout p s
  | .twinNoiseTimeout p k => Sys2Proof.Machine.execTwinNoiseTimeout p k s
  | .rxtWrite f => Sys2Proof.Machine.execRxtWrite f s
  | .rxtSendTagged f => Sys2Proof.Machine.execRxtSendTagged f s
  | .rxtXfer f => Sys2Proof.Machine.execRxtXfer f s
  | .rxtAck f => Sys2Proof.Machine.execRxtAck f s
  | .rxtNak f => Sys2Proof.Machine.execRxtNak f s
  | .rxtCancel f => Sys2Proof.Machine.execRxtCancel f s
  | .connectOffer f b => Sys2Proof.Machine.execConnectOffer f b s
  | .connectAccept f b => Sys2Proof.Machine.execConnectAccept f b s
  | .connectConfirm f b => Sys2Proof.Machine.execConnectConfirm f b s
  | .connectRefuse f b => Sys2Proof.Machine.execConnectRefuse f b s
  | .chirp f => Sys2Proof.Machine.execChirp f s
  | .hello q w_ h => Sys2Proof.Machine.execHello q w_ h s
  | .linkConfirm q w_ mac => Sys2Proof.Machine.execLinkConfirm q w_ mac s
  | .arpRequest q w_ a => Sys2Proof.Machine.execArpRequest q w_ a s
  | .neighborSolicitation q w_ a => Sys2Proof.Machine.execNeighborSolicitation q w_ a s
  | .nonRxtFrame q w_ sec => Sys2Proof.Machine.execNonRxtFrame q w_ sec s
  | .messageComplete conn => Sys2Proof.Machine.execMessageComplete conn s
  | .contextFetchComplete q conn => Sys2Proof.Machine.execContextFetchComplete q conn s
  | .contextFetchTimeout q conn => Sys2Proof.Machine.execContextFetchTimeout q conn s
  | .unexpectedMatchCopy p => Sys2Proof.Machine.execUnexpectedMatchCopy p s
  | .unexpectedAgeExpiry p => Sys2Proof.Machine.execUnexpectedAgeExpiry p s
  | .retransmitTimeout conn psn => Sys2Proof.Machine.execRetransmitTimeout conn psn s
  | .retryLimitReached conn => Sys2Proof.Machine.execRetryLimitReached conn s
  | .pathFail conn path => Sys2Proof.Machine.execPathFail conn path s
  | .pathProbe conn path => Sys2Proof.Machine.execPathProbe conn path s
  | .ackDelayExpiry conn => Sys2Proof.Machine.execAckDelayExpiry conn s
  | .rnrWaitExpiry conn psn => Sys2Proof.Machine.execRnrWaitExpiry conn psn s
  | .rateIncrease conn => Sys2Proof.Machine.execRateIncrease conn s
  | .xmitCancelSend conn msgId => Sys2Proof.Machine.execXmitCancelSend conn msgId s
  | .rekeyTimer q w_ => Sys2Proof.Machine.execRekeyTimer q w_ s
  | .handshakeRetry q w_ => Sys2Proof.Machine.execHandshakeRetry q w_ s
  | .linkStateChange q w_ up => Sys2Proof.Machine.execLinkStateChange q w_ up s
  | .chirpMissedLimit => Sys2Proof.Machine.execChirpMissedLimit s
  | .ucieFlitCrcFail m f => Sys2Proof.Machine.execUcieFlitCrcFail m f s
  | .ucieLaneFail m => Sys2Proof.Machine.execUcieLaneFail m s
  | .weevilPatrol t o => Sys2Proof.Machine.execWeevilPatrol t o s
  | .clusterRetire d c cause => Sys2Proof.Machine.execClusterRetire d c cause s
  | .pageMigration w_ page => Sys2Proof.Machine.execPageMigration w_ page s
  | .postPackageRepair w_ row => Sys2Proof.Machine.execPostPackageRepair w_ row s
  | .pageTableRebuild p => Sys2Proof.Machine.execPageTableRebuild p s
  | .tableStoreRebuild d r => Sys2Proof.Machine.execTableStoreRebuild d r s
  | .programRecopy p d c => Sys2Proof.Machine.execProgramRecopy p d c s
  | .zqCalibration w_ ok => Sys2Proof.Machine.execZqCalibration w_ ok s
  | .entropyWindowEnd w => Sys2Proof.Machine.execEntropyWindowEnd w s
  | .entropyRecovered => Sys2Proof.Machine.execEntropyRecovered s
  | .rngStartup => Sys2Proof.Machine.execRngStartup s
  | .rngReadyTimeout => Sys2Proof.Machine.execRngReadyTimeout s
  | .drbgGenerate => Sys2Proof.Machine.execDrbgGenerate s
  | .rngTestWrite q value => Sys2Proof.Machine.execRngTestWrite q value s
  | .rngInjectWrite q value => Sys2Proof.Machine.execRngInjectWrite q value s
  | .rngRawRead r => Sys2Proof.Machine.execRngRawRead r s
  | .refInputInvalid meanOffset => Sys2Proof.Machine.execRefInputInvalid meanOffset s
  | .refLockAchieved => Sys2Proof.Machine.execRefLockAchieved s
  | .holdoverExit => Sys2Proof.Machine.execHoldoverExit s
  | .clockMonitorWindow c => Sys2Proof.Machine.execClockMonitorWindow c s
  | .pllCheck t ok => Sys2Proof.Machine.execPllCheck t ok s
  | .pllFailover d otherLocks => Sys2Proof.Machine.execPllFailover d otherLocks s
  | .avsReadback d ack millivolt => Sys2Proof.Machine.execAvsReadback d ack millivolt s
  | .tempSensorRead d readings => Sys2Proof.Machine.execTempSensorRead d readings s
  | .coolantRead reading => Sys2Proof.Machine.execCoolantRead reading s
  | .thermalModelUpdate => Sys2Proof.Machine.execThermalModelUpdate s
  | .energyCalibration c => Sys2Proof.Machine.execEnergyCalibration c s
  | .vrAlert a => Sys2Proof.Machine.execVrAlert a s
  | .droopDetect d => Sys2Proof.Machine.execDroopDetect d s
  | .emergencyClear e => Sys2Proof.Machine.execEmergencyClear e s
  | .thermtrip d => Sys2Proof.Machine.execThermtrip d s
  | .powerWake w => Sys2Proof.Machine.execPowerWake w s
  | .powerExitComplete => Sys2Proof.Machine.execPowerExitComplete s
  | .tamperDetect cause mainPower => Sys2Proof.Machine.execTamperDetect cause mainPower s
  | .holdupExpiry => Sys2Proof.Machine.execHoldupExpiry s
  | .calOscFail => Sys2Proof.Machine.execCalOscFail s
  | .hubReset h => Sys2Proof.Machine.execHubReset h s
  | .toxelStart => Sys2Proof.Machine.execToxelStart s
  | .dramTrainingComplete w_ ok => Sys2Proof.Machine.execDramTrainingComplete w_ ok s
  | .siteZeroingComplete w_ => Sys2Proof.Machine.execSiteZeroingComplete w_ s
  | .resetAssert => Sys2Proof.Machine.execResetAssert s
  | .perstAssert q => Sys2Proof.Machine.execPerstAssert q s
  | .pcieLinkDown q => Sys2Proof.Machine.execPcieLinkDown q s
  | .linkHoldTimeout q => Sys2Proof.Machine.execLinkHoldTimeout q s
  | .pcieLinkRetrain q width rate => Sys2Proof.Machine.execPcieLinkRetrain q width rate s
  | .configWrite q f w => Sys2Proof.Machine.execConfigWrite q f w s
  | .ideStreamChange q secure => Sys2Proof.Machine.execIdeStreamChange q secure s
  | .hifCmdqDb fn value writes => Sys2Proof.Machine.execHifCmdqDb fn value writes s
  | .hifCplqHead fn value => Sys2Proof.Machine.execHifCplqHead fn value s
  | .hifEvqHead fn value => Sys2Proof.Machine.execHifEvqHead fn value s
  | .hifFltqHead fn value => Sys2Proof.Machine.execHifFltqHead fn value s
  | .hifEnable fn => Sys2Proof.Machine.execHifEnable fn s
  | .hifDisable fn => Sys2Proof.Machine.execHifDisable fn s
  | .ingDb p r value => Sys2Proof.Machine.execIngDb p r value s
  | .ingEnable p r cfg => Sys2Proof.Machine.execIngEnable p r cfg s
  | .bar2Read p offset len => Sys2Proof.Machine.execBar2Read p offset len s
  | .bar2Write p offset data ep => Sys2Proof.Machine.execBar2Write p offset data ep s
  | .badRegisterAccess fn write => Sys2Proof.Machine.execBadRegisterAccess fn write s
  | .mapSet p ctrl => Sys2Proof.Machine.execMapSet p ctrl s
  | .mapClear p ctrl => Sys2Proof.Machine.execMapClear p ctrl s
  | .recvPost p ctrl => Sys2Proof.Machine.execRecvPost p ctrl s
  | .recvRemove p ctrl => Sys2Proof.Machine.execRecvRemove p ctrl s
  | .unexpFlush p value => Sys2Proof.Machine.execUnexpFlush p value s
  | .accessKeyWrite p key => Sys2Proof.Machine.execAccessKeyWrite p key s
  | .hubMgrClaim q value => Sys2Proof.Machine.execHubMgrClaim q value s
  | .sysBeatPeriodWrite q value => Sys2Proof.Machine.execSysBeatPeriodWrite q value s
  | .sysMemberWrite q value => Sys2Proof.Machine.execSysMemberWrite q value s
  | .sysRoleWrite q value => Sys2Proof.Machine.execSysRoleWrite q value s
  | .portModeWrite q r value => Sys2Proof.Machine.execPortModeWrite q r value s
  | .softStartWrite q value => Sys2Proof.Machine.execSoftStartWrite q value s
  | .cappedClear q d value => Sys2Proof.Machine.execCappedClear q d value s
  | .pwrStateReqWrite q value => Sys2Proof.Machine.execPwrStateReqWrite q value s
  | .logVaWrite p value => Sys2Proof.Machine.execLogVaWrite p value s
  | .calTimeWrite q value => Sys2Proof.Machine.execCalTimeWrite q value s
  | .evrWindowRead q => Sys2Proof.Machine.execEvrWindowRead q s
  | .evrCursorWrite q value => Sys2Proof.Machine.execEvrCursorWrite q value s
  | .registerWrite fn offset wide value => Sys2Proof.Machine.execRegisterWrite fn offset wide value s
  | .recorderFlashProgram ok => Sys2Proof.Machine.execRecorderFlashProgram ok s
  | .hoursRecord => Sys2Proof.Machine.execHoursRecord s
  | .lcFactory q c => Sys2Proof.Machine.execLcFactory q c s
  | .enroll q c => Sys2Proof.Machine.execEnroll q c s
  | .lcAdvance q c => Sys2Proof.Machine.execLcAdvance q c s
  | .debugUnlock q len => Sys2Proof.Machine.execDebugUnlock q len s
  | .certWrite q len => Sys2Proof.Machine.execCertWrite q len s
  | .slotInfo q len => Sys2Proof.Machine.execSlotInfo q len s
  | .imageChunk q len => Sys2Proof.Machine.execImageChunk q len s
  | .imageRun q len => Sys2Proof.Machine.execImageRun q len s
  | .fwWrite q c => Sys2Proof.Machine.execFwWrite q c s
  | .svnCommit q len => Sys2Proof.Machine.execSvnCommit q len s
  | .getVersion q => Sys2Proof.Machine.execGetVersion q s
  | .getCapabilities q => Sys2Proof.Machine.execGetCapabilities q s
  | .negotiateAlgorithms q a => Sys2Proof.Machine.execNegotiateAlgorithms q a s
  | .getDigests q => Sys2Proof.Machine.execGetDigests q s
  | .getCertificate q slot offset length => Sys2Proof.Machine.execGetCertificate q slot offset length s
  | .challenge q slot nonce => Sys2Proof.Machine.execChallenge q slot nonce s
  | .getMeasurements q index signed nonce => Sys2Proof.Machine.execGetMeasurements q index signed nonce s
  | .keyExchange q slot reqSession exchange => Sys2Proof.Machine.execKeyExchange q slot reqSession exchange s
  | .finish q verify => Sys2Proof.Machine.execFinish q verify s
  | .keyUpdate q op => Sys2Proof.Machine.execKeyUpdate q op s
  | .endSession q => Sys2Proof.Machine.execEndSession q s
  | .ideKeyProgramming q m => Sys2Proof.Machine.execIdeKeyProgramming q m s
  | .doeAbort q => Sys2Proof.Machine.execDoeAbort q s
  | .doeObjectReject q bytes protocolKnown => Sys2Proof.Machine.execDoeObjectReject q bytes protocolKnown s
  | .mainPowerLoss => Sys2Proof.Machine.execMainPowerLoss s
  | .pcieLinkUp q width rate sris => Sys2Proof.Machine.execPcieLinkUp q width rate sris s
  | .ucieTrainingComplete untrained => Sys2Proof.Machine.execUcieTrainingComplete untrained s
  | .twinBindAnswer p a => Sys2Proof.Machine.execTwinBindAnswer p a s
  | .twinBindAnswerTimeout p => Sys2Proof.Machine.execTwinBindAnswerTimeout p s
  | .tapInstruction j => Sys2Proof.Machine.execTapInstruction j s
  | .controllerRoleRequest => Sys2Proof.Machine.execControllerRoleRequest s

end Sys2Proof.Machine
end

