-- ==== Sys2Proof/Safety.lean ====
section
/-! DEFINITION. The words the statements are written in: when a unit can issue, when a cluster operation starts, what an
accepted command finds, and which part of the state a command leaves as it was. -/

namespace Sys2Proof.Machine

/-! ### Units -/

/-- The unit issues a word with this SYNC bit: its cluster runs, it waits for nothing, its program has not ended, and with
SYNC none of its asynchronous operations is left (R183, R184). -/
def CanIssue (s : State) (u : UnitId) (sync : Bool) : Prop :=
  unitReady s u = true ∧ (sync = true → (s.unitOf u).asyncs = [])

/-- Another unit of the device. -/
def OtherUnit (u v : UnitId) : Prop := v.die ≠ u.die ∨ v.cluster ≠ u.cluster ∨ v.unit ≠ u.unit

/-- Only the state of one unit differs. -/
def OnlyUnit (u : UnitId) (s t : State) : Prop :=
  t = { s with units := t.units } ∧ ∀ v, OtherUnit u v → t.unitOf v = s.unitOf v

/-- Where the program goes on after one word (R187). -/
def NextPos (u : UnitId) (s t : State) : Prop := (t.unitOf u).pos = (s.unitOf u).next.pos

/-- The rest of a unit's state, beside the named registers and its place in the program, is as it was. -/
def KeepsFile (u : UnitId) (s t : State) : Prop :=
  (t.unitOf u).work.v = (s.unitOf u).work.v ∧ (t.unitOf u).work.tiles = (s.unitOf u).work.tiles
def KeepsX (u : UnitId) (s t : State) : Prop := (t.unitOf u).x = (s.unitOf u).x
def KeepsLatch (u : UnitId) (s t : State) : Prop :=
  (t.unitOf u).work.latchStatus = (s.unitOf u).work.latchStatus ∧ (t.unitOf u).work.latchIndex = (s.unitOf u).work.latchIndex
def KeepsMsel (u : UnitId) (s t : State) : Prop := (t.unitOf u).work.msel = (s.unitOf u).work.msel

/-- The entry that a word's MOD field names is not empty (R184). -/
def ModValid (s : State) (u : UnitId) (mod : BitVec 5) : Prop := (modEntry s u mod.toNat).kind ≠ 0

/-- The state in which unit `u` has issued a cluster operation and waits (R190). -/
def entered (u : UnitId) (s : State) : State :=
  onUnitOf u (fun x => { x with wait := .clusterOp, clusterOps := x.clusterOps + 1 }) s

/-- The unit is the last of the eight to issue: its cluster operation starts with this word (R190). -/
def StartsClusterOp (s : State) (u : UnitId) (f : OFmt) : Prop :=
  CanIssue s u f.sync ∧ clusterOpReady (entered u s) u = true

/-- The state in which the cluster operation's effect begins: the eight units have met (R190, R191). -/
def started (u : UnitId) (s : State) : State := meet (eight u) (entered u s)

/-- All eight units go on, unless the operation aborted the beat. -/
def resumed (u : UnitId) (t : State) : State :=
  if (t.clusterOf u).aborted then t
  else forAll (allUnits u) (fun v => onUnitOf v fun x => { x.next with wait := .none }) (meet (eight u) t)

/-- A range inside one page that a unit of `u`'s partition may read, clean, at the key `k` (R193, R199), and that no other unit has
written in this step without a barrier between (R191). -/
def Readable (s : State) (u : UnitId) (va n k : Nat) : Prop :=
  va % 65536 + n ≤ 65536 ∧ s.translate u.part va 0 = .ok k ∧ k + n ≤ 2 ^ 64 ∧ s.poisonedAt k n = false
    ∧ (linesOf k n).any (raced s u) = false

/-- A range inside one page that a unit of `u`'s partition may write, at the key `k`, with room in the journal (R158, R199), and
that no other unit has written in this step without a barrier between (R191). -/
def Writable (s : State) (u : UnitId) (va n k : Nat) : Prop :=
  va % 65536 + n ≤ 65536 ∧ s.translate u.part va 1 = .ok k ∧ k + n ≤ 2 ^ 64
    ∧ (s.clusterOf u).journalLines.length + n / 64 + 2 ≤ 16384 ∧ (linesOf k n).any (raced s u) = false

/-- Every byte outside `n` bytes at `k` is as it was. -/
def KeepsBytesOutside (k n : Nat) (s t : State) : Prop := ∀ a, a < k ∨ k + n ≤ a → t.byteAt a = s.byteAt a

/-- What a unit's work on memory may touch: units, clusters, memory, and the translation caches in the partition. -/
def OnlyWork (s t : State) : Prop :=
  t = { s with units := t.units, clusters := t.clusters, mem := t.mem, parts := t.parts }

/-- The eight units of the cluster wait for nothing. -/
def AllGoOn (u : UnitId) (t : State) : Prop := ∀ n : UnitIx, (t.unit u.die u.cluster n).wait = .none

/-! ### Commands of the rings -/

/-- The command comes from function 0 of the managing port, which alone may give device commands (R352). -/
def FromF0 (s : State) (c : Cmd) : Prop := c.fn = .f0 s.hub.managing

/-- The command comes from the function of a partition that takes commands: IDLE, LOADED or DEGRADED, and the command is none
of those whose completions were posted before a divergence (R268, R358). -/
def FromPart (s : State) (c : Cmd) (p : Part) (op : Nat) : Prop :=
  c.fn = .part p ∧ ((s.part p).phase = .idle ∨ (s.part p).phase = .loaded ∨ (s.part p).phase = .degraded)
    ∧ (s.part p).twin.mute.contains (c.tag, BitVec.ofNat 8 op) = false

/-- The command's completion can be posted on its function (R268, R352). -/
def Answers (s : State) (c : Cmd) (op : Nat) : Prop :=
  match c.fn with
  | .f0 q => q = s.hub.managing
  | .part p => (s.part p).twin.mute.contains (c.tag, BitVec.ofNat 8 op) = false

/-- One completion more waits for the ring of the command's function, with this status, AUX and RESULT (R356). -/
def Completed (s t : State) (c : Cmd) (op : Nat) (st : Status) (aux result : Nat) : Prop :=
  ∃ l, (t.hif c.fn).cplPending = (s.hif c.fn).cplPending ++ l
    ∧ (⟨c.tag, st, BitVec.ofNat 8 op, BitVec.ofNat 16 aux, BitVec.ofNat 64 result⟩ : Completion) ∈ l

/-- The partition re-enacts nothing (R267, R269). -/
def NotReplaying (s : State) (p : Part) : Prop := (s.part p).twin.phase ≠ .replaying ∧ (s.part p).twin.replayStatus ≠ 1

/-- The command names context `k` and the round it holds (R359). -/
def NamesRound (s : State) (p : Part) (k : Ctx) (r : RoundRef) : Prop :=
  r.context.toNat = k.val ∧ (s.ctx p k).phase ≠ .free ∧ (s.ctx p k).policy.roundId = r.roundId.toNat

/-- The slot header of a context can be written: its page is mapped with release permission, at the key, and no write of the
context waits or has stopped inside it (R43, R204). -/
def HeaderAt (s : State) (p : Part) (k : Ctx) (va key : Nat) : Prop :=
  va % 64 = 0 ∧ s.translate p va 4 = .ok key ∧ agentWaitsAny (s.part p).mem (.slot k) = false
    ∧ (s.part p).twin.keepsSlots = false ∧ writeFrom (s.ctx p k) va 64 = va

/-- Every other context and every other partition is as it was. -/
def OnlyContext (p : Part) (k : Ctx) (s t : State) : Prop :=
  (∀ j, j ≠ k → t.ctx p j = s.ctx p j) ∧ ∀ q, q ≠ p → t.part q = s.part q

/-- Only one partition differs. -/
def OnlyPart (p : Part) (s t : State) : Prop := t = { s with parts := t.parts } ∧ ∀ q, q ≠ p → t.part q = s.part q

/-! ### Connections and links -/

/-- Every other connection is as it was. -/
def OtherConns (n : Nat) (s t : State) : Prop := ∀ m, m ≠ n → t.conn m = s.conn m

/-- The sub-port carries traffic: its link is up with an association (R218). -/
def Carries (s : State) (q : RPort) (b : SubPort) : Prop := (s.sub q b).linkUp = true ∧ (s.sub q b).assoc.isSome = true

/-- The connections are listed once each, in rising order. -/
def ConnsRise (s : State) : Prop := (s.rxt.conns.map (·.1)).Pairwise (· < ·)

/-- A CONNECT message reaches the connection it is for: one that is CONNECTING, without an agreement yet (R297). -/
def ForConnecting (s : State) (n : Nat) (b : ConnectBody) : Prop :=
  (s.conn n).state = .connecting ∧ (s.conn n).agreed = false ∧ b.conn = (s.conn n).remoteConn
    ∧ b.partition.toNat = (s.conn n).remotePart.val

/-- The user contexts a link die caches fit beside the fabric contexts pinned there (R229). -/
def CacheFits (s : State) (die : Fin 4) : Prop := (s.rxt.cache[die]).length ≤ 4096 - pinnedOn s die.val

/-- A frame's first two checks and the receive buffer let it in, unmarked: its MACsec association takes it, it is for this
sub-port's address and port and no longer than the MTU, and its partition's share of the buffer has room (R217, R225, R244). -/
def FrameAdmitted (s : State) (f : RxtFrame) : Prop :=
  let x := s.sub f.port f.sub
  x.linkUp = true ∧ (macsec x f.sec).isSome = true ∧ forUs x f = true ∧ shareFull s f = false
    ∧ (bufferedFrame s f).marked = false

/-- A frame passes checks 1 to 7 of R225 on a READY connection whose context is at hand: it has this package's instar and comes
from the connection's remote end, and nothing keeps the partition from taking data. -/
def FrameAccepted (s : State) (f : RxtFrame) : Prop :=
  let c := s.conn f.destConn.toNat
  FrameAdmitted s f ∧ ctxAtHand s f.port f.destConn.toNat = true ∧ CacheFits s (linkDie f.port)
    ∧ f.instar.toNat = s.sys.instar ∧ fromRemote c f = true ∧ notNow s c.part = false ∧ c.state = .ready

/-- A CONNECT packet on a fabric context passes checks 1 to 10 of R225 (R296, R417). -/
def ConnectAccepted (s : State) (f : RxtFrame) (b : ConnectBody) : Prop :=
  let c := s.conn f.destConn.toNat
  FrameAdmitted s f ∧ c.fabric = true ∧ f.instar.toNat = s.sys.instar ∧ fromRemote c f = true ∧ connectOk f b = true

/-- The PSN of a frame. -/
def psnOf (s : State) (f : RxtFrame) : Nat := widen (s.conn f.destConn.toNat).rxPsn f.psn.toNat

/-- A packet passes checks 8 to 11: it is new, inside both windows, well formed, and its seal verifies. -/
def InSequence (s : State) (op : U8) (f : RxtFrame) : Prop :=
  let c := s.conn f.destConn.toNat
  c.rxPsn ≤ psnOf s f ∧ psnOf s f < c.rxPsn + 1024 ∧ psnOf s f ∉ c.received
    ∧ (s.part c.part).rxt.inFlight.any (fun w => w.conn == f.destConn.toNat && w.psn == psnOf s f) = false
    ∧ (f.msgId - c.rxMsgBase).toNat < 256
    ∧ ((tfind c.msgs f.msgId.toNat).isSome = true ∨ openOn s f.port < 65536) ∧ formOk c op f = true
    ∧ (c.fabric = true → sealOk c op (psnOf s f) f.destConn.toNat f = true)

/-- The packet of a PSN counts as received. -/
def PsnTaken (c : Conn) (psn : Nat) : Prop := psn < c.rxPsn ∨ psn ∈ c.received

/-- A page-bounded range that RXT may place in, at the key `k`; no key-set lies there, and no placement waits on the page (R204,
R110). -/
def Placeable (s : State) (p : Part) (va n k : Nat) : Prop :=
  0 < n ∧ va % 65536 + n ≤ 65536 ∧ s.translate p va 2 = .ok k ∧ k + n ≤ 2 ^ 64
    ∧ keysetPage s p (va / 65536 * 65536) = false ∧ placementWaits (s.part p).mem (pagesOf va n) = false

/-- The bytes stand at the key, and every other byte of device memory is as it was. -/
def Landed (s t : State) (k : Nat) (b : Bytes) : Prop :=
  t.bytesAt k b.length = b ∧ ∀ a, a < 2 ^ 64 → (a < k ∨ k + b.length ≤ a) → t.byteAt a = s.byteAt a

/-! ### Registers, the mailbox and SPDM -/

/-- A register write of the managing port's host reaches function 0 (R348, R352). -/
def F0Open (s : State) (q : PciePort) : Prop := barOpen s (.f0 q) = true ∧ q = s.hub.managing

/-- The mailbox takes a command of that host: it is not busy, and Toxel or a recovery image runs (R300, R309). -/
def MailboxOpen (s : State) (q : PciePort) : Prop := F0Open s q ∧ s.key.mbxState ≠ 1 ∧ booted s = true

/-- The mailbox command has ended with this status and this many bytes of result. -/
def MailboxEnds (t : State) (st : Status) (n : Nat) : Prop :=
  t.key.mbxState = 2 ∧ t.key.mbxStatus = st ∧ t.key.mbxLen = n

/-- The DOE instance of the port takes an object, and version, capabilities and algorithms are agreed (R305, R367). -/
def SpdmOpen (s : State) (q : PciePort) : Prop :=
  (s.hub.doe[q]).busy = false ∧ (s.hub.doe[q]).version = true ∧ (s.hub.doe[q]).capabilities = true
    ∧ (s.hub.doe[q]).algorithms = true

/-- The DOE instance of the port holds this answer; the other port's is as it was. -/
def Answered (s t : State) (q : PciePort) (r : SpdmResponse) : Prop :=
  (t.hub.doe[q]).response = some r ∧ ∀ p, p ≠ q → t.hub.doe[p] = s.hub.doe[p]

/-- A write to a function's own registers reaches it (R281, R282, R348). -/
def FnOpen (s : State) (fn : Fn) : Prop :=
  barOpen s fn = true ∧ match fn with
    | .f0 _ => True
    | .part p => ideHeld s p = false

/-- No two logical clusters of a die have one slice (R18). -/
def RolesDistinct (s : State) : Prop := ∀ d c c' n, s.physOf d c = some n → s.physOf d c' = some n → c = c'

/-- A unit's tiles are listed once each, under the numbers of R130. -/
def TilesListed (l : Tbl Tile) : Prop := (tkeys l).Nodup ∧ ∀ i ∈ tkeys l, i < 64

/-- The other functions' host-interface sets, and memory, are as they were. -/
def OnlyHif (fn : Fn) (s t : State) : Prop := (∀ g, g ≠ fn → t.hif g = s.hif g) ∧ t.mem = s.mem

end Sys2Proof.Machine
end

