-- ==== Sys2Proof/Certificates/Slice0/Obligations.lean ====
section
/-! DEFINITION. The statements for the provers. Each docstring says what the statement says and names the rules of spec/ it
rests on. "Completes" clauses end in a next state; frames are written `t = { s with … }`: every field not named is as it was. -/

open Sys2Proof Sys2Proof.Machine

/-- For every state and command, a step with the command at the front of the queue is its effect on the state whose queue is
the rest; with an empty queue a step leaves the state as it is (the idle step is the model's choice, log entry 2).
(08_beats_structure.md; 17_host_interface.md) -/
def Obligations.StepRunsFrontCommand : Prop :=
  (∀ (c : Instr) (rest : List Instr) (s : State),
    step { s with pending := c :: rest } = exec c { s with pending := rest }) ∧
  ∀ s : State, s.pending = [] → step s = .next s

/-- For every unit that can issue the word: NOP only goes on; XADD writes X[XA] + X[XB] + IMM to X[XD] (X0 reads zero and
discards) and no other index register; LOOP pushes its body of one or more words for IMM passes and goes on with the next
word; LOOPX does so for X[XA] passes where 1 <= X[XA] <= IMM, and skips the body where X[XA] or the body is zero; MSEL with a
valid entry writes the default entry number; WAITS goes on at once when no asynchronous operation is left and else waits.
Registers, tiles and the status latch, every other unit and every other field of the state, all of memory among them, are
unchanged. (R178; R183; R184; R187) -/
def Obligations.UnitControlCompletes : Prop :=
  ∀ (s : State) (u : UnitId) (f : XFmt), CanIssue s u f.sync →
    (∃ t, exec (.nop u f) s = .next t ∧ OnlyUnit u s t ∧ NextPos u s t ∧ KeepsX u s t ∧ KeepsFile u s t ∧ KeepsLatch u s t
      ∧ KeepsMsel u s t) ∧
    (∃ t, exec (.xadd u f) s = .next t ∧ OnlyUnit u s t ∧ NextPos u s t ∧ KeepsFile u s t ∧ KeepsLatch u s t ∧ KeepsMsel u s t
      ∧ (∀ j, t.x u j = if j = f.xd ∧ j ≠ 0 then s.x u f.xa + s.x u f.xb + f.imm else s.x u j)) ∧
    (1 ≤ f.imm.toNat → f.imm.toNat < 2 ^ 32 → 1 ≤ f.body.toNat →
      ∃ t, exec (.loop u f) s = .next t ∧ OnlyUnit u s t ∧ KeepsX u s t ∧ KeepsFile u s t ∧ KeepsLatch u s t ∧ KeepsMsel u s t
        ∧ (t.unitOf u).pos = (s.unitOf u).pos + 1
        ∧ (t.unitOf u).loops = ⟨(s.unitOf u).pos + 1, (s.unitOf u).pos + f.body.toNat, f.imm.toNat⟩ :: (s.unitOf u).loops) ∧
    ((s.x u f.xa).toNat ≤ f.imm.toNat → 1 ≤ (s.x u f.xa).toNat → 1 ≤ f.body.toNat →
      ∃ t, exec (.loopx u f) s = .next t ∧ OnlyUnit u s t ∧ KeepsX u s t ∧ KeepsFile u s t ∧ KeepsLatch u s t ∧ KeepsMsel u s t
        ∧ (t.unitOf u).pos = (s.unitOf u).pos + 1
        ∧ (t.unitOf u).loops
          = ⟨(s.unitOf u).pos + 1, (s.unitOf u).pos + f.body.toNat, (s.x u f.xa).toNat⟩ :: (s.unitOf u).loops) ∧
    ((s.x u f.xa).toNat ≤ f.imm.toNat → ((s.x u f.xa).toNat = 0 ∨ f.body.toNat = 0) →
      ∃ t, exec (.loopx u f) s = .next t ∧ OnlyUnit u s t ∧ KeepsX u s t ∧ KeepsFile u s t ∧ KeepsLatch u s t ∧ KeepsMsel u s t
        ∧ ((s.unitOf u).loops = [] → (t.unitOf u).loops = [] ∧ (t.unitOf u).pos = (s.unitOf u).pos + f.body.toNat + 1)) ∧
    ((modEntry s u (f.imm.toNat % 16)).kind ≠ 0 →
      ∃ t, exec (.msel u f) s = .next t ∧ OnlyUnit u s t ∧ NextPos u s t ∧ KeepsX u s t ∧ KeepsFile u s t ∧ KeepsLatch u s t
        ∧ (t.unitOf u).work.msel = f.imm.extractLsb' 0 4) ∧
    (∃ t, exec (.waits u f) s = .next t ∧ OnlyUnit u s t ∧ NextPos u s t ∧ KeepsX u s t ∧ KeepsFile u s t ∧ KeepsLatch u s t
      ∧ KeepsMsel u s t ∧ (t.unitOf u).wait = if (s.unitOf u).asyncs.isEmpty then .none else .asyncs)

/-- A NOP at the last word of the innermost loop's body, with more than one pass left, goes on at the body's first word with
one pass less; with one pass left it leaves that loop and, where the next loop out does not end there too, goes on with the
word after the body. Where X[XA] exceeds IMM, LOOPX answers a next state in which the cluster has aborted its beat and is marked
to have overrun. A word whose unit cannot issue changes nothing. (R159; R187) -/
def Obligations.LoopsRepeatAndOverrun : Prop :=
  ∀ (s : State) (u : UnitId) (f : XFmt),
    (∀ (l : LoopFrame) (rest : List LoopFrame), CanIssue s u f.sync → (s.unitOf u).loops = l :: rest → (s.unitOf u).pos = l.last →
      (1 < l.left → ∃ t, exec (.nop u f) s = .next t ∧ OnlyUnit u s t ∧ (t.unitOf u).pos = l.start
        ∧ (t.unitOf u).loops = { l with left := l.left - 1 } :: rest) ∧
      (l.left ≤ 1 → (∀ m ∈ rest.head?, l.last + 1 ≤ m.last) → ∃ t, exec (.nop u f) s = .next t ∧ OnlyUnit u s t
        ∧ (t.unitOf u).pos = l.last + 1 ∧ (t.unitOf u).loops = rest)) ∧
    (CanIssue s u f.sync → f.imm.toNat < (s.x u f.xa).toNat →
      ∃ t, exec (.loopx u f) s = .next t ∧ (t.clusterOf u).aborted = true ∧ (t.clusterOf u).overrun = true) ∧
    (unitReady s u = false → exec (.loopx u f) s = .next s ∧ exec (.nop u f) s = .next s)

/-- A unit that issues BARRIER waits, with its count of barriers raised by one, and one that issues RBARRIER waits with its
region count raised and its mask noted. When the last of the eight units has reached the barrier a unit waits at, BARRIER_
RELEASE lets that unit go on; a unit whose barrier not all eight have reached stays. The region release does the same over
the clusters the mask names. Memory and every field but the unit table are unchanged. (R184) -/
def Obligations.BarriersHoldAndRelease : Prop :=
  (∀ (s : State) (u : UnitId) (f : XFmt), CanIssue s u f.sync →
    (∃ t, exec (.barrier u f) s = .next t ∧ OnlyUnit u s t ∧ NextPos u s t ∧ KeepsX u s t ∧ KeepsFile u s t
      ∧ (t.unitOf u).wait = .barrier ∧ (t.unitOf u).barriers = (s.unitOf u).barriers + 1) ∧
    (∃ t, exec (.rbarrier u f) s = .next t ∧ OnlyUnit u s t ∧ NextPos u s t ∧ KeepsX u s t ∧ KeepsFile u s t
      ∧ (t.unitOf u).wait = .rbarrier ∧ (t.unitOf u).rbarriers = (s.unitOf u).rbarriers + 1
      ∧ (t.unitOf u).rmask = f.imm.extractLsb' 0 8)) ∧
  (∀ (s : State) (p : Part) (d : Die) (c : Cluster) (u : UnitIx), s.ownerOf d = some p →
    (∃ t, exec (.barrierRelease p d c false) s = .next t ∧ t = { s with units := t.units }
      ∧ ((s.unit d c u).wait = .barrier →
          (t.unit d c u).wait = if barrierMet s d c (s.unit d c u).barriers then .none else .barrier)) ∧
    (∃ t, exec (.barrierRelease p d c true) s = .next t ∧ t = { s with units := t.units }
      ∧ ((s.unit d c u).wait = .rbarrier →
          (t.unit d c u).wait = if rbarrierMet s d c (s.unit d c u).rmask (s.unit d c u).rbarriers then .none else .rbarrier)))

/-- For every unit that can issue the word, a well-formed V word of one repetition with a valid modulus entry writes VD
element by element: the sum, difference, negation, copy, product, product with the immediate, reduction, or the immediate
modulo m, under the entry MOD names; VD is poisoned where a source register was (VSPLAT: clean). Every other register, all
tiles, index registers, the latch, the other units, memory and every other field are unchanged. (R183; R184; R189; R193) -/
def Obligations.VectorOpsCompute : Prop :=
  ∀ (s : State) (u : UnitId) (f : VFmt), CanIssue s u f.sync → f.wf = true → ModValid s u f.mod → f.rep = 0 →
    let e := modEntry s u f.mod.toNat
    let a := (s.unitOf u).work.reg f.va.toNat
    let b := (s.unitOf u).work.reg f.vb.toNat
    let w := e.wide
    let does (i : Instr) (l : List Nat) (q : Bool) : Prop := ∃ t, exec i s = .next t ∧ OnlyUnit u s t ∧ NextPos u s t
      ∧ KeepsX u s t ∧ KeepsLatch u s t ∧ KeepsMsel u s t ∧ (t.unitOf u).work.tiles = (s.unitOf u).work.tiles
      ∧ (t.unitOf u).work.reg f.vd.toNat = VReg.ofElems w l q
      ∧ ∀ n, n ≠ f.vd.toNat → (t.unitOf u).work.reg n = (s.unitOf u).work.reg n
    does (.vadd u f) ((a.elems w).zipWith (modAdd e) (b.elems w)) (a.poison || b.poison) ∧
    does (.vsub u f) ((a.elems w).zipWith (modSub e) (b.elems w)) (a.poison || b.poison) ∧
    does (.vneg u f) ((a.elems w).map (modSub e 0)) a.poison ∧
    does (.vmov u f) (a.elems w) a.poison ∧
    does (.vmul u f) ((a.elems w).zipWith (modMul e) (b.elems w)) (a.poison || b.poison) ∧
    does (.vmuls u f) ((a.elems w).map fun x => modMul e x (f.imm.toNat % e.size)) a.poison ∧
    does (.vred u f) ((a.elems w).map (reduce e)) a.poison ∧
    does (.vsplat u f) (List.replicate 32 (f.imm.toNat % e.size)) false

/-- For every unit that can issue the word, a well-formed V word of one repetition with a valid modulus entry: TACC, TMAC and
TMACS put the reduced register, product or product with the immediate into the tile, in place of its value or added lane by
lane (a tile that already holds 2^16 terms is reduced first, and counts one); poison of a source joins. TREAD reduces the
tile in place and copies it to VD; TPOIS sets its poison bit. Other tiles, other registers, index registers, the latch, other
units and memory are unchanged. (R129; R130; R132; R184; R193) -/
def Obligations.TileOpsAccumulate : Prop :=
  ∀ (s : State) (u : UnitId) (f : VFmt), CanIssue s u f.sync → f.wf = true → ModValid s u f.mod → f.rep = 0 →
    let e := modEntry s u f.mod.toNat
    let a := (s.unitOf u).work.reg f.va.toNat
    let b := (s.unitOf u).work.reg f.vb.toNat
    let old := (s.unitOf u).work.tile f.tile.toNat
    let does (i : Instr) (x : Tile) : Prop := ∃ t, exec i s = .next t ∧ OnlyUnit u s t ∧ NextPos u s t ∧ KeepsX u s t
      ∧ KeepsLatch u s t ∧ KeepsMsel u s t ∧ (t.unitOf u).work.v = (s.unitOf u).work.v
      ∧ (t.unitOf u).work.tile f.tile.toNat = x
      ∧ ∀ n, n ≠ f.tile.toNat → (t.unitOf u).work.tile n = (s.unitOf u).work.tile n
    let put (l : List Nat) (q : Bool) : Tile :=
      if f.acc then
        let o := if old.count = 65536 then Tile.ofElems e.wide ((old.elems e.wide).map (reduce e)) 1 old.poison else old
        Tile.ofElems e.wide ((o.elems e.wide).zipWith (· + ·) l) (o.count + 1) (o.poison || q)
      else Tile.ofElems e.wide l 1 q
    does (.tacc u f) (put ((a.elems e.wide).map (reduce e)) a.poison) ∧
    does (.tmac u f) (put ((a.elems e.wide).zipWith (modMul e) (b.elems e.wide)) (a.poison || b.poison)) ∧
    does (.tmacs u f) (put ((a.elems e.wide).map fun x => modMul e x (f.imm.toNat % e.size)) a.poison) ∧
    does (.tpois u f) { old with poison := true } ∧
    ∃ t, exec (.tread u f) s = .next t ∧ OnlyUnit u s t ∧ NextPos u s t ∧ KeepsX u s t ∧ KeepsLatch u s t ∧ KeepsMsel u s t
      ∧ (t.unitOf u).work.tile f.tile.toNat = old.reduced e
      ∧ (∀ n, n ≠ f.tile.toNat → (t.unitOf u).work.tile n = (s.unitOf u).work.tile n)
      ∧ (t.unitOf u).work.reg f.vd.toNat = VReg.ofElems e.wide ((old.reduced e).elems e.wide) old.poison
      ∧ ∀ n, n ≠ f.vd.toNat → (t.unitOf u).work.reg n = (s.unitOf u).work.reg n

/-- For a unit that can issue the word, of one repetition, on an aligned address whose page is mapped in the cluster's own
slice, which no asynchronous operation of the unit touches and no other unit has written in the step without a barrier
between: LD fills VD with the 128 bytes (poisoned where the lines are), TLD puts or adds them, reduced, into the tile, XLD
loads the 8 bytes into X[XD]; none of them changes a byte of memory. ST stores the 128 bytes of VD, and TST those of the tile
reduced in place, at the translated address: those bytes read back, with the register's or tile's poison, or with the poison
that stays in a round's accumulator range, and every other byte is unchanged. (R132; R158; R184; R185; R193) -/
def Obligations.UnitMemoryAccess : Prop :=
  ∀ (s : State) (u : UnitId) (leaf : U64), ownLeaf u leaf = true →
    (∀ (f : MFmt) (k : Nat), CanIssue s u f.sync → f.rep = 0 → f.wf = true → mAddr f s u 0 % 128 = 0 →
      s.leafAt u.part (mAddr f s u 0) = some leaf → interlocked s u (mAddr f s u 0) 128 = false →
      let e := modEntry s u f.mod.toNat
      (s.translate u.part (mAddr f s u 0) 0 = .ok k → (linesOf k 128).any (raced s u) = false → f.mod = 0 →
        ∃ t, exec (.ld u f) s = .next t ∧ NextPos u s t ∧ KeepsX u s t ∧ t.mem.cells = s.mem.cells
          ∧ (t.unitOf u).work.reg f.vd.toNat = VReg.ofBytes (s.bytesAt k 128) (s.poisonedAt k 128)
          ∧ (∀ n, n ≠ f.vd.toNat → (t.unitOf u).work.reg n = (s.unitOf u).work.reg n)
          ∧ (t.unitOf u).work.tiles = (s.unitOf u).work.tiles ∧ ∀ v, OtherUnit u v → t.unitOf v = s.unitOf v) ∧
      (s.translate u.part (mAddr f s u 0) 0 = .ok k → (linesOf k 128).any (raced s u) = false → ModValid s u f.mod →
        ∃ t, exec (.tld u f) s = .next t ∧ NextPos u s t ∧ KeepsX u s t ∧ t.mem.cells = s.mem.cells
          ∧ (t.unitOf u).work.tile f.tile.toNat = Tile.write e f.acc
              (((VReg.ofBytes (s.bytesAt k 128) (s.poisonedAt k 128)).elems e.wide).map (reduce e)) (s.poisonedAt k 128)
              ((s.unitOf u).work.tile f.tile.toNat)
          ∧ (∀ n, n ≠ f.tile.toNat → (t.unitOf u).work.tile n = (s.unitOf u).work.tile n)
          ∧ (t.unitOf u).work.v = (s.unitOf u).work.v ∧ ∀ v, OtherUnit u v → t.unitOf v = s.unitOf v) ∧
      (s.translate u.part (mAddr f s u 0) 1 = .ok k → Memory.wf s.mem = true →
        (s.clusterOf u).journalLines.length + 2 ≤ 16384 → (linesOf k 128).any (raced s u) = false →
        (f.mod = 0 → ∃ t, exec (.st u f) s = .next t ∧ OnlyWork s t ∧ NextPos u s t ∧ KeepsX u s t ∧ KeepsFile u s t
          ∧ t.bytesAt k 128 = ((s.unitOf u).work.reg f.vd.toNat).bytes
          ∧ t.poisonedAt k 128 = (((s.unitOf u).work.reg f.vd.toNat).poison || !(stickyLines s u.part (mAddr f s u 0) k 128).isEmpty)
          ∧ KeepsBytesOutside k 128 s t) ∧
        (ModValid s u f.mod → ∃ t, exec (.tst u f) s = .next t ∧ OnlyWork s t ∧ NextPos u s t ∧ KeepsX u s t
          ∧ (t.unitOf u).work.tile f.tile.toNat = ((s.unitOf u).work.tile f.tile.toNat).reduced e
          ∧ (∀ n, n ≠ f.tile.toNat → (t.unitOf u).work.tile n = (s.unitOf u).work.tile n)
          ∧ (t.unitOf u).work.v = (s.unitOf u).work.v
          ∧ t.bytesAt k 128 = (VReg.ofElems e.wide ((((s.unitOf u).work.tile f.tile.toNat).reduced e).elems e.wide) false).bytes
          ∧ t.poisonedAt k 128 = (((s.unitOf u).work.tile f.tile.toNat).poison || !(stickyLines s u.part (mAddr f s u 0) k 128).isEmpty)
          ∧ KeepsBytesOutside k 128 s t))) ∧
    (∀ (f : XFmt) (k : Nat), CanIssue s u f.sync →
      let a := addr (s.x u f.xa) f.imm.toNat
      a % 8 = 0 → s.leafAt u.part a = some leaf → interlocked s u a 8 = false → s.translate u.part a 0 = .ok k →
      (linesOf k 8).any (raced s u) = false →
      ∃ t, exec (.xld u f) s = .next t ∧ NextPos u s t ∧ KeepsFile u s t ∧ t.mem.cells = s.mem.cells
        ∧ (∀ j, t.x u j = if j = f.xd ∧ j ≠ 0 then BitVec.ofNat 64 (leNat (s.bytesAt k 8)) else s.x u j)
        ∧ ∀ v, OtherUnit u v → t.unitOf v = s.unitOf v)

/-- For a unit that can issue the word, FPADD, SCOPY, SZERO, VJOINT, XMIT, TDEC, TRED, TMERGE, TCLIP, TSTAT, TOPT and TENC,
PRG and HASH of a length other than zero, and SAMPLE and (with NOISE in the round) TNOISE whose draws the release instance
can serve, append one operation of their engine, with the word, its place in the program and the index registers as they are,
to the unit's outstanding ones; a PRG, HASH or SAMPLE of length zero only goes on. A SAMPLE whose draw is refused does not go
on: the unit waits, and its latch, if clear, takes ENTROPY_FAIL. Memory, registers, tiles, other units are unchanged. (R184;
R191; R192; R320; R322) -/
def Obligations.StreamOpsIssue : Prop :=
  ∀ (s : State) (u : UnitId) (sf : SFmt) (tf : TFmt) (xf : XFmt),
    CanIssue s u sf.sync → CanIssue s u tf.sync → CanIssue s u xf.sync →
    let issues (i : Instr) (e : Engine) : Prop := ∃ t, exec i s = .next t ∧ OnlyUnit u s t ∧ NextPos u s t ∧ KeepsX u s t
      ∧ KeepsFile u s t ∧ KeepsLatch u s t ∧ KeepsMsel u s t
      ∧ (t.unitOf u).asyncs = (s.unitOf u).asyncs ++ [⟨e, i, (s.unitOf u).pos, (s.unitOf u).x, (s.unitOf u).syncs⟩]
    let skips (i : Instr) : Prop := ∃ t, exec i s = .next t ∧ OnlyUnit u s t ∧ NextPos u s t ∧ KeepsX u s t ∧ KeepsFile u s t
      ∧ (t.unitOf u).asyncs = (s.unitOf u).asyncs
    let served (k : Ctx) : Prop := (s.ctx u.part k).phase = .free ∨ drawsServed s u.part k = true
    issues (.fpadd u xf) .fingerprint ∧ issues (.scopy u sf) .crossbar ∧ issues (.szero u sf) .crossbar ∧
    issues (.vjoint u sf) .aes ∧ issues (.xmit u sf) .port ∧ issues (.tdec u tf) .tally ∧ issues (.tred u tf) .tally ∧
    issues (.tmerge u tf) .tally ∧ issues (.tclip u tf) .tally ∧ issues (.tstat u tf) .tally ∧ issues (.topt u tf) .tally ∧
    issues (.tenc u tf) .tally ∧
    ((s.ctx u.part tf.ctx.toFin).policy.stepNoise = false ∨ served tf.ctx.toFin → issues (.tnoise u tf) .tally) ∧
    (sf.len ≠ 0 → issues (.prg u sf) .aes ∧ issues (.hash u sf) .fingerprint
      ∧ (served sf.ctx.toFin → issues (.sample u sf) .sampler)
      ∧ (¬ served sf.ctx.toFin → ∃ t, exec (.sample u sf) s = .next t ∧ (t.unitOf u).wait = .entropy
          ∧ (t.unitOf u).pos = (s.unitOf u).pos ∧ (t.unitOf u).asyncs = (s.unitOf u).asyncs ∧ t.mem = s.mem
          ∧ (t.unitOf u).work.latchStatus
              = if (s.unitOf u).work.latchStatus = .ok then .entropyFail else (s.unitOf u).work.latchStatus)) ∧
    (sf.len = 0 → skips (.prg u sf) ∧ skips (.hash u sf) ∧ skips (.sample u sf))

/-- When the oldest operation of the engine is SZERO, SCOPY or HASH on readable, clean sources and writable destinations
inside one page each, which no other unit has written in the step unordered by a barrier, its completion leaves zeros, the
source's bytes, or the SHA-256 of the source at the translated destination; every other byte of memory is unchanged; the
operation leaves the unit's list, and a unit that waits for its last one goes on. With no operation of that engine, and while
the oldest writes a line that an earlier operation of the unit still has to write, nothing changes. (R47; R132; R184; R191;
R193) -/
def Obligations.AsyncCompletionMovesBytes : Prop :=
  ∀ (s : State) (u : UnitId) (e : Engine), clusterRuns s u = true → Memory.wf s.mem = true →
    (((s.unitOf u).asyncs.find? fun o => o.engine == e) = none → exec (.asyncOpComplete u e) s = .next s) ∧
    (∀ o : AsyncOp, ((s.unitOf u).asyncs.find? fun o => o.engine == e) = some o → behindWrite s u o = true →
      exec (.asyncOpComplete u e) s = .next s) ∧
    ∀ (o : AsyncOp) (f : SFmt) (ks kd : Nat), ((s.unitOf u).asyncs.find? fun o => o.engine == e) = some o →
      behindWrite s u o = false →
      let n := f.len.toNat
      let left := (s.unitOf u).asyncs.erase o
      let moves (b : Bytes) : Prop := ∃ t, exec (.asyncOpComplete u e) s = .next t ∧ OnlyWork s t
        ∧ t.bytesAt kd b.length = b ∧ t.poisonedAt kd b.length = false ∧ KeepsBytesOutside kd b.length s t
        ∧ (t.unitOf u).asyncs = left
        ∧ (t.unitOf u).wait = (if (s.unitOf u).wait = .asyncs ∧ left = [] then .none else (s.unitOf u).wait)
        ∧ KeepsX u s t ∧ KeepsFile u s t ∧ ∀ v, OtherUnit u v → t.unitOf v = s.unitOf v
      (stickyLines s u.part (dstOf o f) kd n = [] → kd % 64 = 0 → n % 64 = 0 → Writable (asIssued u o s) u (dstOf o f) n kd →
        (o.instr = .szero u f → moves (zeroBytes n)) ∧
        (o.instr = .scopy u f → Readable (asIssued u o s) u (srcOf o f) n ks → moves (s.bytesAt ks n))) ∧
      (o.instr = .hash u f → s.poisonedAt kd 32 = false → Readable (asIssued u o s) u (srcOf o f) n ks → Writable (asIssued u o s) u (dstOf o f) 32 kd →
        moves (Crypto.bytes256 (Crypto.sha256 (s.bytesAt ks n))))

/-- For a well-formed word that starts its cluster operation, on a clean limb of 2^LOG_N words inside one readable and
writable page: NSTAGE and ISTAGE leave the Cooley-Tukey or Gentleman-Sande stage of the limb, NTTL and INTTL its whole
transform, in place, under the modulus of the named entry and the root its parameter set gives; AUTOL writes the
automorphism's permutation at X[XD]. Every other byte is unchanged, and the eight units go on. While another unit has not
issued, the word only waits. (R90; R184; R190) -/
def Obligations.LimbOpsTransform : Prop :=
  ∀ (s : State) (u : UnitId) (f : OFmt) (k : Nat), CanIssue s u f.sync → f.wf = true →
    (clusterOpReady (entered u s) u = false →
      (ModValid s u f.mod → exec (.nstage u f) s = .next (entered u s)) ∧ exec (.vcheck u f) s = .next (entered u s)) ∧
    (StartsClusterOp s u f → Memory.wf s.mem = true →
      let logN := f.p8.toNat
      let n := 4 * 2 ^ logN
      let e := modEntry s u f.mod.toNat
      let w := wordsOf (s.bytesAt k n)
      let leaves (i : Instr) (kd : Nat) (l : List Nat) : Prop := ∃ t, exec i s = .next t ∧ OnlyWork s t
        ∧ t.bytesAt kd n = wordBytes l ∧ KeepsBytesOutside kd n s t ∧ AllGoOn u t
      (Readable (started u s) u (s.x u f.xa).toNat n k →
        (Writable (started u s) u (s.x u f.xa).toNat n k → ∀ psi, nttRoot (s.imageOf u.part) logN e.modulus = some psi → e.kind = 1 →
          (f.p24.toNat % 32 < logN →
            leaves (.nstage u f) k (ctStage e.modulus psi logN (f.p24.toNat % 32) w) ∧
            leaves (.istage u f) k (gsStage e.modulus psi logN (f.p24.toNat % 32) w)) ∧
          leaves (.nttl u f) k (nttLimb e.modulus psi logN w) ∧
          (1 ≤ logN → leaves (.inttl u f) k (inttLimb e.modulus psi logN w))) ∧
        (∀ kd, Writable (started u s) u (s.x u f.xd).toNat n kd → f.p24.getLsbD 0 = true →
          leaves (.autol u f) kd (autoLimb logN (f.p24.toNat % 2 ^ 18) w))))

/-- For a well-formed word that starts its cluster operation in a round that is not FREE, with clean operands inside one page
each: VSHARE writes the 32 bytes of the party's verifier share, computed from the expanded input and proof at X[XA] and the
joint randomness and query point at X[XB]; VCHECK writes one byte, 0 where the sum of all parties' shares passes the product
and output checks and 1 where it does not. Every other byte is unchanged, and the eight units go on. (R69; R74; R75; R190) -/
def Obligations.VerifierOpsComplete : Prop :=
  ∀ (s : State) (u : UnitId) (f : OFmt) (ka kb kd : Nat), StartsClusterOp s u f → f.wf = true → Memory.wf s.mem = true →
    (s.ctx u.part (opCtx f)).phase ≠ .free →
    let p := (s.ctx u.part (opCtx f)).policy
    (Readable (started u s) u (s.x u f.xa).toNat (8 * (p.wireLen + p.proofLen)) ka →
      Readable (started u s) u (s.x u f.xb).toNat (8 * (p.gadgets + 2)) kb → Writable (started u s) u (s.x u f.xd).toNat 32 kd →
      let e := elemsOf (s.bytesAt ka (8 * (p.wireLen + p.proofLen)))
      let j := elemsOf (s.bytesAt kb (8 * (p.gadgets + 2)))
      ∃ t, exec (.vshare u f) s = .next t ∧ OnlyWork s t ∧ AllGoOn u t ∧ KeepsBytesOutside kd 32 s t
        ∧ t.bytesAt kd 32 = shareBytes (verifierShare p (p.partyIndex == 0) (e.take p.wireLen) (e.drop p.wireLen)
            (j.take (p.gadgets + 1)) (j.getD (p.gadgets + 1) 0))) ∧
    (Readable (started u s) u (s.x u f.xa).toNat (32 * p.parties) ka → Writable (started u s) u (s.x u f.xd).toNat 1 kd →
      ∃ t, exec (.vcheck u f) s = .next t ∧ OnlyWork s t ∧ AllGoOn u t ∧ KeepsBytesOutside kd 1 s t
        ∧ t.byteAt kd = if proofAccepted ((List.range p.parties).map fun i =>
            shareOfBytes (((s.bytesAt ka (32 * p.parties)).drop (32 * i)).take 32)) then 0 else 1)

/-- For a well-formed word that starts its cluster operation, whose operands read without a fault and pass the checks of
R104, and whose keys stream: ADD, SUB, ADD_PLAIN, MUL_PLAIN, MUL, ROTATE, CONJUGATE, RESCALE, LEVEL_DROP, NTT, INTT and
SLOT_SUM write the operation's header, POISONED clear, at X[XD] and its body, computed from the operands and the keys' words,
after it, and the eight units go on. Where the checks give another status, the destination header is written poisoned and the
units' latches take the status; where a key block is faulty, the destination is poisoned, its body unspecified, with the
block's status. (The conversion between prime bases and the scaling of a BFV product are free values, as the manual gives
neither: log entry 18.) (R100; R101; R103; R104; R190) -/
def Obligations.ObjectOpsComplete : Prop :=
  ∀ (s : State) (u : UnitId) (f : OFmt), StartsClusterOp s u f → f.wf = true →
    let xa := (s.x u f.xa).toNat
    let xb := (s.x u f.xb).toNat
    let xd := (s.x u f.xd).toNat
    let does (i : Instr) (vas : List Nat) (plan : Image → List Operand → ObjectOp) : Prop :=
      ∀ s1 l, readObjects u vas (started u s) = (s1, some l) →
        let o := plan (s1.imageOf u.part) l
        let a := (opNth l 0).h
        let keys := o.keys.map (findKey s1 u.part a.keyset a.paramSet)
        (∀ s2 kb, operandStatus s1 u.part l o keys = .ok → streamKeys u (keys.filterMap id) s1 = (s2, some (.ok kb)) →
          exec i s = .next (resumed u (opWriteMem u (xd + 64) (o.body kb) false
            (opWriteMem u xd { o.out with poisoned := false }.bytes false s2)))) ∧
        (∀ s2 e, operandStatus s1 u.part l o keys = .ok → streamKeys u (keys.filterMap id) s1 = (s2, some (.error e)) →
          exec i s = .next (resumed u (failOp u true [(xd, o.out)] e s2))) ∧
        (∀ st, st ≠ .ok → operandStatus s1 u.part l o keys = st →
          exec i s = .next (resumed u (failOp u false [(xd, a)] st s1)))
    does (.ctAdd u f) [xa, xb] (addPlan 0x38 addQ) ∧ does (.ctSub u f) [xa, xb] (addPlan 0x39 subQ) ∧
    does (.ctAddp u f) [xa, xb] addPlainPlan ∧ does (.ctMulp u f) [xa, xb] mulPlainPlan ∧ does (.ctMul u f) [xa, xb] mulPlan ∧
    does (.ctRot u f) [xa] (fun i l => galoisPlan 2 (galoisOf (opNth l 0).h.logN f.p24.toInt) i l) ∧
    does (.ctConj u f) [xa] (fun i l => galoisPlan 3 (2 * 2 ^ (opNth l 0).h.logN - 1) i l) ∧
    does (.ctRescale u f) [xa] rescalePlan ∧ does (.ctDrop u f) [xa] (dropPlan f.p24.toNat) ∧
    does (.ctNtt u f) [xa] (formPlan 0x41 true) ∧ does (.ctIntt u f) [xa] (formPlan 0x42 false) ∧
    does (.ctSlotsum u f) [xa] slotSumPlan

/-- For a well-formed word that starts its cluster operation: MOLT of a clean operand that fits its group, with both keys
found and streamed, the noise within IN_MAX and the region's store good, writes K_OUT destinations, each a ciphertext header
of the molt set's output level, noise and scale and the body that the table's lookup of the samples gives; MOLT_EX writes its
LWE batches of extracted samples. The eight units go on. (MOLT_EX names no table group, so the factor of its modulus switch is
free: log entry 174.) (R113; R114; R121; R122; R124) -/
def Obligations.MoltsComplete : Prop :=
  ∀ (s : State) (u : UnitId) (f : OFmt), StartsClusterOp s u f → f.wf = true → ∀ s1 o,
    readObject u (s.x u f.xa).toNat (started u s) = (s1, some o) →
    let i := s.imageOf u.part
    let r := setOf i o.h
    let key (n : KeyNeed) := findKey s1 u.part o.h.keyset o.h.paramSet n
    let dst (n : Nat) : Nat := addr (s.x u f.xd) (n * f.imm.toNat)
    (∀ s2 kb g m, i.groups[f.p24.toNat % 16]? = some g → i.molts[g.moltSet]? = some m → moltInputOk i o = true →
      moltFits i g m f.p8.toNat o = true → (moltKeys.map key).any Option.isNone = false → o.h.noise ≤ m.inMax →
      streamKeys u ((moltKeys.map key).filterMap id) s1 = (s2, some (.ok kb)) → storeBad s2 u = false →
      let extract := (keyNth kb 0).words
      let fold := nextPow2 g.kOut
      let l := moltSamples i m r extract fold f.p8.toNat o
      let table := moltTable m r (keyNth kb 1).words extract (storedTable (storeWords s2 u) i m (f.p24.toNat % 16)) fold
        l.2.1 l.2.2 l.1
      exec (.molt u f) s = .next (resumed u (forAll (List.range g.kOut) (fun t x =>
        opWriteMem u (dst t + 64) (ctBytes r m.outLevel false (table t)) false
          (opWriteMem u (dst t) (moltOut i m o.h).bytes false x)) s2))) ∧
    (∀ s2 kb n m, i.molts.findIdx? (fun m => m.outerSet == o.h.paramSet) = some n → i.molts[n]? = some m → o.clean = true →
      o.shape = true → o.h.fmt = 1 → f.p8.toNat ≤ o.h.logN → f.p8.toNat ≤ 17 →
      (let count := 2 ^ min f.p8.toNat (f.p24.toNat % 32)
       16 * count ≤ 2 ^ o.h.logN → (key ⟨5, 0, 0⟩).isSome = true → o.h.noise ≤ m.inMax →
       streamKeys u ([key ⟨5, 0, 0⟩].filterMap id) s1 = (s2, some (.ok kb)) →
       let l := extractAll m r (downKey r (keyNth kb 0).words) (2 ^ (Config.extractLog n % 3)) f.p8.toNat (ctOf r o)
       exec (.moltEx u f) s = .next (resumed u (forAll (List.range (2 ^ f.p8.toNat / count)) (fun b x =>
         opWriteMem u (dst b) (batchBytes n o.h f.p8.toNat (b * count) ((l.drop (b * count)).take count)) false x) s2))))

/-- For a well-formed word that starts its cluster operation: CT_FLOOD on a context in step 2 of its finalize whose draws are
served, with an encryption key found and streamed, adds the encryption of the drawn noise and flooding to the ciphertext in
place and in the staging area and counts its draws, and outside step 2 changes nothing; CT_COMBINE writes the decoded slots of
a clean ciphertext of the round's level and set with the shares at X[XB], and counts the ciphertext as decoded. The eight units
go on. (R106; R107; R108; R109; R151) -/
def Obligations.ReleaseObjectOpsComplete : Prop :=
  ∀ (s : State) (u : UnitId) (f : OFmt), StartsClusterOp s u f → f.wf = true →
    let xa := (s.x u f.xa).toNat
    let xd := (s.x u f.xd).toNat
    let c := s.ctx u.part (opCtx f)
    let j := f.p24.toNat
    (c.phase ≠ .free → drawsServed s u.part (opCtx f) = true →
      (c.inStepTwo = false → exec (.ctFlood u f) s = .next (resumed u (started u s))) ∧
      ∀ s1 a s2 kb, c.inStepTwo = true → readObjects u [xd] (started u s) = (s1, some [a]) →
      (let r := setOf (s1.imageOf u.part) a.h
       let z := floodDraws c r j
       let out : ObjHeader := { a.h with noise := noiseAdd (noiseAdd a.h.noise (4 * c.policy.floodBits)) r.incEnc }
       let o : ObjectOp := ⟨a.h.fmt == 1, [⟨6, 0, a.h.level⟩], out, fun kb => ctBytes r a.h.level a.h.ntt
         (ctAdd (r.basis a.h.level) (ctOf r a) (encryptUnder r a.h.level (keyNth kb 0)
           (encodeNoise r a.h c.policy.decodeF z.1.1) z.1.2.1 z.1.2.2.1 z.1.2.2.2))⟩
       let keys := o.keys.map (findKey s1 u.part a.h.keyset a.h.paramSet)
       operandStatus s1 u.part [a] o keys = .ok → streamKeys u (keys.filterMap id) s1 = (s2, some (.ok kb)) →
        let b := { out with poisoned := false }.bytes ++ o.body kb
        let t0 := opWriteMem u xd b false s2
        let t1 := unitStore u (stageKey u.part.val (opCtx f).val (j * b.length)) b false t0
        clusterRuns t0 u = true → clusterRuns t1 u = true →
        exec (.ctFlood u f) s = .next (resumed u
          (addDelta u { ctx := opCtx f, samples := z.2.1, retry := z.2.2, cover := [(6, j, 1)] }
            (State.onCtx u.part (opCtx f) (fun c => { c with enc := { c.enc with nbRelease := max c.enc.nbRelease out.noise } })
              t1))))) ∧
    (c.phase ≠ .free → ∀ s1 a s2 sh,
      readObject u xa (started u s) = (s1, some a) → a.clean = true → a.shape = true → a.h.fmt = 1 →
      a.h.level = c.policy.level → a.h.paramSet = c.policy.paramSet → a.h.keyset = c.policy.keysetId →
      (let r := setOf (s1.imageOf u.part) a.h
       unitRead u false (s1.x u f.xb).toNat (Policy.bodyBytes r 1 a.h.level) s1 = (s2, some (sh, false)) →
       let q := r.basis a.h.level
       let d := cutLimbs r.logN (wordsOf sh)
       let slot := decodedSlots r a.h.scale a.h.level
         (zipLimbs q addQ (partCoef r a 0) (if c.policy.encNtt then toCoef r.logN q d else d))
       let t0 := opWriteMem u (s1.x u f.xd).toNat
         ((List.range (min (Policy.slotsOf r) (c.policy.stretchLen - j * Policy.slotsOf r))).flatMap fun n => leBytes 8 (slot n)) false s2
       clusterRuns t0 u = true → exec (.ctCombine u f) s = .next (resumed u (State.onCtx u.part (opCtx f)
         (fun c => { c with enc := { c.enc with decoded := if c.enc.decoded.contains j then c.enc.decoded else j :: c.enc.decoded } })
         t0))))

/-- A creation that passes its checks while the device's instance can draw leaves the partition IDLE with the block's reservation,
owner of its dies, with key generation 1, and completes OK with the partition in AUX; while it cannot draw, the creation waits for
the source and completes nothing yet. A removal of an existing partition leaves it REMOVING with the next
key generation and no completion yet. Two boundaries after the four drain reports the partition's slices are zeros and its
dies are being zeroed. When zeroing ends the partition is ABSENT, its dies are free, and the removal completes OK. (R274;
R275; R283; R285; R319) -/
def Obligations.PartitionsAreCreatedAndRemoved : Prop :=
  (∀ (s : State) (c : Cmd) (pa : U64) (p : Part) (r : PartResv), FromF0 s c →
    createChecks (s.onKey fun k => { k with scanOpen := false }) pa = .ok (p, r) →
    (canGenerate s 0 = true →
      ∃ t, exec (.partCreate c pa) s = .next t ∧ (t.part p).phase = .idle ∧ (t.part p).keyGen = 1
        ∧ (t.part p).resv = { r with nonce := (t.part p).resv.nonce } ∧ (∀ d ∈ r.dies, (t.dies[d]).owner = some p)
        ∧ (∀ q, q ≠ p → t.part q = s.part q) ∧ Completed s t c 0x01 .ok p.val 0) ∧
    (canGenerate s 0 = false →
      exec (.partCreate c pa) s = .next (waitGenerate ⟨0, .create c p r⟩ (s.onKey fun k => { k with scanOpen := false })))) ∧
  (∀ (s : State) (c : Cmd) (n : U8) (p : Part), FromF0 s c → n.toNat = p.val → (s.part p).phase ≠ .absent →
    (s.part p).phase ≠ .removing →
    ∃ t, exec (.partRemove c n) s = .next t ∧ (t.part p).phase = .removing ∧ (t.part p).removeCmd = some c
      ∧ (t.part p).keyGen = (s.part p).keyGen + 1) ∧
  (∀ (s : State) (p : Part) (b : Nat), (s.part p).phase = .removing → (s.part p).removeZeroing = false →
    (s.part p).drainedAt = some b → b + 2 ≤ s.sys.beat →
    ∃ t, exec (.removeDrained p) s = .next t ∧ (t.part p).removeZeroing = true
      ∧ ∀ d ∈ s.diesOf p, (t.dies[d]).zeroing = true
        ∧ ∀ phys off, phys < 36 → off < 2 ^ 25 → t.byteAt (sramKey d.val phys off) = 0) ∧
  (∀ (s : State) (p : Part) (c : Cmd), (s.part p).phase = .removing → (s.part p).removeZeroing = true →
    (s.part p).removeCmd = some c → FromF0 s c →
    ∃ t, exec (.removeComplete p) s = .next t ∧ (t.part p).phase = .absent ∧ Completed s t c 0x02 .ok 0 0
      ∧ (∀ d ∈ s.diesOf p, (t.dies[d]).owner = none ∧ (t.dies[d]).zeroing = false) ∧ t.mem = s.mem)

/-- A PART_LOAD whose operand reads waits with the image its checks accept, with two pool outputs for the partition's instance
where they are ready, and completes nothing yet; where a check fails it completes with that check's status, recorded with the
check and section. When the checks end, with the instance's input at hand and still with every context FREE, the old image is
gone, the key generation is the next, no key-set is registered and the load is marked checked. When every die of the partition
runs at MIN_OP, the partition is LOADED with the image, its measurement and MIN_OP, and PART_LOAD completes OK. FAULT_RESUME of
the one fault a cluster waits on takes it off the list, ends the wait and completes OK; in a beat in which the image does not run
it changes no memory and no unit, and in a run beat the cluster runs its entry from the start. (R171; R177; R207; R318) -/
def Obligations.ImagesAreLoaded : Prop :=
  (∀ (s s1 : State) (c : Cmd) (p : Part) (va len : U64) (b : Bytes), FromPart s c p 0x08 →
    1 ≤ len.toNat → len.toNat ≤ 2 ^ 30 → testHolds s p = false → (s.part p).allFree = true → (s.part p).img.load = none →
    readOperand p va.toNat len.toNat s = (s1, .ok b) →
    match loadChecks s1 p b with
    | .ok i => ∃ t, exec (.partLoad c va len) s = .next t
        ∧ (t.part p).img.load = some ⟨c, i, false, if inputReady s1 (partInst p) then some (takePool s1).1 else none⟩
        ∧ (t.part p).img = { (s1.part p).img with load := (t.part p).img.load }
        ∧ (t.hif c.fn).cplPending = (s1.hif c.fn).cplPending ∧ t.mem = s1.mem ∧ ∀ q, q ≠ p → t.part q = s1.part q
    | .error (n, sec, st) => ∃ t, exec (.partLoad c va len) s = .next t ∧ Completed s t c 0x08 st 0 0
        ∧ (t.part p).img = { (s.part p).img with lastStatus := st, failCheck := n, failSection := sec }) ∧
  (∀ (s : State) (p : Part) (j : LoadJob) (e : Bytes), (s.part p).img.load = some j → j.checked = false →
    j.entropy = some e → (s.part p).allFree = true →
    ∃ t, exec (.partLoadChecksEnd p) s = .next t ∧ (t.part p).img.load = some { j with checked := true }
      ∧ (t.part p).img.image = none ∧ (t.part p).keyGen = (s.part p).keyGen + 1
      ∧ (∀ n : Fin 16, ((t.part p).keysets[n]).registered = false)) ∧
  (∀ (s : State) (p : Part) (j : LoadJob), (s.part p).img.load = some j → j.checked = true →
    diesReady s p j.image.minOp = true → Answers s j.cmd 0x08 →
    ∃ t, exec (.partLoadComplete p) s = .next t ∧ (t.part p).phase = .loaded ∧ (t.part p).img.image = some j.image
      ∧ (t.part p).img.load = none ∧ (t.part p).img.measure = j.image.measurement ∧ (t.part p).img.minOp = j.image.minOp
      ∧ (t.part p).img.lastStatus = .ok ∧ Completed s t j.cmd 0x08 .ok 0 0) ∧
  (∀ (s : State) (p : Part) (c : Cmd) (id : U32) (f : FaultRec) (d : Die) (cl : Cluster), FromPart s c p 0x34 →
    namedFaults (s.part p).mem id.toNat = [f] → f.agent = .cluster d cl →
    (∀ g ∈ (s.part p).mem.faults, g.waits = true → g.agent = .cluster d cl → g.id = f.id) →
    ∃ t, exec (.faultResume c id) s = .next t ∧ (t.cluster d cl).waitFault = false
      ∧ (t.part p).mem.faults = (s.part p).mem.faults.filter (fun g => g.id != f.id) ∧ Completed s t c 0x34 .ok 0 0
      ∧ ((s.part p).img.kind ≠ .run → t.mem = s.mem ∧ t.units = s.units)
      ∧ ∀ n g, (s.part p).img.kind = .run → (s.part p).img.image.isSome = true → (s.cluster d cl).running = false →
          (imageDies s p).find? (fun x => x.2 == d) = some (n, d) → refOf s p n cl = some g → isDone s p d cl = false →
          clockOff s d = false → (t.cluster d cl).running = true ∧ (t.cluster d cl).entry = g
            ∧ ∀ u : UnitIx, (t.unit d cl u).pos = 0)

/-- ROUND_OPEN whose operand reads and whose checks pass claims the context the checks gave, which keeps no signer from then on, and
changes nothing else but what judging the signer's ledger entry leaves. At its open beat ROUND_OPEN_EFFECT makes the round OPEN with the policy, its open and last beats, counters at zero and an EMPTY
header, and completes OK with the context and the open beat. ROUND_CLOSE of an OPEN round enters CLOSING with its last beat
no later than the beat before the current one, and completes OK; the deadline and the cohort limit enter CLOSING by
themselves. Close work that is ready makes the round CLOSED; RECOVERY_BEATS past the last beat make a round whose close work is
not ready HELD (RECOVERY) with its tiles poisoned and no ROUND_UNMASK left, and leave one whose close work is ready as it is.
Other contexts and partitions are unchanged. (R29; R30; R31; R36; R45; R59) -/
def Obligations.RoundsOpenAndClose : Prop :=
  (∀ (s s1 : State) (c : Cmd) (p : Part) (pv sv sb ob : U64) (b : Bytes) (k : Ctx) (o : OpenClaim), FromPart s c p 0x10 →
    NotReplaying s p → (s.part p).phase = .loaded → (s.part p).img.image ≠ none → testHolds s p = false →
    readOperand p pv.toNat policyBytes s = (s1, .ok b) → slotFault s1 p sv.toNat sb.toNat = none →
    let s2 := judgeSigner p b s1
    openChecks s2 p c b sv.toNat sb.toNat ob.toNat = .ok (k, o) →
    exec (.roundOpen c pv sv sb ob) s = .next (State.onCtx p k (fun x => { x with claim := some o, keptSigner := none }) s2)) ∧
  (∀ (s : State) (p : Part) (k : Ctx) (o : OpenClaim) (key : Nat), (s.ctx p k).claim = some o → o.openBeat ≤ s.beatOf p →
    (s.part p).phase = .loaded → HeaderAt s p k o.slotVA key → o.cmd.fn = .part p → Answers s o.cmd 0x10 →
    ∃ t, exec (.roundOpenEffect p k) s = .next t ∧ (t.ctx p k).phase = .opened ∧ (t.ctx p k).policy = o.policy
      ∧ (t.ctx p k).openBeat = o.openBeat ∧ (t.ctx p k).lastBeat = o.openBeat + o.policy.deadlineBeats - 1
      ∧ (t.ctx p k).admitted = 0 ∧ (t.ctx p k).duplicates = 0 ∧ (t.ctx p k).late = 0 ∧ (t.ctx p k).bitmap = []
      ∧ (t.ctx p k).header.state = .empty ∧ (t.ctx p k).header.roundId = o.policy.roundId ∧ (t.ctx p k).claim = none
      ∧ OnlyContext p k s t ∧ Completed s t o.cmd 0x10 .ok k.val o.openBeat) ∧
  (∀ (s : State) (c : Cmd) (p : Part) (k : Ctx) (r : RoundRef), FromPart s c p 0x11 → NotReplaying s p → NamesRound s p k r →
    (s.ctx p k).phase = .opened →
    ∃ t, exec (.roundClose c r) s = .next t ∧ (t.ctx p k).phase = .closing
      ∧ (t.ctx p k).lastBeat = min (s.ctx p k).lastBeat (s.sys.beat - 1) ∧ (t.ctx p k).lastStatus = .ok
      ∧ OnlyContext p k s t ∧ Completed s t c 0x11 .ok 0 0) ∧
  (∀ (s : State) (p : Part) (k : Ctx), (s.ctx p k).phase = .opened → (s.ctx p k).lastBeat < s.beatOf p →
    ∃ t, exec (.admissionDeadline p k) s = .next t ∧ (t.ctx p k).phase = .closing
      ∧ (t.ctx p k).lastBeat = (s.ctx p k).lastBeat ∧ OnlyContext p k s t) ∧
  (∀ (s : State) (p : Part) (k : Ctx), (s.ctx p k).phase = .opened → (s.ctx p k).policy.maxCohort ≤ (s.ctx p k).admitted →
    ∃ t, exec (.cohortLimitReached p k) s = .next t ∧ (t.ctx p k).phase = .closing
      ∧ (t.ctx p k).lastBeat = min (s.ctx p k).lastBeat (s.beatOf p - 1) ∧ OnlyContext p k s t) ∧
  (∀ (s : State) (p : Part) (k : Ctx), closeReady s p k = true →
    exec (.recoveryTimeout p k) s = .next s ∧ ∃ t, exec (.closeWorkComplete p k) s = .next t ∧ (t.ctx p k).phase = .closed ∧ OnlyContext p k s t ∧ t.mem = s.mem) ∧
  (∀ (s : State) (p : Part) (k : Ctx), (s.ctx p k).phase = .closing →
    (s.ctx p k).lastBeat + (s.ctx p k).policy.recoveryBeats < s.beatOf p → closeReady s p k = false →
    (∀ j ∈ (s.ctx p k).masked.queue, j.cmd.fn = .part p) →
    ∃ t, exec (.recoveryTimeout p k) s = .next t ∧ (t.ctx p k).phase = .held ∧ (t.ctx p k).holdCause = .recovery
      ∧ roundPoisoned t p k = true ∧ (t.ctx p k).masked.queue = [] ∧ OnlyContext p k s t ∧ ∀ a, t.byteAt a = s.byteAt a)

/-- ROUND_FINALIZE of a CLOSED round whose checks of R37 pass enters FINALIZING with a FILLING header and its finalize deadline,
and completes nothing yet; a release that draws has its instance seeded from the partition's own draw where the partition has no
twin and its instance can draw. Too small a cohort gives HELD (COHORT) and POLICY_REFUSED. When the last section is encoded with no
nonfinite value, or with a policy that releases them, the release fingerprint is formed, and, without TWIN_RELEASE, the ledger
records the round, which is not usable from then on. When the slot is writable, the slot write makes the round RELEASED with a READY
header that gives length, cohort and the payload's SHA-256, its 64 bytes stand in the slot, and ROUND_FINALIZE completes OK with the
length. An error in staging during step 2 zeroes the staging and leaves step 2 to start again. (R37; R40; R41; R42; R43; R150; R320) -/
def Obligations.ReleaseIsFormedAndWritten : Prop :=
  (∀ (s : State) (c : Cmd) (p : Part) (k : Ctx) (r : RoundRef) (key : Nat), FromPart s c p 0x13 → NotReplaying s p →
    NamesRound s p k r → (s.ctx p k).phase = .closed →
    ledgerUsable (judgeEntry p k (s.ctx p k).policy.signer s) (s.ctx p k).policy.signer (s.ctx p k).policy.roundId = true →
    ((s.ctx p k).included < (s.ctx p k).policy.minCohort →
      ∃ t, exec (.roundFinalize c r) s = .next t ∧ (t.ctx p k).phase = .held ∧ (t.ctx p k).holdCause = .cohort
        ∧ OnlyContext p k s t ∧ Completed s t c 0x13 .policyRefused 0 0) ∧
    ((s.ctx p k).policy.minCohort ≤ (s.ctx p k).included → roundPoisoned s p k = false →
      ((s.ctx p k).policy.draws = true → (s.part p).paired = false ∧ (s.ctx p k).ownNoise = none ∧ canGenerate s (partInst p) = true) →
      HeaderAt s p k (s.ctx p k).slotVA key → Memory.wf s.mem = true →
      ∃ t, exec (.roundFinalize c r) s = .next t ∧ (t.ctx p k).phase = .finalizing ∧ (t.ctx p k).finStep = .pipeline
        ∧ (t.ctx p k).release.key = (if (s.ctx p k).policy.draws then some (releaseKey
            (noiseSeed (s.ctx p k).policy.roundId (Crypto.bytes256 (generate (partInst p) s).1)) (s.ctx p k).policy.roundId k.val)
            else none)
        ∧ (t.ctx p k).finCmd = some c ∧ (t.ctx p k).finDeadline = s.sys.beat + (s.ctx p k).policy.finalizeBeats - 1
        ∧ (t.ctx p k).header = { (s.ctx p k).header with
            state := .filling, status := .ok, gen := ((s.ctx p k).header.gen + 1) % 2 ^ 32 }
        ∧ t.bytesAt key 64 = (t.ctx p k).header.bytes ∧ OnlyContext p k s t
        ∧ (t.hif c.fn).cplPending = (s.hif c.fn).cplPending)) ∧
  (∀ (s : State) (p : Part) (k : Ctx), (s.ctx p k).phase = .finalizing → (s.ctx p k).finStep = .pipeline →
    (s.ctx p k).tal.step = 6 → (countNonfinite s p k = 0 ∨ (s.ctx p k).policy.nonfiniteRelease = true) →
    (s.ctx p k).policy.twinRelease = false → NotReplaying s p →
    ledgerUsable (judgeEntry p k (s.ctx p k).policy.signer s) (s.ctx p k).policy.signer (s.ctx p k).policy.roundId = true →
    ∃ t, exec (.releasePipelineDone p k) s = .next t ∧ (t.ctx p k).finStep = .writing
      ∧ (t.ctx p k).tal.step = 7 ∧ (t.ctx p k).tal.nonfinite = min (countNonfinite s p k) 0xFFFFFFFF
      ∧ (t.ctx p k).releaseFp = some (releaseFingerprint s p k)
      ∧ ledgerUsable t (s.ctx p k).policy.signer (s.ctx p k).policy.roundId = false ∧ OnlyContext p k s t ∧ t.mem = s.mem) ∧
  (∀ (s : State) (p : Part) (k : Ctx) (c : Cmd) (key : Nat), (s.ctx p k).phase = .finalizing →
    (s.ctx p k).finStep = .writing → (s.ctx p k).headerWait = .none → (s.ctx p k).finCmd = some c → c.fn = .part p →
    Answers s c 0x13 → HeaderAt s p k (s.ctx p k).slotVA key → Memory.wf s.mem = true →
    firstFault s p ((s.ctx p k).slotVA + 64) (s.ctx p k).tal.payloadLen 4 = none →
    ∃ t, exec (.slotWriteComplete p k) s = .next t ∧ (t.ctx p k).phase = .released
      ∧ (t.ctx p k).header = { (s.ctx p k).header with
          state := .ready, status := .ok, gen := ((s.ctx p k).header.gen + 1) % 2 ^ 32,
          length := (s.ctx p k).tal.payloadLen, cohort := (s.ctx p k).included,
          digest := Crypto.sha256 (payloadOf s p k) }
      ∧ t.bytesAt key 64 = (t.ctx p k).header.bytes ∧ OnlyContext p k s t
      ∧ Completed s t c 0x13 .ok 0 (s.ctx p k).tal.payloadLen) ∧
  (∀ (s : State) (p : Part) (k : Ctx), (s.ctx p k).phase = .finalizing → (s.ctx p k).finStep = .pipeline →
    (s.ctx p k).headerWait ≠ .readyHeader →
    ∃ t, exec (.stagingError p k) s = .next t ∧ (t.ctx p k).phase = .finalizing ∧ (t.ctx p k).finStep = .restart
      ∧ (t.ctx p k).release = {} ∧ (t.ctx p k).tal.errors = (s.ctx p k).tal.errors + 1 ∧ (t.ctx p k).tal.restarted = true ∧ (t.ctx p k).tal.step = 0 ∧ (t.ctx p k).tal.cover = []
      ∧ ∀ off, off < 2 ^ 40 → t.byteAt (stageKey p.val k.val off) = 0)

/-- An entropy stall past the finalize deadline gives HELD (ENTROPY) and ENTROPY_FAIL, and 64 beats without the twin's
fingerprint or NOISE give HELD (TWIN_ABSENT) and TWIN_ABSENT. A payload with nonfinite values that the policy does not release gives
HELD (POISON) and POISONED_INPUT, with the round poisoned. ROUND_ABORT of a round before FINALIZING makes its context read
FREE and aborting with an empty bitmap and an EMPTY header; when zeroing has ended it completes OK and the context is no
longer aborting. RESULT_ACK of a RELEASED round zeroes the payload, and its completion writes the header and frees the
context, which keeps the signer. (R36; R41; R43; R44; R148; R263) -/
def Obligations.ReleaseFailsAndRoundsEnd : Prop :=
  (∀ (s : State) (p : Part) (k : Ctx) (c : Cmd), (s.ctx p k).phase = .finalizing → (s.ctx p k).finCmd = some c →
    c.fn = .part p → Answers s c 0x13 →
    (∀ key, (s.ctx p k).finDeadline < s.beatOf p → entropyStalled s p k = true → HeaderAt s p k (s.ctx p k).slotVA key →
      ∃ t, exec (.finalizeDeadline p k) s = .next t ∧ (t.ctx p k).phase = .held ∧ (t.ctx p k).holdCause = .entropy
        ∧ (t.ctx p k).header.state = .empty ∧ (t.ctx p k).finCmd = none ∧ OnlyContext p k s t
        ∧ Completed s t c 0x13 .entropyFail 0 0) ∧
    (∀ key, (s.ctx p k).finStep = .pipeline → (s.ctx p k).tal.step = 6 → 0 < countNonfinite s p k →
      (s.ctx p k).policy.nonfiniteRelease = false → HeaderAt s p k (s.ctx p k).slotVA key →
      ∃ t, exec (.releasePipelineDone p k) s = .next t ∧ (t.ctx p k).phase = .held ∧ (t.ctx p k).holdCause = .poison
        ∧ roundPoisoned t p k = true ∧ (t.ctx p k).header.state = .empty ∧ (t.ctx p k).finCmd = none ∧ OnlyContext p k s t
        ∧ Completed s t c 0x13 .poisonedInput 0 0) ∧
    (∀ b, (s.ctx p k).finStep = .waitTwin → (s.ctx p k).fpSentAt = some b → b + 64 ≤ s.sys.beat →
      ∃ t, exec (.twinReleaseTimeout p k) s = .next t ∧ (t.ctx p k).phase = .held ∧ (t.ctx p k).holdCause = .twinAbsent
        ∧ OnlyContext p k s t ∧ t.mem = s.mem ∧ Completed s t c 0x13 .twinAbsent 0 0) ∧
    (∀ b, (s.ctx p k).finStep = .waitNoise → (s.ctx p k).noiseSentAt = some b → b + 64 ≤ s.sys.beat →
      ∃ t, exec (.twinNoiseTimeout p k) s = .next t ∧ (t.ctx p k).phase = .held ∧ (t.ctx p k).holdCause = .twinAbsent
        ∧ OnlyContext p k s t ∧ t.mem = s.mem ∧ Completed s t c 0x13 .twinAbsent 0 0)) ∧
  (∀ (s : State) (c : Cmd) (p : Part) (k : Ctx) (r : RoundRef) (key : Nat), FromPart s c p 0x14 → NotReplaying s p →
    NamesRound s p k r → ((s.ctx p k).phase = .opened ∨ (s.ctx p k).phase = .closing ∨ (s.ctx p k).phase = .closed
      ∨ (s.ctx p k).phase = .held) → HeaderAt s p k (s.ctx p k).slotVA key →
    ∃ t, exec (.roundAbort c r) s = .next t ∧ (t.ctx p k).phase = .free ∧ (t.ctx p k).aborting = true
      ∧ (t.ctx p k).bitmap = [] ∧ (t.ctx p k).header.state = .empty ∧ (t.ctx p k).headerWait = .none
      ∧ (t.ctx p k).abortCmd = some c ∧ ∀ j, j ≠ k → t.ctx p j = s.ctx p j) ∧
  (∀ (s : State) (p : Part) (k : Ctx) (c : Cmd), (s.ctx p k).aborting = true → (s.ctx p k).headerWait = .none →
    (s.ctx p k).abortCmd = some c → c.fn = .part p → Answers s c 0x14 →
    ∃ t, exec (.abortZeroingComplete p k) s = .next t
      ∧ t.ctx p k = { ({} : RoundCtx) with keptSigner := (s.ctx p k).keptSigner } ∧ OnlyContext p k s t ∧ t.mem = s.mem
      ∧ Completed s t c 0x14 .ok 0 0) ∧
  (∀ (s : State) (c : Cmd) (p : Part) (k : Ctx) (r : RoundRef), FromPart s c p 0x15 → NotReplaying s p → NamesRound s p k r →
    (s.ctx p k).phase = .released → (s.ctx p k).acking = false → agentWaitsAny (s.part p).mem (.slot k) = false →
    writeFrom (s.ctx p k) ((s.ctx p k).slotVA + 64) (s.ctx p k).header.length = (s.ctx p k).slotVA + 64 →
    firstFault s p ((s.ctx p k).slotVA + 64) (s.ctx p k).header.length 4 = none →
    ∃ t, exec (.resultAck c r) s = .next t ∧ (t.ctx p k).phase = .released ∧ (t.ctx p k).acking = true
      ∧ (t.ctx p k).ackCmd = some c ∧ (t.ctx p k).headerWait = .none ∧ OnlyContext p k s t
      ∧ ∀ i key, i < (s.ctx p k).header.length → s.translate p ((s.ctx p k).slotVA + 64 + i) 4 = .ok key → t.byteAt key = 0) ∧
  (∀ (s : State) (p : Part) (k : Ctx) (c : Cmd) (key : Nat), (s.ctx p k).phase = .released → (s.ctx p k).acking = true →
    (s.ctx p k).headerWait = .none → (s.ctx p k).ackCmd = some c → Answers s c 0x15 → HeaderAt s p k (s.ctx p k).slotVA key →
    ∃ t, exec (.resultAckComplete p k) s = .next t
      ∧ t.ctx p k = { ({} : RoundCtx) with keptSigner := some (s.ctx p k).policy.signer } ∧ Completed s t c 0x15 .ok 0 0
      ∧ ∀ j, j ≠ k → t.ctx p j = s.ctx p j)

/-- ROUND_UNMASK on a CLOSING, classified masked round of the leader, whose list reads and whose records pass their checks,
joins the round's queue. In a beat in which the partition runs, fewer keystream blocks than the record in hand still needs move its
place on and count nothing; the blocks that end a record lower the needed self or pair seeds by one, count it as applied and go on
with the next record; the blocks that end the last record of the one command queued take it off the queue, and it completes OK with
the number of its records. A closing member whose final run is over hands its transfer off
once; its acknowledgement counts the member as merged and its admitted contributors as excluded there. A leader of an
unpaired partition takes a member's transfer once and marks its rank merged. (R56; R57; R58; R62; R63) -/
def Obligations.MaskedCloseWork : Prop :=
  (∀ (s s1 : State) (c : Cmd) (p : Part) (k : Ctx) (r : RoundRef) (va : U64) (n : U32) (b : Bytes) (l : List SeedRec),
    FromPart s c p 0x12 → NotReplaying s p → NamesRound s p k r → (s.ctx p k).phase = .closing →
    (s.ctx p k).policy.mode = .masked → (s.ctx p k).policy.groupRank = 0 → (s.ctx p k).masked.classified = true →
    1 ≤ n.toNat → n.toNat ≤ 65536 → readOperand p va.toNat (48 * n.toNat) s = (s1, .ok b) →
    checkSeeds (s.ctx p k) b ((s.ctx p k).masked.queue.flatMap (·.records)) n.toNat 0 [] = .ok l →
    exec (.roundUnmask c r va n) s = .next (State.onCtx p k (fun x =>
      { x with masked := { x.masked with queue := x.masked.queue ++ [⟨c, l, 0, 0⟩] } }) s1)) ∧
  (∀ (s : State) (p : Part) (k : Ctx) (n : Nat) (j : UnmaskJob) (rest : List UnmaskJob) (r : SeedRec),
    (s.ctx p k).phase = .closing → (s.part p).img.kind = .run → (s.ctx p k).masked.queue = j :: rest →
    j.records[j.applied]? = some r →
    let left := seedBlocks (s.ctx p k) r - j.blocks
    (n < left → ∃ t, exec (.unmaskExpansionComplete p ⟨k, n⟩) s = .next t
      ∧ (t.ctx p k).masked = { (s.ctx p k).masked with
          queue := { j with blocks := j.blocks + n } :: rest, expandBytes := (s.ctx p k).masked.expandBytes + 16 * n }
      ∧ (t.hif (.part p)).cplPending = (s.hif (.part p)).cplPending ∧ OnlyContext p k s t) ∧
    (∀ r', j.records[j.applied + 1]? = some r' → 0 < seedBlocks (s.ctx p k) r' →
      ∃ t, exec (.unmaskExpansionComplete p ⟨k, left⟩) s = .next t
        ∧ (t.ctx p k).masked = { MaskedCtx.supplied r (s.ctx p k).masked with
            queue := { j with applied := j.applied + 1, blocks := 0 } :: rest
            expandBytes := (s.ctx p k).masked.expandBytes + 16 * left }
        ∧ (t.hif (.part p)).cplPending = (s.hif (.part p)).cplPending ∧ OnlyContext p k s t) ∧
    (left ≤ n → j.applied + 1 = j.records.length → rest = [] → Answers s j.cmd 0x12 →
      ∃ t, exec (.unmaskExpansionComplete p ⟨k, n⟩) s = .next t ∧ (t.ctx p k).masked.queue = []
        ∧ (t.ctx p k).masked.needSelf = (s.ctx p k).masked.needSelf - (if r.pair then 0 else 1)
        ∧ (t.ctx p k).masked.needPair = (s.ctx p k).masked.needPair - (if r.pair then 1 else 0)
        ∧ (t.ctx p k).masked.expandBytes = (s.ctx p k).masked.expandBytes + 16 * left
        ∧ (t.ctx p k).masked.unmaskStatus = .ok ∧ (t.ctx p k).phase = .closing
        ∧ Completed s t j.cmd 0x12 .ok 0 j.records.length)) ∧
  (∀ (s : State) (p : Part) (k : Ctx), memberClosing (s.ctx p k) = true →
    ((s.ctx p k).finalRun = true → (s.ctx p k).masked.handedOff = false →
      ∃ t, exec (.memberHandoffSend p k) s = .next t ∧ (t.ctx p k).masked.handedOff = true ∧ t.mem = s.mem) ∧
    ((s.ctx p k).masked.handedOff = true → ∃ t, exec (.memberTransferAck p k) s = .next t
      ∧ (t.ctx p k).excluded = (s.ctx p k).admitted ∧ (t.ctx p k).included = 0
      ∧ (s.ctx p k).policy.groupRank ∈ (t.ctx p k).masked.merged ∧ OnlyContext p k s t ∧ t.mem = s.mem)) ∧
  (∀ (s : State) (p : Part) (k : Ctx) (m : MemberTransfer), (s.part p).bound = false →
    ((s.ctx p k).phase = .opened ∨ (s.ctx p k).phase = .closing) → (s.ctx p k).policy.mode = .masked →
    (s.ctx p k).policy.groupRank = 0 → m.rank.val ≠ 0 → m.rank.val < (s.ctx p k).policy.groupSize →
    m.rank.val ∉ (s.ctx p k).masked.merged →
    ∃ t, exec (.memberTransferArrive p k m) s = .next t ∧ m.rank.val ∈ (t.ctx p k).masked.merged
      ∧ (t.ctx p k).admitted = min ((s.ctx p k).admitted + m.admitted) 0xFFFFFFFF ∧ OnlyContext p k s t)

/-- A PART with the round's parameter tag, a SEED, SHARE, DECIDE or DONE that names a shared round, comes from the party of
its connection and goes to this party waits in the round's inbox with its beat; one that does not is discarded and counted.
The leader decides TIMEOUT for an index undecided after VERIFY_BEATS, and ABSENT for a PART held that long without admission.
A closing helper with nothing staged sends its close once; the acknowledgement marks party 0 merged. The leader of an
unpaired partition takes a party's aggregate share once. (R76; R77; R78; R81; R82) -/
def Obligations.VerifierExchange : Prop :=
  (∀ (s : State) (p : Part) (k : Ctx) (h : XchgHead), (s.part p).paired = false → xchgCtx s p h = some k →
    fabricConn s p h.conn = true →
    let waits (i : Instr) (b : XchgBody) : Prop :=
      (xchgFrom (s.ctx p k).policy h b = true → ∃ t, exec i s = .next t ∧ OnlyContext p k s t ∧ t.mem = s.mem
        ∧ (t.ctx p k).shared.inbox
            = (s.ctx p k).shared.inbox ++ [⟨s.sys.beat, h.sender.toNat, h.contrib.toNat % 2 ^ 24, b⟩]) ∧
      (xchgFrom (s.ctx p k).policy h b = false → ∃ t, exec i s = .next t ∧ OnlyContext p k s t ∧ t.mem = s.mem
        ∧ (t.ctx p k).shared.inbox = (s.ctx p k).shared.inbox
        ∧ (t.ctx p k).shared.xchgDiscard = min ((s.ctx p k).shared.xchgDiscard + 1) 0xFFFFFFFF)
    (∀ jk, waits (.xchgPart p h jk (paramTag (s.ctx p k).policy)) (.part jk)) ∧
    (∀ x, waits (.xchgSeed p h x) (.seed x)) ∧ (∀ v, waits (.xchgShare p h v) (.share v)) ∧
    (∀ c v, Verdict.ofCode c.toNat = some v → waits (.xchgDecide p h c) (.decide v)) ∧
    (∀ n d, waits (.xchgDone p h n d) (.done n.toNat d))) ∧
  (∀ (s : State) (p : Part) (k : Ctx) (i b : Nat), leads (s.ctx p k) = true → (shareOf s p k i).verdict = none →
    ((shareOf s p k i).admittedAt = some b → b + (s.ctx p k).policy.verifyBeats < s.beatOf p →
      ∃ t, exec (.verifyTimeout p k i) s = .next t ∧ (shareOf t p k i).verdict = some .timeout
        ∧ (t.ctx p k).shared.rejTimeout = min ((s.ctx p k).shared.rejTimeout + 1) 0xFFFFFFFF
        ∧ (t.ctx p k).excluded = (s.ctx p k).excluded + 1) ∧
    ((shareOf s p k i).admittedAt = none → (shareOf s p k i).partAt = some b →
      b + (s.ctx p k).policy.verifyBeats < s.beatOf p →
      ∃ t, exec (.partHoldExpiry p k i) s = .next t ∧ (shareOf t p k i).verdict = some .absent
        ∧ (t.ctx p k).shared.rejAbsent = min ((s.ctx p k).shared.rejAbsent + 1) 0xFFFFFFFF
        ∧ (t.ctx p k).excluded = (s.ctx p k).excluded ∧ i ∈ (t.ctx p k).bitmap)) ∧
  (∀ (s : State) (p : Part) (k : Ctx), helperClosing (s.ctx p k) = true →
    ((s.ctx p k).stampsDone = true → (s.ctx p k).finalRun = true → noneStaged s p k = true →
      (s.ctx p k).shared.closeSent = false →
      ∃ t, exec (.helperCloseSend p k) s = .next t ∧ (t.ctx p k).shared.closeSent = true
        ∧ (t.ctx p k).shared.acceptDigest = acceptDigest (s.ctx p k).shared.acceptedSet ∧ t.mem = s.mem) ∧
    ((s.ctx p k).shared.closeSent = true → ∃ t, exec (.helperTransferAck p k) s = .next t
      ∧ (t.ctx p k).shared.merged = (s.ctx p k).shared.merged ||| 1 ∧ (t.ctx p k).included = 0
      ∧ (t.ctx p k).excluded = (s.ctx p k).admitted ∧ OnlyContext p k s t ∧ t.mem = s.mem)) ∧
  (∀ (s : State) (p : Part) (k : Ctx) (party : Fin 4) (share : List U64), (s.part p).bound = false →
    leads (s.ctx p k) = true → party ≠ 0 → party.val < (s.ctx p k).policy.parties →
    (s.ctx p k).shared.merged.getLsbD party.val = false →
    ∃ t, exec (.xchgAggregateShare p k party share) s = .next t
      ∧ (t.ctx p k).shared.merged = (s.ctx p k).shared.merged ||| BitVec.ofNat 4 (2 ^ party.val) ∧ OnlyContext p k s t)

/-- KEYSET_LOAD with BLOCK_TOTAL 0 clears a slot no round uses; with blocks that read, lie in LPDDR5X, form a directory and
carry an id no other slot has, it registers the key-set with its digest and directory. The source of a closing COMBINE round is read
once and fixes the combining set; a source whose bytes do not match their digest, are poisoned or have another header than the
round's poisons every tile, and one that matches changes no memory where the sharing is additive. TABLE_STORE_REBUILD restores the
region's store from the image's groups; PROGRAM_RECOPY aborts the cluster's beat and leaves no uncorrectable line in its
program memory. (R98; R99; R107; R109; R125; R192) -/
def Obligations.KeysetsAndRepairsComplete : Prop :=
  (∀ (s : State) (c : Cmd) (p : Part) (slot : U8) (n : Fin 16) (va : U64), FromPart s c p 0x30 → slot.toNat = n.val →
    (((s.part p).keysets[n]).registered && keysetUsed (s.part p) ((s.part p).keysets[n]).id.toNat) = false →
    (∃ t, exec (.keysetLoad c slot va 0) s = .next t ∧ (t.part p).keysets[n] = {} ∧ t.mem = s.mem
      ∧ (∀ m, m ≠ n → (t.part p).keysets[m] = (s.part p).keysets[m]) ∧ Completed s t c 0x30 .ok 0 0) ∧
    (∀ (total : U32) (s1 : State) (b : Bytes) (keys : List KeyRec), total ≠ 0 →
      readOperand p va.toNat (4096 * total.toNat) s = (s1, .ok b) → allDram s1 p va.toNat (4096 * total.toNat) = true →
      (∀ m : Fin 16, ((s1.part p).keysets[m]).registered = true → ((s1.part p).keysets[m]).id.toNat ≠ fieldLE b 0 8) →
      scanKeyset (s1.imageOf p) total.toNat b = .ok keys →
      ∃ t, exec (.keysetLoad c slot va total) s = .next t ∧ ((t.part p).keysets[n]).registered = true
        ∧ ((t.part p).keysets[n]).id = BitVec.ofNat 64 (fieldLE b 0 8) ∧ ((t.part p).keysets[n]).keys = keys
        ∧ ((t.part p).keysets[n]).digest = Crypto.sha256 b ∧ Completed s t c 0x30 .ok 0 0)) ∧
  (∀ (s s1 : State) (p : Part) (k : Ctx) (r : RingSet) (b : Bytes), (s.ctx p k).phase = .closing →
    (s.ctx p k).policy.mode = .encrypted → (s.ctx p k).policy.combine = true → (s.ctx p k).enc.sourceRead = false →
    (s.ctx p k).enc.headersSet = true → (s.imageOf p).rings[(s.ctx p k).policy.paramSet]? = some r →
    let q := (s.ctx p k).policy
    let size := 64 + Policy.bodyBytes r 2 q.level
    readOperand p q.sourceVA (q.ctCount * size) s = (s1, .ok b) →
    let good := Crypto.sha256 b = q.sourceDigest ∧ poisonVA s1 p q.sourceVA (q.ctCount * size) 0 = false
      ∧ ∀ j, j < q.ctCount → sourceOk q r ((b.drop (size * j)).take 64) = true
    ∃ t, exec (.combineSourceRead p k) s = .next t ∧ (t.ctx p k).enc.sourceRead = true
      ∧ (t.ctx p k).enc.combineSet = BitVec.ofNat 64 ((combineSet (s.ctx p k)).map fun m => 2 ^ (m - 1)).sum
      ∧ (¬ good → roundPoisoned t p k = true) ∧ (good → q.shamir = false → t.mem = s1.mem)) ∧
  (∀ (s : State) (d : Die) (g : Region) (p : Part) (i : Image), s.ownerOf d = some p → (s.part p).img.image = some i →
    ∃ t, exec (.tableStoreRebuild d g) s = .next t ∧ ((t.dies[d]).regions[g]).store = tableStore i
      ∧ ((t.dies[d]).regions[g]).storeFailed = false ∧ t.mem = s.mem) ∧
  (∀ (s : State) (p : Part) (d : Die) (c : Cluster), s.ownerOf d = some p → (s.part p).img.image ≠ none →
    ∃ t, exec (.programRecopy p d c) s = .next t ∧ programLines t d c = []
      ∧ ((s.cluster d c).running = true → (t.cluster d c).aborted = true))

/-- GRANT_CREATE with well-formed fields makes the lowest free grant ACTIVE with its permissions, range and connection from
the current beat and completes OK with its number. The oldest WRITE packet admitted under a grant is placed: its bytes stand
in the page, it leaves the packets in flight and the grant counts one less. GRANT_REVOKE makes an ACTIVE grant REVOKING
without completing yet; once nothing is in flight the grant is FREE and the revoke completes OK. GEN counts each change of
state. Other grants, other partitions and the rest of memory are unchanged. (R236; R237; R238) -/
def Obligations.GrantsAreMadeUsedAndRevoked : Prop :=
  (∀ (s : State) (c : Cmd) (p : Part) (perms : U8) (conn : U32) (va len : U64) (g : Nat), FromPart s c p 0x20 →
    grantFieldsOk perms conn va len = true → freeGrant s p = some g →
    ∃ t, exec (.grantCreate c perms conn va len) s = .next t ∧ OnlyPart p s t ∧ Completed s t c 0x20 .ok g 0
      ∧ grantOf t p g = { grantOf s p g with
            state := .active, gen := ((grantOf s p g).gen + 1) % 2 ^ 32,
            perms := perms.extractLsb' 0 2, va := va.toNat, length := len.toNat, conn := conn, activeAt := s.sys.beat }
      ∧ ∀ h, h ≠ g → grantOf t p h = grantOf s p h) ∧
  (∀ (s : State) (p : Part) (g : Fin 4096) (w : Placement) (k : Nat), Memory.wf s.mem = true →
    (s.part p).rxt.inFlight.find? (·.grant == g.val) = some w → Placeable s p w.va w.data.length k →
    ∃ t, exec (.placementComplete p g) s = .next t ∧ Landed s t k w.data
      ∧ (t.part p).rxt.inFlight = (s.part p).rxt.inFlight.erase w
      ∧ grantOf t p g.val = { grantOf s p g.val with inFlight := (grantOf s p g.val).inFlight - 1 }
      ∧ ∀ q, q ≠ p → t.part q = s.part q) ∧
  (∀ (s : State) (c : Cmd) (p : Part) (g : U16), FromPart s c p 0x21 → g.toNat < 4096 →
    (grantOf s p g.toNat).state = .active →
    ∃ t, exec (.grantRevoke c g) s = .next t ∧ OnlyPart p s t ∧ t.hif c.fn = s.hif c.fn
      ∧ grantOf t p g.toNat = { grantOf s p g.toNat with
            state := .revoking,
            gen := ((grantOf s p g.toNat).gen + 1) % 2 ^ 32, revokeAt := s.sys.beat, revokeCmd := some c }
      ∧ ∀ h, h ≠ g.toNat → grantOf t p h = grantOf s p h) ∧
  (∀ (s : State) (p : Part) (g : Fin 4096) (c : Cmd), (s.part p).phase ≠ .removing → (grantOf s p g.val).state = .revoking →
    (grantOf s p g.val).inFlight = 0 → (grantOf s p g.val).revokeCmd = some c → c.fn = .part p → Answers s c 0x21 →
    ∃ t, exec (.grantRevokeComplete p g) s = .next t ∧ OnlyPart p s t ∧ Completed s t c 0x21 .ok 0 0
      ∧ grantOf t p g.val = { grantOf s p g.val with
            state := .free, gen := ((grantOf s p g.val).gen + 1) % 2 ^ 32,
            revokeCmd := none })

/-- CONN_CREATE of a user number below RXT_CTX_COUNT, FREE, on reserved sub-ports makes it READY with the fields of the
command, written to the context table, and completes OK. Of a fabric number with the source HEALTHY it makes it CONNECTING
without a completion, with an ephemeral key where the device's instance can draw, else waiting for the source. After the agreement the connection is READY and CONN_CREATE completes OK; without one, the connection
is freed and it completes NOT_READY. CONN_DESTROY of a READY or ERROR connection drains it, and when nothing is in flight the
context is FREE again, with its next PSN kept, and CONN_DESTROY completes OK. Other connections are unchanged. (R227; R231;
R246; R319) -/
def Obligations.ConnectionsAreMadeAndEnded : Prop :=
  (∀ (s : State) (c : Cmd) (p : Part) (x : ConnSpec), FromPart s c p 0x22 → connFieldsOk x = true →
    reserved s p (homeOf x.ports) = true →
    (failoverOf x.ports = homeOf x.ports ∨ reserved s p (failoverOf x.ports) = true) →
    (s.conn x.conn.toNat).state = .free →
    (isFabric x = false → x.conn.toNat < s.rxt.ctxCount → Memory.wf s.mem = true →
      ∃ t, exec (.connCreate c x) s = .next t ∧ OtherConns x.conn.toNat s t ∧ Completed s t c 0x22 .ok 0 0
        ∧ t.conn x.conn.toNat = { newConn x p s with state := .ready }
        ∧ t.bytesAt (ctxKey s x.conn.toNat) 248 = ctxBody (t.conn x.conn.toNat)
        ∧ KeepsBytesOutside (ctxKey s x.conn.toNat) 256 s t) ∧
    (isFabric x = true → pinnedOn s ((homeOf x.ports).1.val / 2) < 1024 → entropyStatus s = .ok →
      let d : Conn := { newConn x p s with state := .connecting, createCmd := some c }
      let die := linkDie (homeOf x.ports).1
      ∃ t, exec (.connCreate c x) s = .next t ∧ OtherConns x.conn.toNat s t ∧ t.hif c.fn = s.hif c.fn
        ∧ CacheFits t die ∧ (CacheFits (State.onConn x.conn.toNat (fun _ => d) s) die → t.mem = s.mem)
        ∧ t.conn x.conn.toNat = { d with eph := (t.conn x.conn.toNat).eph }
        ∧ (t.conn x.conn.toNat).eph.isSome = canGenerate s 0
        ∧ (canGenerate s 0 = false → (⟨0, .connection x.conn.toNat⟩ : DrbgWait) ∈ t.rng.waiting))) ∧
  (∀ (s : State) (n : Nat) (c : Cmd), (s.conn n).state = .connecting → (s.conn n).createCmd = some c → Answers s c 0x22 →
    ((s.conn n).agreed = true →
      ∃ t, exec (.connConnected n) s = .next t ∧ OtherConns n s t ∧ Completed s t c 0x22 .ok 0 0
        ∧ t.conn n = { s.conn n with state := .ready, createCmd := none, eph := none }) ∧
    ((s.conn n).agreed = false → (s.conn n).fabric = true → ConnsRise s →
      ∃ t, exec (.connectTimeout n) s = .next t ∧ OtherConns n s t ∧ Completed s t c 0x22 .notReady 0 0 ∧ t.conn n = {}
        ∧ t.mem = s.mem ∧ firstPsn t n (s.conn n).keyGen = (s.conn n).txPsn)) ∧
  (∀ (s : State) (c : Cmd) (p : Part) (n : U32), FromPart s c p 0x23 → (s.conn n.toNat).part = p →
    ((s.conn n.toNat).state = .ready ∨ (s.conn n.toNat).state = .error) → (s.conn n.toNat).createCmd = none →
    ∃ t, exec (.connDestroy c n) s = .next t ∧ OtherConns n.toNat s t ∧ t.hif c.fn = s.hif c.fn ∧ t.mem = s.mem
      ∧ (t.conn n.toNat).state = .draining ∧ (t.conn n.toNat).destroyCmd = some c ∧ (t.conn n.toNat).unacked = []
      ∧ (t.conn n.toNat).rnr = [] ∧ (t.conn n.toNat).cancelDue = []) ∧
  (∀ (s : State) (n : Nat) (c : Cmd), (s.conn n).state = .draining → (s.conn n).inFlight = 0 → ConnsRise s →
    (s.part (s.conn n).part).phase ≠ .removing → (s.conn n).destroyCmd = some c → Answers s c 0x23 →
    ∃ t, exec (.connDestroyComplete n) s = .next t ∧ OtherConns n s t ∧ Completed s t c 0x23 .ok 0 0 ∧ t.conn n = {}
      ∧ ((s.conn n).fabric = true → firstPsn t n (s.conn n).keyGen = (s.conn n).txPsn ∧ t.mem = s.mem))

/-- On a CONNECTING fabric connection, for a message that passes the checks of R225 and matches it: an OFFER whose signatures, peer identity and life cycle pass is
recorded; an ACCEPT that also unwraps its transfer key is agreed on; a CONFIRM must repeat the generation and ephemeral key
of the OFFER to be. A message that fails a check leaves the connection as it was. A REFUSE frees the connection and completes
CONN_CREATE with REMOTE_NAK. (R225; R296; R297) -/
def Obligations.FabricKeysAreAgreed : Prop :=
  (∀ (s : State) (f : RxtFrame) (b : ConnectBody), ConnectAccepted s f b → ForConnecting s f.destConn.toNat b →
    let n := f.destConn.toNat
    let c := s.conn n
    let kept (i : Instr) (d : Conn) : Prop :=
      ∃ t, exec i s = .next t ∧ OtherConns n s t ∧ t.mem = s.mem ∧ t.parts = s.parts ∧ t.conn n = d
    let agreed (key : U256) : Conn := { c with
      agreed := true, peerKey := some key, peerGen := b.keyGen.toNat, peerMember := b.member.toNat, peerEph := b.eph }
    match peerRefused s c b with
    | some _ => kept (.connectOffer f b) c ∧ kept (.connectAccept f b) c ∧ kept (.connectConfirm f b) c
    | none =>
      kept (.connectOffer f b) { c with peerEph := b.eph, peerGen := b.keyGen.toNat, peerMember := b.member.toNat } ∧
      match peerTransfer s n b with
      | none => kept (.connectAccept f b) c ∧ kept (.connectConfirm f b) c
      | some key => kept (.connectAccept f b) (agreed key) ∧
          kept (.connectConfirm f b) (if b.keyGen.toNat = c.peerGen ∧ b.eph = c.peerEph then agreed key else c)) ∧
  (∀ (s : State) (f : RxtFrame) (b : ConnectBody) (c : Cmd), ConnectAccepted s f b → ForConnecting s f.destConn.toNat b →
    ConnsRise s → (s.conn f.destConn.toNat).createCmd = some c → Answers s c 0x22 →
    let n := f.destConn.toNat
    ∃ t, exec (.connectRefuse f b) s = .next t ∧ OtherConns n s t ∧ t.mem = s.mem ∧ t.conn n = {}
      ∧ Completed s t c 0x22 .remoteNak 0 0)

/-- For a frame that passes the checks of R225 in sequence: a WRITE whose grant allows it joins the packets in flight with
the address of its grant and the clear payload. The first packet of a tagged message that finds a pool slot or a posted entry
it fits in is placed there at once, and its PSN counts as received; one that finds no slot is refused with NOT_READY. An XFER
inside the landing range is placed in it, unsealed. A CANCEL discards its message and its PSN counts as received. Other
partitions keep their state, and memory changes only in the bytes placed. (R225; R234; R235; R237; R239; R240; R243) -/
def Obligations.PacketsAreTakenAndPlaced : Prop :=
  (∀ (s : State) (f : RxtFrame), FrameAccepted s f →
    let n := f.destConn.toNat
    let c := s.conn n
    let p := c.part
    let psn := psnOf s f
    (InSequence s opWrite f → grantCheck s n f = .ok →
      ∃ t, exec (.rxtWrite f) s = .next t ∧ (∀ q, q ≠ p → t.part q = s.part q)
        ∧ (∀ a, a < 2 ^ 64 → t.byteAt a = s.byteAt a)
        ∧ (t.part p).rxt.inFlight = (s.part p).rxt.inFlight ++ [⟨f.grantId.toNat, f.port, n, psn, f.msgId, f.offset.toNat,
            f.flags, (grantOf s p f.grantId.toNat).va + f.offset.toNat, unsealed c psn f⟩]
        ∧ grantOf t p f.grantId.toNat = { grantOf s p f.grantId.toNat with
            inFlight := (grantOf s p f.grantId.toNat).inFlight + 1 }) ∧
    (InSequence s opTagged f → tfind c.msgs f.msgId.toNat = none → Memory.wf s.mem = true →
      (∀ (b : MsgBuffer) (va size k : Nat), bindTagged s p f.keyOrTag = some b →
        ((∃ i, b = .entry i va size) ∨ (∃ x, b = .pool x va size)) → f.offset.toNat + f.payload.length ≤ size →
        Placeable s p (va + f.offset.toNat) f.payload.length k →
        ∃ t, exec (.rxtSendTagged f) s = .next t ∧ (∀ q, q ≠ p → t.part q = s.part q) ∧ Landed s t k f.payload
          ∧ PsnTaken (t.conn n) psn) ∧
      (bindTagged s p f.keyOrTag = none →
        ∃ t, exec (.rxtSendTagged f) s = .next t ∧ (∀ q, q ≠ p → t.part q = s.part q)
          ∧ (t.part p).rxt.rnrNaks = sat32 (s.part p).rxt.rnrNaks ∧ (∀ a, a < 2 ^ 64 → t.byteAt a = s.byteAt a))) ∧
    (∀ k, InSequence s opXfer f → f.offset.toNat + (unsealed c psn f).length ≤ c.landingLen → Memory.wf s.mem = true →
      Placeable s p (c.landingVA + f.offset.toNat) (unsealed c psn f).length k →
      ∃ t, exec (.rxtXfer f) s = .next t ∧ (∀ q, q ≠ p → t.part q = s.part q) ∧ Landed s t k (unsealed c psn f)
        ∧ PsnTaken (t.conn n) psn) ∧
    (InSequence s opCancel f → (c.msgs.map (·.1)).Pairwise (· < ·) →
      ∃ t, exec (.rxtCancel f) s = .next t ∧ t.parts = s.parts ∧ t.mem = s.mem ∧ PsnTaken (t.conn n) psn
        ∧ ∀ m, tfind (t.conn n).msgs f.msgId.toNat = some m → m.cancelled = true))

/-- An ACK leaves no kept packet below its PSN. A NAK with NOT_READY lets its packet wait to be sent again; one with
ACCESS_DENIED ends the connection in ERROR with that status. A frame that is no RXT frame is counted, as a MACsec drop where
no association takes it. When the fetched context's CHECK is right the context is in the cache of the port's link die and the
packets that waited go on at check 5; when the fetch times out they are dropped and the failure is counted. A context that is used
is in its cache where the fabric contexts leave room for one, and the cache holds no more than they leave room for. (R217; R218;
R224; R225; R229; R230; R233; R246) -/
def Obligations.AcksNaksAndOtherFrames : Prop :=
  (∀ (s : State) (f : RxtFrame), FrameAccepted s f → f.echo = 0 →
    let n := f.destConn.toNat
    let c := s.conn n
    (formOk c opAck f = true →
      ∃ t, exec (.rxtAck f) s = .next t ∧ t.parts = s.parts ∧ t.mem = s.mem ∧ OtherConns n s t
        ∧ ∀ k ∈ (t.conn n).unacked, widen c.txPsn f.psn.toNat ≤ k.psn) ∧
    (formOk c opNak f = true →
      (f.keyOrTag.toNat % 256 = Status.notReady.code → c.unacked.any (·.psn == widen c.txPsn f.psn.toNat) = true →
        ∃ t, exec (.rxtNak f) s = .next t ∧ t.parts = s.parts ∧ t.mem = s.mem ∧ OtherConns n s t
          ∧ t.conn n = { c with rnr := insertSet c.rnr (widen c.txPsn f.psn.toNat) }) ∧
      (f.keyOrTag.toNat % 256 = Status.accessDenied.code →
        ∃ t, exec (.rxtNak f) s = .next t ∧ t.mem = s.mem ∧ OtherConns n s t ∧ (∀ q, q ≠ c.part → t.part q = s.part q)
          ∧ (t.conn n).state = .error ∧ (t.conn n).errorStatus = .accessDenied ∧ (t.conn n).unacked = []))) ∧
  (∀ (s : State) (q : RPort) (b : SubPort) (sec : SecTag), (s.sub q b).linkUp = true →
    ∃ t, exec (.nonRxtFrame q b sec) s = .next t ∧ t = { s with ports := t.ports }
      ∧ t.sub q b = match macsec (s.sub q b) sec with
          | some y => { y with rxFrames := y.rxFrames + 1, nonRxt := sat32 y.nonRxt }
          | none => { s.sub q b with rxFrames := (s.sub q b).rxFrames + 1, macsecDrops := sat32 (s.sub q b).macsecDrops }) ∧
  (∀ (s : State) (q : RPort) (n : Nat), (s.ports[q]).fetching.contains n = true →
    (s.bytesAt (ctxKey s n + 248) 8 = ctxCheck s n (s.bytesAt (ctxKey s n) 248) → canDma s s.f0 = true →
      exec (.contextFetchComplete q n) s = .next (forAll (takeWaiting q n s).1 (fun w => checkFrame w.1 w.2)
        (touchCache (linkDie q) n (State.onConn n (ctxParse (s.bytesAt (ctxKey s n) 248)) (takeWaiting q n s).2)))) ∧
    (∃ t, exec (.contextFetchTimeout q n) s = .next t ∧ t.rxt = { s.rxt with ctxFetchFail := sat32 s.rxt.ctxFetchFail }
      ∧ n ∉ (t.ports[q]).fetching ∧ (∀ w ∈ (t.ports[q]).waiting, w.2.destConn.toNat ≠ n) ∧ t.parts = s.parts
      ∧ t.mem = s.mem)) ∧
  (∀ (s : State) (die : Fin 4) (n : Nat), CacheFits (touchCache die n s) die
    ∧ (pinnedOn s die.val < 4096 → n ∈ (touchCache die n s).rxt.cache[die]))

/-- The lowest message of a connection's window, once whole, leaves the window, which goes on by one; where it stood in the
unexpected buffer, that buffer lists it with its tag and bytes. The oldest unexpected message that a posted entry or pool
slot fits leaves the buffer and its bytes stand in that buffer's page. Messages that opened more than RXT_UNEXP_AGE beats ago,
complete or still arriving, are dropped and counted. (R234; R239; R240; R241) -/
def Obligations.MessagesComplete : Prop :=
  (∀ (s : State) (n : Nat) (m : OpenMsg), ((s.conn n).state = .ready ∨ (s.conn n).state = .error) →
    (s.conn n).msgs = [((s.conn n).rxMsgBase.toNat, m)] → m.whole = true → m.passed = false →
    ∃ t, exec (.messageComplete n) s = .next t ∧ (t.conn n).msgs = [] ∧ (t.conn n).rxMsgBase = (s.conn n).rxMsgBase + 1
      ∧ (m.buffer = .unexpected → t.mem = s.mem ∧ OtherConns n s t
          ∧ t.part (s.conn n).part = { s.part (s.conn n).part with rxt := { (s.part (s.conn n).part).rxt with
              unexp := (s.part (s.conn n).part).rxt.unexp ++ [⟨n, (s.conn n).rxMsgBase, m.tag, m.stored, m.opened⟩] } })) ∧
  (∀ (s : State) (p : Part) (m : UnexpMsg) (b : MsgBuffer) (va z k : Nat), oldestMatch s p = some (m, b) →
    ((∃ i, b = .entry i va z) ∨ (∃ x, b = .pool x va z)) → Memory.wf s.mem = true →
    0 < m.payload.length → va % 65536 + m.payload.length ≤ 65536 → s.translate p va 2 = .ok k →
    k + m.payload.length ≤ 2 ^ 64 →
    ∃ t, exec (.unexpectedMatchCopy p) s = .next t ∧ (t.part p).rxt.unexp = (s.part p).rxt.unexp.erase m
      ∧ ((∃ i, b = .entry i va z) → Landed s t k m.payload ∧ t.rxt = s.rxt ∧ ∀ q, q ≠ p → t.part q = s.part q)) ∧
  (∀ (s : State) (p : Part),
    let old (beat : Nat) : Bool := decide (0 < s.rxt.unexpAge ∧ beat + s.rxt.unexpAge < s.sys.beat)
    let arriving (c : Conn) : Nat := if c.part = p then (c.msgs.filter fun m => m.2.buffer == .unexpected && old m.2.opened).length else 0
    ∃ t, exec (.unexpectedAgeExpiry p) s = .next t ∧ t = { s with parts := t.parts, rxt := t.rxt }
      ∧ (∀ q, q ≠ p → t.part q = s.part q)
      ∧ (t.part p).rxt.unexp = (s.part p).rxt.unexp.filter (fun m => !old m.beat)
      ∧ (∀ n, t.conn n = if (s.conn n).part = p then (s.conn n).dropUnexpected (fun m => old m.opened) else s.conn n)
      ∧ (t.part p).rxt.unexpDrops = min ((s.part p).rxt.unexpDrops + (((s.part p).rxt.unexp.filter fun m => old m.beat).length
          + (s.rxt.conns.map fun x => arriving x.2).sum)) 0xFFFFFFFF)

/-- A packet whose RTO passes goes out again with RETX on the next path and counts a retry and a miss of its path; one
refused with NOT_READY goes out again after its wait. At RETRY_LIMIT a fabric connection fails over once with its retries and
paths cleared; a connection that cannot enters ERROR with REMOTE_NAK. A path with PATH_FAIL_LIMIT misses is failed and later
probed with the oldest packet. ACK_DELAY sends the acknowledgement; an SRTT without echo raises the rate by AI up to its
limit; a due CANCEL is sent as the next packet. Other connections, partitions and memory are unchanged. (R224; R232; R233;
R243; R245; R246) -/
def Obligations.PacketsAreSentAgain : Prop :=
  (∀ (s : State) (n : Nat), (s.conn n).state = .ready →
    let c := s.conn n
    let goes (i : Instr) (f : State → Prop) : Prop := ∃ t, exec i s = .next t ∧ f t
      ∧ t = { s with rxt := t.rxt, ports := t.ports, tx := t.tx } ∧ OtherConns n s t
    let sent (f : TxFrame) (t : State) : Prop := Carries s (connSub c).1 (connSub c).2 → t.tx = f :: s.tx
    (∀ (psn : U64) (k : TxPacket), c.unacked.find? (·.psn == psn.toNat) = some k →
      goes (.retransmitTimeout n psn) (fun t => (t.conn n).retries = sat16 c.retries
        ∧ sent (packetFrame c { k with path := livePath c (k.path + 1) } true s) t
        ∧ (t.conn n).pathMisses.toList.getD (k.path % 16) 0 = c.pathMisses.toList.getD (k.path % 16) 0 + 1
        ∧ (t.conn n).unacked = c.unacked.map fun x =>
            if x.psn = psn.toNat then { x with misses := x.misses + 1, path := livePath c (k.path + 1) } else x) ∧
      (psn.toNat ∈ c.rnr → goes (.rnrWaitExpiry n psn) (fun t => (t.conn n).rnr = c.rnr.filter (· != psn.toNat)
        ∧ sent (packetFrame c { k with path := livePath c (k.path + 1) } true s) t))) ∧
    (∀ path : Fin 16, (pathFailLimit s ≤ c.pathMisses[path] →
        goes (.pathFail n path) (fun t => t.conn n = { c with pathFailed := c.pathFailed ||| BitVec.ofNat 16 (2 ^ path.val) })) ∧
      (∀ k l, c.pathFailed.getLsbD path.val = true → c.unacked = k :: l →
        goes (.pathProbe n path) (fun t => path.val ∈ (t.conn n).probing
          ∧ sent (packetFrame c { k with path := path.val } true s) t))) ∧
    (0 < c.sinceAck → goes (.ackDelayExpiry n) (fun t => t.conn n = { c with sinceAck := 0, ceCount := 0 })) ∧
    goes (.rateIncrease n) (fun t => t.conn n =
      { c with rate := min (rateMax s c) (c.rate + (s.rxt.ccParams.extractLsb' 8 16).toNat) }) ∧
    (∀ m : U32, m ∈ c.cancelDue → sealable s n = true → (s.part c.part).silent = false →
      goes (.xmitCancelSend n m) (fun t => (t.conn n).txPsn = c.txPsn + 1 ∧ (t.conn n).cancelDue = c.cancelDue.filter (· != m)
        ∧ ∃ k, (t.conn n).unacked = c.unacked ++ [k] ∧ k.opcode = opCancel ∧ k.msgId = m ∧ k.psn = c.txPsn))) ∧
  (∀ (s : State) (n : Nat), (s.conn n).state = .ready → retryLimit s ≤ (s.conn n).retries →
    ((s.conn n).fabric = true → (s.conn n).failedOver = false → failoverOf (s.conn n).ports ≠ homeOf (s.conn n).ports →
      let d : Conn := { s.conn n with
        failedOver := true, retries := 0, pathFailed := 0, pathMisses := Vector.replicate 16 0, probing := [], rate := rateInit s }
      let die := linkDie (failoverOf (s.conn n).ports).1
      ∃ t, exec (.retryLimitReached n) s = .next t ∧ OtherConns n s t ∧ t.parts = s.parts ∧ t.conn n = d ∧ CacheFits t die
        ∧ (CacheFits (State.onConn n (fun _ => d) s) die → t.mem = s.mem)) ∧
    (((s.conn n).fabric = false ∨ (s.conn n).failedOver = true ∨ failoverOf (s.conn n).ports = homeOf (s.conn n).ports) →
      ∃ t, exec (.retryLimitReached n) s = .next t ∧ OtherConns n s t ∧ t.mem = s.mem ∧ (t.conn n).state = .error
        ∧ (t.conn n).errorStatus = .remoteNak ∧ (t.conn n).unacked = []))

/-- A MODE write from the managing host sets the mode and takes the port's links down. A link that comes up is up; one that
goes down loses its association. A HELLO from the configured peer with both ephemeral keys known yields the two direction
keys and erases the ephemeral key; any other HELLO fails the handshake and leaves no association. A CONFIRM with the right
MAC installs the association with packet numbers at zero and keeps the old one; a wrong one fails. REKEY and a retry start a
new handshake with a new HELLO. ARP and Neighbor Solicitations for an own address are answered. A waiting instantiation whose
turn it is takes two pool outputs. (R216; R217; R218; R219; R220; R319) -/
def Obligations.LinksComeUpAndAgreeKeys : Prop :=
  (∀ (s : State) (h : PciePort) (q : RPort) (v : U32), booted s = true → barOpen s (.f0 h) = true → h = s.hub.managing →
    v.extractLsb' 0 2 ≠ 3 →
    ∃ t, exec (.portModeWrite h q v) s = .next t ∧ (t.ports[q]).mode = v.extractLsb' 0 2 ∧ (∀ b, (t.sub q b).linkUp = false)
      ∧ (∀ r, r ≠ q → t.ports[r] = s.ports[r]) ∧ t.mem = s.mem ∧ t.parts = s.parts) ∧
  (∀ (s : State) (q : RPort) (b : SubPort), (subExists s q b = true → (s.sub q b).linkUp = false →
      ∃ t, exec (.linkStateChange q b true) s = .next t ∧ (t.sub q b).linkUp = true ∧ t.mem = s.mem ∧ t.parts = s.parts
        ∧ ∀ r, r ≠ q → t.ports[r] = s.ports[r]) ∧
    ((s.sub q b).linkUp = true →
      ∃ t, exec (.linkStateChange q b false) s = .next t ∧ t.mem = s.mem ∧ t.parts = s.parts
        ∧ t.sub q b = { s.sub q b with linkUp := false, hs := .idle, assoc := none, oldAssoc := none, handshake := {} })) ∧
  (∀ (s : State) (q : RPort) (b : SubPort), (s.sub q b).linkUp = true →
    let x := s.sub q b
    (∀ (h own : HelloFrame) (e z : U256), helloOk x h = true → x.handshake.eph = some e → x.handshake.ownHello = some own →
      Crypto.ecdh e.toNat h.eph = some z →
      ∃ t, exec (.hello q b h) s = .next t ∧ t.mem = s.mem ∧ t.parts = s.parts
        ∧ (t.sub q b).handshake = { x.handshake with
            eph := none, peerHello := some h, confirmed := true
            keys := some (directionKey z own.eph h.eph own.static h.static, directionKey z own.eph h.eph h.static own.static) }
        ∧ (t.sub q b).assoc = x.assoc) ∧
    (∀ h : HelloFrame, helloOk x h = false →
      ∃ t, exec (.hello q b h) s = .next t ∧ (t.sub q b).hs = .failed ∧ (t.sub q b).assoc = none ∧ t.parts = s.parts) ∧
    (∀ (own peer : HelloFrame) (tx rx : U256) (mac : U128), x.handshake.keys = some (tx, rx) → x.handshake.ownHello = some own →
      x.handshake.peerHello = some peer →
      (mac = confirmMac rx peer own → ∃ t, exec (.linkConfirm q b mac) s = .next t ∧ t = { s with ports := t.ports }
        ∧ t.sub q b = { x with
              rxFrames := x.rxFrames + 1, hs := .done, handshake := {}, oldAssoc := x.assoc,
              assoc := some ⟨tx, rx, 0, 0⟩ }) ∧
      (mac ≠ confirmMac rx peer own → ∃ t, exec (.linkConfirm q b mac) s = .next t ∧ (t.sub q b).hs = .failed
        ∧ (t.sub q b).assoc = none ∧ t.parts = s.parts)) ∧
    (entropyStatus s = .ok → hasAlias s = true → canGenerate s (linkInst q) = true → (slotValue 3 mLink uSign s).isSome = true →
      (x.assoc.isSome = true → ∃ t, exec (.rekeyTimer q b) s = .next t ∧ (t.sub q b).hs = .waiting
        ∧ (t.sub q b).assoc = x.assoc ∧ t.parts = s.parts ∧ ∃ h, t.tx = .hello q b x.nexthop h :: s.tx) ∧
      (x.hs ≠ .done → ∃ t, exec (.handshakeRetry q b) s = .next t ∧ (t.sub q b).hs = .waiting ∧ t.parts = s.parts
        ∧ ∃ h, t.tx = .hello q b x.nexthop h :: s.tx)) ∧
    (x.assoc.isSome = true →
      (∀ a : ArpFrame, (macsec x a.sec).isSome = true → a.targetIp ≠ 0 → a.targetIp = x.ipv4 → ∃ t, exec (.arpRequest q b a) s = .next t
        ∧ t = { s with ports := t.ports, tx := .arpReply q b x.nexthop a.senderIp a.targetIp :: s.tx }) ∧
      (∀ a : NdFrame, (macsec x a.sec).isSome = true → a.target ≠ 0 → a.target = x.ipv6 → ∃ t, exec (.neighborSolicitation q b a) s = .next t
        ∧ t = { s with ports := t.ports, tx := .ndReply q b x.nexthop a.senderIp a.target :: s.tx }))) ∧
  (∀ (s : State) (i : Fin 13), s.rng.phase = .healthy → 2 ≤ s.rng.pool.length →
    nextWaiting s.rng.waiting = some ⟨i, .instantiate⟩ →
    ∃ t, exec .drbgGenerate s = .next t ∧ (t.rng.insts[i]).phase = 1 ∧ t.rng.pool = s.rng.pool.drop 2
      ∧ t.rng.waiting = s.rng.waiting.erase ⟨i, .instantiate⟩ ∧ t.rng.reseeds = sat64 s.rng.reseeds ∧ t.parts = s.parts)

/-- INSTAR_SET above the current and pending instar, for a later beat, becomes the pending one; at its beat the instar
changes and it completes OK. An accepted chirp clears the missed count, counts a hop, and its phase error sets LOCKED within
plus or minus 25 units and slews the next beat against it by at most 8. After 64 beats without one, DRIFT is set. The beat
period is taken only with no partition and inside its range; with a partition PERIOD_REFUSED is set. The member number and
the role are written only with no partition. (R154; R160; R161; R250; R251; R252; R253; R256; R270) -/
def Obligations.TheSystemKeepsItsBeat : Prop :=
  (∀ (s : State) (c : Cmd) (v : U32) (b : U64), FromF0 s c → s.sys.instarPending = none → s.sys.instar < v.toNat →
    s.sys.beat + 1 ≤ b.toNat →
    ∃ t, exec (.instarSet c v b) s = .next t ∧ t = { s with sys := { s.sys with instarPending := some ⟨v.toNat, b.toNat, c⟩ } }) ∧
  (∀ (s : State) (x : PendingInstar), s.sys.instarPending = some x → x.beat ≤ s.sys.beat → Answers s x.cmd 0x03 →
    ∃ t, exec .instarEffective s = .next t ∧ t.sys = { s.sys with instar := x.value, instarPending := none } ∧ t.mem = s.mem
      ∧ Completed s t x.cmd 0x03 .ok 0 0) ∧
  (∀ (s : State) (f : ChirpFrame), (s.sub f.port f.sub).linkUp = true → (macsec (s.sub f.port f.sub) f.sec).isSome = true →
    forUs (s.sub f.port f.sub) f.toRxtFrame = true → chirpFormed f = true →
    s.sys.master = false → f.port = s.sys.clockPort → f.sub = s.sys.clockSub → f.srcIp = s.sys.upstreamIp → f.hops.toNat < 31 →
    f.period.toNat = s.sys.beatPeriod →
    ∃ t, exec (.chirp f) s = .next t ∧ t.sys.chirpSeen = true ∧ t.sys.chirpNow = true ∧ t.sys.chirpMissed = 0
      ∧ t.sys.hops = f.hops.toNat + 1 ∧ t.sys.masterSeen = f.master.toNat % 1024
      ∧ t.sys.locked = decide (-25 ≤ t.sys.chirpError ∧ t.sys.chirpError ≤ 25)
      ∧ t.sys.slewNext = -(max (-8) (min t.sys.chirpError 8)) ∧ t.parts = s.parts ∧ t.mem = s.mem) ∧
  (∀ s : State, s.sys.master = false → s.sys.drift = false → 64 ≤ s.sys.chirpMissed →
    ∃ t, exec .chirpMissedLimit s = .next t ∧ t.sys = { s.sys with drift := true } ∧ t.parts = s.parts ∧ t.mem = s.mem) ∧
  (∀ (s : State) (q : PciePort) (v : U32), booted s = true → barOpen s (.f0 q) = true → q = s.hub.managing →
    (anyPartition s = false →
      (12500 ≤ v.toNat → v.toNat ≤ 12500000 → exec (.sysBeatPeriodWrite q v) s
        = .next { s with sys := { s.sys with periodPending := some v.toNat } }) ∧
      exec (.sysMemberWrite q v) s = .next { s with sys := { s.sys with member := v.toNat % 1024 } } ∧
      ∃ t, exec (.sysRoleWrite q v) s = .next t ∧ t.mem = s.mem ∧ t.parts = s.parts
        ∧ t.sys = { s.sys with
              master := v.getLsbD 0, clockPort := (v.extractLsb' 1 3).toFin, clockSub := (v.extractLsb' 4 1).toFin }
        ∧ (v.getLsbD 0 = true → t.clk = { s.clk with ref := .freeRun })
        ∧ (s.clk.ref ≠ .holdover → t = { s with sys := t.sys, clk := t.clk })) ∧
    (anyPartition s = true →
      exec (.sysBeatPeriodWrite q v) s = .next { s with sys := { s.sys with periodRefused := true } } ∧
      exec (.sysMemberWrite q v) s = .next s ∧ exec (.sysRoleWrite q v) s = .next s))

/-- An invalid input puts a LOCKED loop in HOLDOVER with the mean offset, counted, and an ACQUIRING loop back to FREE_RUN. An
acquiring loop with a valid input locks; a holdover with a valid input acquires again. A monitor window records the offset
and lane, and XO_FAIL follows what it shows of the oscillator. A failed check of a running compute PLL stops the die's clock
and aborts its clusters; that of a fixed PLL is a clock emergency. At the boundary the die runs from its other PLL, or, where
that one does not lock, is unusable, and its loaded partition is to be degraded. (R327; R328; R330; R332) -/
def Obligations.ClocksFailAndRecover : Prop :=
  (∀ (s : State) (m : U32),
    (s.clk.ref = .locked → s.clk.xoFail = false →
      ∃ t, exec (.refInputInvalid m) s = .next t ∧ t.parts = s.parts ∧ t.mem = s.mem ∧ t.pwr = s.pwr
        ∧ t.clk = { s.clk with ref := .holdover, inputValid := false, holdoverOffset := m, holdoverSince := s.sys.now,
                               lockLosses := sat32 s.clk.lockLosses }) ∧
    (s.clk.ref = .acquiring → exec (.refInputInvalid m) s
      = .next { s with clk := { s.clk with ref := .freeRun, inputValid := false } })) ∧
  (∀ s : State, s.clk.inputValid = true →
    (s.clk.ref = .acquiring → exec .refLockAchieved s = .next { s with clk := { s.clk with ref := .locked } }) ∧
    (s.clk.ref = .holdover → ∃ t, exec .holdoverExit s = .next t ∧ t.clk = { s.clk with ref := .acquiring }
      ∧ t.parts = s.parts ∧ t.mem = s.mem ∧ t.pwr = s.pwr)) ∧
  (∀ (s : State) (c : ClockSample),
    ∃ t, exec (.clockMonitorWindow c) s = .next t
      ∧ t.clk.freqOffset = c.freqOffset ∧ t.clk.lane = c.lane ∧ t.mem = s.mem
      ∧ (xoBad c (s.sub s.sys.clockPort s.sys.clockSub).linkUp = true → t.clk.xoFail = true)
      ∧ (xoBad c (s.sub s.sys.clockPort s.sys.clockSub).linkUp = false → s.pwr.emClock = false → s.clk.ref ≠ .locked →
          t.clk.xoFail = false)) ∧
  (∀ (s : State),
    (∀ d : Die, (s.clk.plls[d]).dieFailed = false →
      ∃ t, exec (.pllCheck (.die d) false) s = .next t ∧ t.clk.plls[d] = { s.clk.plls[d] with lost := true }
        ∧ (t.dies[d]).clockStopped = true ∧ (∀ e, e ≠ d → t.dies[e] = s.dies[e])
        ∧ ∀ c, (t.cluster d c).running = true → (t.cluster d c).aborted = true) ∧
    (∀ k : Fin 4, (∃ t, exec (.pllCheck (.mem k) false) s = .next t ∧ t.pwr.emClock = true ∧ t.mem = s.mem
        ∧ t.clk = { s.clk with memFailed := vput s.clk.memFailed k true }) ∧
      ∃ t, exec (.pllCheck (.link k) false) s = .next t ∧ t.pwr.emClock = true ∧ t.mem = s.mem
        ∧ t.clk = { s.clk with linkFailed := vput s.clk.linkFailed k true }) ∧
    (∀ x : PllTarget, exec (.pllCheck x true) s = .next s)) ∧
  (∀ (s : State) (d : Die), (s.clk.plls[d]).lost = true →
    (∃ t, exec (.pllFailover d true) s = .next t ∧ t.parts = s.parts ∧ t.mem = s.mem
      ∧ t.clk.plls[d] = { s.clk.plls[d] with onQ := !(s.clk.plls[d]).onQ, oneFailed := true, lost := false }
      ∧ t.dies[d] = { s.dies[d] with clockStopped := false }) ∧
    (∃ t, exec (.pllFailover d false) s = .next t ∧ t.mem = s.mem
      ∧ t.clk.plls[d] = { s.clk.plls[d] with oneFailed := true, dieFailed := true, lost := false }
      ∧ t.dies[d] = { s.dies[d] with unusable := true }
      ∧ ∀ p, s.ownerOf d = some p → (s.part p).phase = .loaded → (t.part p).degradeDue = true))

/-- SET_OP_MAX from 0 to 7 sets the partition's ceiling and completes OK. A read-back at the requested voltage is recorded;
the third that is not caps the die at its present point. A soft-start time that fits every image is taken and one that does
not sets the refused flag; a 1 in CAPPED's bit clears the cap. A power-state request from 0 to 4 is kept, and writes and
other wake events are noted and start an exit; its end is P0 with no site in self-refresh and, from P4, the beat counter
running. A calibration scales each meter that read. (R333; R334; R335; R336; R337; R338; R339; R345) -/
def Obligations.PowerFollowsItsRequests : Prop :=
  (∀ (s : State) (c : Cmd) (p : Part) (m : U8), FromPart s c p 0x09 → m.toNat ≤ 7 →
    ∃ t, exec (.opSet c m) s = .next t ∧ OnlyPart p s t ∧ (t.part p).opMax = m.toNat ∧ (t.part p).img = (s.part p).img
      ∧ Completed s t c 0x09 .ok 0 0) ∧
  (∀ (s : State) (d : Die) (ack : Bool) (mv : Nat), (s.pwr.ops[d]).raiseDue = true →
    let o := s.pwr.ops[d]
    (ack = true → voltageAt mv o.target = true → exec (.avsReadback d ack mv) s
      = .next { s with pwr := { s.pwr with ops := vput s.pwr.ops d { o with millivolt := mv, avsFails := 0 } } }) ∧
    ((ack && voltageAt mv o.target) = false → ∃ t, exec (.avsReadback d ack mv) s = .next t ∧ t.parts = s.parts ∧ t.mem = s.mem
      ∧ (2 ≤ o.avsFails → t.pwr.ops[d] = { o with avsFails := 0, cap := some o.current, target := o.current, raiseDue := false,
                                                  transition := false })
      ∧ (o.avsFails < 2 → t.pwr.ops[d] = { o with avsFails := o.avsFails + 1 }))) ∧
  (∀ (s : State) (q : PciePort) (v : U32), barOpen s (.f0 q) = true → q = s.hub.managing →
    (((v.extractLsb' 0 7).toNat ≤ 80 → softFits s (v.extractLsb' 0 7).toNat = true →
        ∃ t, exec (.softStartWrite q v) s = .next t ∧ t = { s with pwr := t.pwr } ∧ t.pwr.tSoft = (v.extractLsb' 0 7).toNat
          ∧ t.pwr.wakeSeen = true) ∧
      ((v.extractLsb' 0 7).toNat ≤ 80 → softFits s (v.extractLsb' 0 7).toNat = false →
        ∃ t, exec (.softStartWrite q v) s = .next t ∧ t = { s with pwr := t.pwr } ∧ t.pwr.tSoft = s.pwr.tSoft
          ∧ t.pwr.softRefused = true)) ∧
    (∀ d : Die, v.getLsbD 17 = true → ∃ t, exec (.cappedClear q d v) s = .next t ∧ t = { s with pwr := t.pwr }
      ∧ t.pwr.ops[d] = { s.pwr.ops[d] with cap := none, avsFails := 0 } ∧ ∀ e, e ≠ d → t.pwr.ops[e] = s.pwr.ops[e]) ∧
    ((v.extractLsb' 0 3).toNat ≤ 4 → exec (.pwrStateReqWrite q v) s = .next { s with pwr := { s.pwr with
      stateReq := (v.extractLsb' 0 3).toNat, wakeSeen := true, exiting := s.pwr.exiting || s.pwr.state != .p0 } })) ∧
  (∀ (s : State) (w : WakeCause), (∀ p, w = .rxtData p → s.exists_ p = true) → exec (.powerWake w) s
    = .next { s with pwr := { s.pwr with wakeSeen := true, exiting := s.pwr.exiting || s.pwr.state != .p0 } }) ∧
  (∀ s : State, s.pwr.exiting = true → ∃ t, exec .powerExitComplete s = .next t
    ∧ t.pwr = { s.pwr with state := .p0, exiting := false } ∧ t.sys.running = (s.sys.running || s.pwr.state == .p4)
    ∧ (∀ n : Site, (t.mem.sites[n]).selfRefresh = false) ∧ t.mem.cells = s.mem.cells ∧ t.parts = s.parts) ∧
  (∀ (s : State) (x : CalibrationSample), ∃ t, exec (.energyCalibration x) s = .next t ∧ t = { s with pwr := t.pwr }
    ∧ ∀ d : Die, t.pwr.meterScale[d] = if s.pwr.lastDieDraw[d] = 0 then s.pwr.meterScale[d]
        else x.dieDraw.getD d.val 0 * 1024 / s.pwr.lastDieDraw[d])

/-- A die's reading is the hottest of its valid sensors with their number, and 105 degrees or more is a thermal emergency. A
good coolant read is taken; the third failed one in a row makes it stale with full flow, and so does a compute die with fewer than
8 valid sensors. Under a thermal emergency or stale
coolant the model asks for full flow, and a fall of the flow is one step at most. A supply alert or a droop is a supply
emergency, and a droop stops the die's clock and aborts its clusters. An emergency's clearing ends it: the thermal one only
when every valid die is at 95 degrees or below. (R340; R341; R342; R343) -/
def Obligations.HeatAndEmergencies : Prop :=
  (∀ (s : State) (d : AnyDie) (l : List Int) (x : Int), (sortInts (l.filter (readingValid l))).getLast? = some x →
    ∃ t, exec (.tempSensorRead d l) s = .next t ∧ t.pwr.tj[d] = ⟨x, (l.filter (readingValid l)).length⟩
      ∧ (∀ e, e ≠ d → t.pwr.tj[e] = s.pwr.tj[e]) ∧ (420 ≤ x → t.pwr.emThermal = true)
      ∧ (x < 420 → t.pwr.emThermal = s.pwr.emThermal) ∧ t.mem = s.mem
      ∧ (d.val < 8 → (l.filter (readingValid l)).length < 8 → t.pwr.flow = 255)) ∧
  (∀ (s : State) (x : Int), exec (.coolantRead (some x)) s
    = .next { s with pwr := { s.pwr with coolantT := x, coolantFails := 0, coolantStale := false } }) ∧
  (∀ s : State, 2 ≤ s.pwr.coolantFails → ∃ t, exec (.coolantRead none) s = .next t ∧ t.parts = s.parts ∧ t.mem = s.mem
    ∧ t.pwr = { s.pwr with coolantFails := 3, coolantStale := true, coolantT := 180, flow := 255 }) ∧
  (∀ s : State, s.pwr.flow ≤ 255 → ∃ t, exec .thermalModelUpdate s = .next t ∧ t = { s with pwr := t.pwr }
    ∧ ((s.pwr.emThermal = true ∨ s.pwr.coolantStale = true) → t.pwr.flow = 255)
    ∧ s.pwr.flow ≤ t.pwr.flow + 1 ∧ t.pwr.flow ≤ 255 ∧ t.pwr.packSum = 0 ∧ t.pwr.packCount = 0) ∧
  (∀ s : State, (∃ t, exec (.vrAlert .alertPin) s = .next t ∧ t.pwr.emSupply = true ∧ t.pwr.vrAlert = true ∧ t.mem = s.mem) ∧
    (∀ n, ∃ t, exec (.vrAlert (.rail n)) s = .next t ∧ t.pwr.emSupply = true ∧ n ∈ t.pwr.railsBad ∧ t.mem = s.mem) ∧
    (∀ d, ∃ t, exec (.droopDetect d) s = .next t ∧ t.pwr.emSupply = true ∧ (t.dies[d]).clockStopped = true
      ∧ ∀ c, (t.cluster d c).running = true → (t.cluster d c).aborted = true)) ∧
  (∀ s : State,
    ((∀ d : AnyDie, (s.pwr.tj[d]).valid = 0 ∨ (s.pwr.tj[d]).tj ≤ 380) →
      ∃ t, exec (.emergencyClear .thermal) s = .next t ∧ t.pwr.emThermal = false ∧ t.parts = s.parts ∧ t.mem = s.mem) ∧
    (∀ d : AnyDie, (s.pwr.tj[d]).valid ≠ 0 → 380 < (s.pwr.tj[d]).tj → exec (.emergencyClear .thermal) s = .next s) ∧
    (∃ t, exec (.emergencyClear .supply) s = .next t ∧ t.pwr.emSupply = false ∧ t.parts = s.parts ∧ t.mem = s.mem
      ∧ ∀ d : Die, (t.dies[d]).clockStopped = (s.clk.plls[d]).lost) ∧
    (∃ t, exec (.emergencyClear .clock) s = .next t ∧ t.pwr.emClock = false ∧ t.clk = { s.clk with xoFail := false }
      ∧ t.parts = s.parts ∧ t.mem = s.mem))

/-- After settling the next window is the start-up window. A passing window of a HEALTHY source with at least 24 live cells
adds its conditioned output to the pool while that holds fewer than 8; a failing one, and any without the oscillator, leaves ALARM or
FAILED, not READY, with an empty pool and no ready instance. 1,024 passing windows end an ALARM. READY still clear after 40 ms changes only the event
queues. In BLANK and FACTORY the test register alarms the source and INJECT takes words while on; otherwise they only record
LIFECYCLE_DENIED. RNG_RAW reads zero unless RAW_READ, and with it moves on by the width of the read. (R7; R313; R314; R315; R316; R322;
R324; R330) -/
def Obligations.EntropySourceIsWatched : Prop :=
  (∀ s : State, s.rng.start = .settling → s.rng.phase = .startup →
    exec .rngStartup s = .next { s with rng := { s.rng with start := .window } }) ∧
  (∀ (s : State) (w : WindowSample), s.rng.phase = .healthy → s.rng.inject = false → s.rng.rawRead = false →
    (windowFails s.rng w.bits w.trims = [] → s.clk.xoFail = false → 24 ≤ countBelow 32 (liveCell s.rng) →
      ∃ t, exec (.entropyWindowEnd w) s = .next t ∧ t = { s with rng := t.rng } ∧ t.rng.phase = .healthy
        ∧ t.rng.windows = sat64 s.rng.windows ∧ t.rng.ready = s.rng.ready
        ∧ t.rng.pool = if s.rng.pool.length < 8 then s.rng.pool ++ [Crypto.sha256 (windowBytes s.rng w.bits)] else s.rng.pool) ∧
    (windowFails s.rng w.bits w.trims ≠ [] ∨ s.clk.xoFail = true →
      ∃ t, exec (.entropyWindowEnd w) s = .next t ∧ (t.rng.phase = .alarm ∨ t.rng.phase = .failed) ∧ t.rng.ready = false
        ∧ t.rng.pool = [] ∧ (∀ i : Fin 13, (t.rng.insts[i]).phase ≠ 1) ∧ t.mem = s.mem)) ∧
  (∀ s : State, s.rng.phase = .alarm → 1024 ≤ s.rng.healthyRun → s.rng.inject = false → s.rng.rawRead = false →
    ∃ t, exec .entropyRecovered s = .next t ∧ t.rng.phase = .healthy ∧ t.rng.ready = (s.rng.start == .done)
      ∧ t.rng.pool = s.rng.pool ∧ t.parts = s.parts ∧ t.mem = s.mem) ∧
  (∀ s : State, s.rng.ready = false →
    ∃ t, exec .rngReadyTimeout s = .next t ∧ t = { s with hub := t.hub, evr := t.evr }) ∧
  (∀ (s : State) (q : PciePort), barOpen s (.f0 q) = true →
    (q = s.hub.managing → testsAllowed s = false → ∀ v x,
      exec (.rngTestWrite q v) s = .next { s with rng := { s.rng with testLast := .lifecycleDenied } }
      ∧ exec (.rngInjectWrite q x) s = .next { s with rng := { s.rng with testLast := .lifecycleDenied } }) ∧
    (q = s.hub.managing → testsAllowed s = true → s.rng.phase ≠ .failed → ∀ v : U32, (v.getLsbD 0 || v.getLsbD 1) = true →
      ∃ t, exec (.rngTestWrite q v) s = .next t ∧ t = { s with rng := t.rng } ∧ t.rng.phase = .alarm ∧ t.rng.ready = false
        ∧ t.rng.rawRead = v.getLsbD 0 ∧ t.rng.inject = v.getLsbD 1 ∧ t.rng.pool = []) ∧
    (q = s.hub.managing → testsAllowed s = true → s.rng.inject = true → ∀ x,
      exec (.rngInjectWrite q x) s = .next { s with rng := { s.rng with injected := s.rng.injected ++ [x] } }) ∧
    ∀ wide : Bool, let n := if wide then 2 else 1
      (s.rng.rawRead = false → exec (.rngRawRead ⟨q, wide⟩) s = .next { s with answer := zeroBytes (4 * n), answerPoison := false }) ∧
      (s.rng.rawRead = true → ∃ t, exec (.rngRawRead ⟨q, wide⟩) s = .next t ∧ t.rng = { s.rng with rawTaken := s.rng.rawTaken + n }
        ∧ t.answer.length = 4 * n ∧ t.answerPoison = false ∧ t.parts = s.parts ∧ t.mem = s.mem))

/-- Hub reset and RESET_N end every partition at once: no partition exists, no SRAM or staging byte is left, the SPI NOR and
the bytes of the sites and hosts stay. With readable fuses hub reset leaves the beat counter running, the strapped port
managing, and RESET_N released; an unreadable life-cycle word leaves it halted. BIN and the ports' MACs are those of the fuses. The loss of main power drops the sites' bytes
too. Toxel starts only after a boot and then the DOE instances answer. A trained site is zeroed and then TRAINED; one whose
training fails has failed. Repairs of UCIe: every module but those named is trained. (R2; R287; R392; R393; R394; R396; R407) -/
def Obligations.ResetEndsEverything : Prop :=
  (∀ (s : State) (h : ResetInputs), ∃ t, exec (.hubReset h) s = .next t ∧ t.parts = State.reset.parts
    ∧ t.spi = s.spi ∧ t.key.fuses = s.key.fuses ∧ t.key.vbat.ledger = s.key.vbat.ledger ∧ t.hub.managing = h.mgrSel
    ∧ t.hub.lowLeakage = s.key.fuses.lowLeakage ∧ (∀ q b, (t.sub q b).mac = (s.key.fuses.portMac[q])[b])
    ∧ t.pins.resetN = true ∧ t.sys.running = s.key.fuses.readable ∧ t.sys.beat = 0 ∧ t.pending = s.pending
    ∧ (∀ a, a < 2 ^ 40 ∨ (2 ^ 50 ≤ a ∧ a < 2 ^ 64) → t.byteAt a = 0)
    ∧ ∀ a, (2 ^ 40 ≤ a ∧ a < 2 ^ 50) ∨ 2 ^ 64 ≤ a → t.byteAt a = s.byteAt a) ∧
  (∀ (s : State), (∃ t, exec .resetAssert s = .next t ∧ t.parts = State.reset.parts ∧ t.spi = s.spi ∧ t.key.fuses = s.key.fuses
      ∧ t.key.vbat = s.key.vbat ∧ t.key.slots = State.reset.key.slots ∧ t.pins.resetN = false ∧ t.sys.running = false
      ∧ ∀ a, (2 ^ 40 ≤ a ∧ a < 2 ^ 50) ∨ 2 ^ 64 ≤ a → t.byteAt a = s.byteAt a) ∧
    ∃ t, exec .mainPowerLoss s = .next t ∧ t.parts = State.reset.parts ∧ t.key.vbat = s.key.vbat ∧ t.pins.mainPower = false
      ∧ (∀ a, a < 2 ^ 64 → t.byteAt a = 0) ∧ ∀ a, 2 ^ 64 ≤ a → t.byteAt a = s.byteAt a) ∧
  (∀ s : State, (booted s = true → ∃ t, exec .toxelStart s = .next t ∧ t = { s with hub := t.hub } ∧ t.hub.toxel = true
      ∧ ∀ q : PciePort, (t.hub.doe[q]).busy = false) ∧
    (booted s = false → exec .toxelStart s = .next s)) ∧
  (∀ (s : State) (n : Site), (s.pins.resetN = true → (s.mem.sites[n]).trained = false → (s.mem.sites[n]).failed = false →
      (∃ t, exec (.dramTrainingComplete n true) s = .next t ∧ t = { s with mem := t.mem } ∧ t.mem.cells = s.mem.cells
        ∧ t.mem.sites[n] = { s.mem.sites[n] with zeroing := true }) ∧
      (∃ t, exec (.dramTrainingComplete n false) s = .next t ∧ (t.mem.sites[n]).failed = true
        ∧ t.mem.cells = s.mem.cells)) ∧
    ((s.mem.sites[n]).zeroing = true → ∃ t, exec (.siteZeroingComplete n) s = .next t ∧ t = { s with mem := t.mem }
      ∧ t.mem.sites[n] = { s.mem.sites[n] with zeroing := false, trained := true }
      ∧ KeepsBytesOutside (dramKey n.val 0) (sitePages * 2 ^ 16) s t
      ∧ ∀ off, off < sitePages * 2 ^ 16 → t.byteAt (dramKey n.val off) = 0)) ∧
  (∀ (s : State) (l : List UcieModule), ∃ t, exec (.ucieTrainingComplete l) s = .next t
    ∧ ∀ m : UcieModule, (t.ucie[m]).trained = !l.contains m)

/-- A PCIe link that leaves L0, and PERST_N, reset its functions' configuration space and its IDE key; a link that reaches
L0, or retrains, has the new width, rate and capacity. A failed flit counts, and is replayed from its direction's buffer where that
still holds it among the newest 64. A failing lane takes a redundant one, or
retires the module. A tamper event erases the root, the ledger and the boot count and sets its cause; with main power every
key slot and MACsec association is gone and the fence is due. The end of hold-up without main power clears the VBAT domain.
The TAP, THERMTRIP_N and the refused controller role change only the pins. (R14; R288; R289; R347; R392; R395; R409; R411;
R413; R414) -/
def Obligations.LinksPinsAndTamper : Prop :=
  (∀ (s : State) (q : PciePort),
    (∃ t, exec (.pcieLinkDown q) s = .next t ∧ t = { s with hub := t.hub } ∧ (t.hub.links[q]).inL0 = false
      ∧ (t.hub.links[q]).ideKey = none ∧ t.hub.fnConfig[q] = Vector.replicate 9 {}
      ∧ ∀ r, r ≠ q → t.hub.links[r] = s.hub.links[r] ∧ t.hub.fnConfig[r] = s.hub.fnConfig[r]) ∧
    (∃ t, exec (.perstAssert q) s = .next t ∧ t = { s with hub := t.hub } ∧ (t.hub.links[q]).perst = true
      ∧ (t.hub.links[q]).inL0 = false ∧ t.hub.fnConfig[q] = Vector.replicate 9 {}
      ∧ ∀ r, r ≠ q → t.hub.links[r] = s.hub.links[r] ∧ t.hub.fnConfig[r] = s.hub.fnConfig[r]) ∧
    (∀ (w r : Nat) (sris : Bool), s.pins.resetN = true → ∃ t, exec (.pcieLinkUp q w r sris) s = .next t ∧ t.mem = s.mem
      ∧ t.hub.links[q] = { s.hub.links[q] with inL0 := true, width := w % 32, rate := r % 8, sris := sris, perst := false,
                                               holdLink := false, capacity := linkCapacity w r }) ∧
    (∀ (w r : Nat), (s.hub.links[q]).inL0 = true → ∃ t, exec (.pcieLinkRetrain q w r) s = .next t ∧ t.mem = s.mem
      ∧ t.hub.links[q] = { s.hub.links[q] with width := w % 32, rate := r % 8, capacity := linkCapacity w r })) ∧
  (∀ (s : State) (m : UcieModule),
    (∀ f : FlitFailure, let n := max ((s.ucie[m]).dirs[f.dir]).sent f.sent
      ∃ t, exec (.ucieFlitCrcFail m f) s = .next t ∧ t = { s with ucie := t.ucie }
        ∧ t.ucie[m] = { s.ucie[m] with crcErrors := sat32 (s.ucie[m]).crcErrors, dirs := (t.ucie[m]).dirs }
        ∧ ((t.ucie[m]).dirs[f.dir]).sent = n ∧ ((t.ucie[m]).dirs[f.dir]).replayBuffer.length = min 64 n
        ∧ (1 ≤ f.flit → f.flit ≤ n → n < f.flit + 64 → ((t.ucie[m]).dirs[f.dir]).replayed = some f.flit)
        ∧ (∀ d, d ≠ f.dir → (t.ucie[m]).dirs[d] = (s.ucie[m]).dirs[d]) ∧ ∀ k, k ≠ m → t.ucie[k] = s.ucie[k]) ∧
    ((s.ucie[m]).trained = true → (s.ucie[m]).retired = false →
      ∃ t, exec (.ucieLaneFail m) s = .next t ∧ t.mem = s.mem ∧ (∀ k, k ≠ m → t.ucie[k] = s.ucie[k])
        ∧ (0 < (s.ucie[m]).spareLanes → t.ucie[m] = { s.ucie[m] with spareLanes := (s.ucie[m]).spareLanes - 1 })
        ∧ ((s.ucie[m]).spareLanes = 0 → t.ucie[m] = { s.ucie[m] with retired := true }))) ∧
  (∀ (s : State) (c : TamperCause),
    (∃ t, exec (.tamperDetect c false) s = .next t ∧ t = { s with key := { s.key with vbat := { s.key.vbat with
        root := none, ledger := [], bootCount := 0, pendingUnlock := false, tamper := s.key.vbat.tamper ||| tamperBit c } } }) ∧
    (∃ t, exec (.tamperDetect c true) s = .next t ∧ t.key.vbat.root = none ∧ t.key.vbat.ledger = []
      ∧ (∀ i : Fin 64, t.key.slots[i] = {}) ∧ t.sys.fenceDue = true ∧ t.mem = s.mem
      ∧ (∀ q b, (t.sub q b).assoc = none ∧ (t.sub q b).oldAssoc = none) ∧ ∀ i : Fin 13, t.rng.insts[i] = {})) ∧
  (∀ s : State, s.pins.mainPower = false → exec .holdupExpiry s = .next { s with key := { s.key with vbat := {} } }) ∧
  (∀ s : State, (∀ d, exec (.thermtrip d) s = .next { s with pins := { s.pins with thermtrip := true } }) ∧
    exec .controllerRoleRequest s = .next { s with pins := { s.pins with roleRefused := s.pins.roleRefused + 1 } } ∧
    (∃ t, exec (.tapInstruction .idcode) s = .next t ∧ t = { s with pins := t.pins } ∧ t.pins.tapInstr = .idcode
      ∧ t.pins.tapData = bits32 0x00250E67) ∧
    (∀ l, dbgNow s = 0 → ∃ t, exec (.tapInstruction (.extest l)) s = .next t ∧ t = { s with pins := t.pins }
      ∧ t.pins.tapInstr = .bypass ∧ t.pins.bsrOut = s.pins.bsrOut) ∧
    (∀ l, (dbgNow s = 1 ∨ dbgNow s = 2) → ∃ t, exec (.tapInstruction (.extest l)) s = .next t ∧ t = { s with pins := t.pins }
      ∧ t.pins.tapInstr = .extest l ∧ t.pins.bsrOut = l))

/-- LC_FACTORY in BLANK makes the device FACTORY; a burn that does not verify leaves it BLANK. ENROLL in FACTORY with 96 bytes, no
partition, a generation left and entropy burns the next generation and, once the device's instance can draw, has a root; a burn
that verifies makes it ENROLLED with the owner's hashes. While the instance cannot draw the mailbox stays BUSY. A signed LC_ADVANCE to DEPLOYED makes it
DEPLOYED; a signed unlock of scope 1 opens scan; each counts a request. A chain whose last key is the device's is stored.
SLOT_INFO gives 13 bytes. A chunk is staged at its offset. A staged image that passes step 3 boots in recovery, or is written
to the SPI NOR; one that fails leaves both, and one whose write does not verify ends with UNCORRECTABLE_MEMORY. SVN_COMMIT burns the running SVN. (R300; R301; R302; R303; R304; R319) -/
def Obligations.MailboxCommandsComplete : Prop :=
  (∀ (s : State) (q : PciePort) (len : Nat) (verified : Bool), MailboxOpen s q →
    let b := mbxBytes s len
    (s.key.fuses.lifeCycle = .blank → b = [] → ∃ t, exec (.lcFactory q ⟨len, verified⟩) s = .next t ∧ t = { s with key := t.key }
      ∧ t.key.fuses = { s.key.fuses with lifeCycle := if verified then .factory else .blank }
      ∧ MailboxEnds t (if verified then .ok else .lifecycleDenied) 0) ∧
    (s.key.fuses.lifeCycle ≠ .blank → ∃ t, exec (.lcFactory q ⟨len, verified⟩) s = .next t ∧ t = { s with key := t.key }
      ∧ t.key.fuses = s.key.fuses ∧ MailboxEnds t .lifecycleDenied 0) ∧
    (s.key.fuses.lifeCycle = .factory → b.length = 96 → anyPartition s = false → s.key.fuses.identityGen < 32 →
      entropyStatus s = .ok →
      (canGenerate s 0 = true → ∃ t, exec (.enroll q ⟨len, verified⟩) s = .next t
        ∧ t.key.fuses = { s.key.fuses with
            lifeCycle := if verified then .enrolled else .factory, identityGen := s.key.fuses.identityGen + 1
            ownerHash := Crypto.of256 (fieldB b 0 32), fwSigner1 := Crypto.of256 (fieldB b 32 32)
            debugHash := Crypto.of256 (fieldB b 64 32) }
        ∧ t.key.vbat.root.isSome = true ∧ t.key.vbat.ledger = [] ∧ t.key.vbat.tamper = 0
        ∧ MailboxEnds t (if verified then .ok else .lifecycleDenied) (if verified then 68 else 0)
        ∧ t.parts = s.parts ∧ t.mem = s.mem) ∧
      (canGenerate s 0 = false → ∃ t, exec (.enroll q ⟨len, verified⟩) s = .next t ∧ t = { s with key := t.key, rng := t.rng }
        ∧ t.key = { s.key with mbxState := 1, fuses := { s.key.fuses with identityGen := s.key.fuses.identityGen + 1 } }
        ∧ (⟨0, .enroll (some b) verified⟩ : DrbgWait) ∈ t.rng.waiting)) ∧
    (fieldLE b 1 1 = 3 → s.key.fuses.lifeCycle = .enrolled → anyPartition s = false →
      let req := signedRequest 3 s.key.fuses.ownerHash b s
      ∃ t, exec (.lcAdvance q ⟨len, verified⟩) s = .next t ∧ t = { s with key := t.key }
        ∧ t.key.requestCount = s.key.requestCount + 1
        ∧ MailboxEnds t (if req = .ok ∧ verified = false then .lifecycleDenied else req) 0
        ∧ t.key.fuses = { s.key.fuses with lifeCycle := if req = .ok ∧ verified = true then .deployed else .enrolled }) ∧
    (fieldLE b 48 1 = 1 → s.key.fuses.lifeCycle = .deployed → anyPartition s = false →
      ∃ t, exec (.debugUnlock q len) s = .next t ∧ t = { s with key := t.key } ∧ t.key.requestCount = s.key.requestCount + 1
        ∧ MailboxEnds t (signedRequest 4 s.key.fuses.debugHash b s) 0
        ∧ t.key.scanOpen = (s.key.scanOpen || signedRequest 4 s.key.fuses.debugHash b s == .ok)) ∧
    ((s.key.fuses.lifeCycle = .enrolled ∨ s.key.fuses.lifeCycle = .deployed) → tampered s = false → anyPartition s = false →
      certKey (lastCert 64 b) = some (Crypto.publicKey (slotAt s 1).value.toNat) →
      ∃ t, exec (.certWrite q len) s = .next t ∧ t = { s with spi := { s.spi with certs := b }, key := t.key }
        ∧ MailboxEnds t .ok 0) ∧
    (∃ t, exec (.fwWrite q ⟨len, true⟩) s = .next t ∧ t = { s with spi := t.spi, key := t.key }
      ∧ t.spi.firmware = (if fwCheck s.key.fuses (stagedImage s.key) = .ok then stagedImage s.key else s.spi.firmware)
      ∧ MailboxEnds t (fwCheck s.key.fuses (stagedImage s.key)) 0) ∧
    (fwCheck s.key.fuses (stagedImage s.key) = .ok → ∃ t, exec (.fwWrite q ⟨len, false⟩) s = .next t
      ∧ t = { s with spi := t.spi, key := t.key } ∧ t.key.stage = s.key.stage ∧ MailboxEnds t .uncorrectableMemory 0) ∧
    (s.key.runningSvn ≤ 255 → ∃ t, exec (.svnCommit q len) s = .next t ∧ t = { s with key := t.key } ∧ MailboxEnds t .ok 0
      ∧ t.key.fuses = { s.key.fuses with svn := max s.key.fuses.svn s.key.runningSvn })) ∧
  (∀ (s : State) (q : PciePort) (len : Nat), F0Open s q → s.key.mbxState ≠ 1 →
    let b := mbxBytes s len
    (b.length = 1 → fieldLE b 0 1 ≤ 63 → ∃ t, exec (.slotInfo q len) s = .next t ∧ t = { s with key := t.key }
      ∧ t.key.slots = s.key.slots ∧ MailboxEnds t .ok 13) ∧
    (64 ≤ b.length → zerosAt b 12 52 = true → b.length = 64 + fieldLE b 8 4 → fieldLE b 0 8 + fieldLE b 8 4 ≤ 8388608 →
      ∃ t, exec (.imageChunk q len) s = .next t ∧ t = { s with key := t.key } ∧ MailboxEnds t .ok 0
        ∧ ∀ i, i < fieldLE b 8 4 → tget t.key.staged (fieldLE b 0 8 + i) 0 = b.getD (64 + i) 0) ∧
    (s.key.stage = .recovery → ∃ t, exec (.imageRun q len) s = .next t ∧ t = { s with key := t.key }
      ∧ t.key.stage = (if fwCheck s.key.fuses (stagedImage s.key) = .ok then .recovered else .recovery)
      ∧ t.key.bootStatus = fwCheck s.key.fuses (stagedImage s.key)
      ∧ MailboxEnds t (fwCheck s.key.fuses (stagedImage s.key)) 0))

/-- GET_VERSION, GET_CAPABILITIES and NEGOTIATE_ALGORITHMS, in that order, open the responder. Then GET_DIGESTS gives the
hash of the chain and GET_CERTIFICATE its bytes; CHALLENGE is signed with the alias key and counted; GET_MEASUREMENTS gives
the blocks it names. KEY_EXCHANGE with entropy opens a session at once where the device's instance can draw, and else leaves the
mailbox busy until it can; FINISH with the session's proof establishes it, KEY_UPDATE
moves its secret on, IDE key messages reach the port's engine, and END_SESSION closes it. DOE Abort drops the response and the wait, and
an object too long or of another protocol sets DOE Error, and a request that is not supported is answered with an ERROR. Only the port's own instance changes. (R11; R305; R306; R307; R319; R367) -/
def Obligations.SpdmRequestsAreAnswered : Prop :=
  (∀ (s : State) (q : PciePort), (s.hub.doe[q]).busy = false →
    (∃ t, exec (.getVersion q) s = .next t ∧ t = { s with hub := t.hub } ∧ Answered s t q (.version 1 2)
      ∧ (t.hub.doe[q]).version = true ∧ (t.hub.doe[q]).capabilities = false ∧ (t.hub.doe[q]).algorithms = false) ∧
    ((s.hub.doe[q]).version = true → ∃ t, exec (.getCapabilities q) s = .next t ∧ t = { s with hub := t.hub }
      ∧ Answered s t q (.capabilities true true true true true true) ∧ (t.hub.doe[q]).capabilities = true) ∧
    (∀ a, (s.hub.doe[q]).version = true → (s.hub.doe[q]).capabilities = true →
      ∃ t, exec (.negotiateAlgorithms q a) s = .next t ∧ t = { s with hub := t.hub } ∧ Answered s t q (.algorithms a)
        ∧ (t.hub.doe[q]).algorithms = (a.ecdsaP256 && a.sha256 && a.secp256r1 && a.aes256gcm)) ∧
    (∀ n known, 16384 < n ∨ known = false → ∃ t, exec (.doeObjectReject q n known) s = .next t ∧ t = { s with hub := t.hub }
      ∧ t.hub.doe[q] = { s.hub.doe[q] with error := true }) ∧
    (∀ n, n ≤ 16384 → ∃ t, exec (.doeObjectReject q n true) s = .next t ∧ t = { s with hub := t.hub }
      ∧ Answered s t q (.error .unsupportedRequest))) ∧
  (∀ (s : State) (q : PciePort),
    let waits := s.rng.waiting.any fun w => isExchange q w.use
    ∃ t, exec (.doeAbort q) s = .next t ∧ t = { s with hub := t.hub, rng := t.rng }
      ∧ t.rng = { s.rng with waiting := s.rng.waiting.filter fun w => !isExchange q w.use }
      ∧ t.hub.doe[q] = { s.hub.doe[q] with response := none, error := false, busy := (s.hub.doe[q]).busy && !waits }) ∧
  (∀ (s : State) (q : PciePort), SpdmOpen s q →
    (∃ t, exec (.getDigests q) s = .next t ∧ t = { s with hub := t.hub } ∧ Answered s t q (.digests (Crypto.sha256 (certChain s)))) ∧
    (∀ off n : U16, off.toNat < (certChain s).length → ∃ t, exec (.getCertificate q 0 off n) s = .next t
      ∧ t = { s with hub := t.hub } ∧ Answered s t q (.certificate (fieldB (certChain s) off.toNat n.toNat)
          ((certChain s).length - off.toNat - (fieldB (certChain s) off.toNat n.toNat).length))) ∧
    (∀ x nonce, (slotUse 3 mSecurity uSign s).2 = .ok x → ∃ t sig, exec (.challenge q 0 nonce) s = .next t
      ∧ Answered s t q (.challengeAuth (Crypto.sha256 (certChain s)) (spdmNonce s) sig)
      ∧ t.key.spdmCount = s.key.spdmCount + 1 ∧ t.parts = s.parts ∧ t.mem = s.mem) ∧
    (∀ (i : U8) nonce bs, measurementsFor s i.toNat = some bs → ∃ t, exec (.getMeasurements q i false nonce) s = .next t
      ∧ t = { s with hub := t.hub, key := { s.key with spdmCount := s.key.spdmCount + 1 } }
      ∧ Answered s t q (.measurements bs (spdmNonce s) none)) ∧
    (∀ (req : U16) ex, Crypto.onCurve ex = true → entropyStatus s = .ok → (s.hub.doe[q]).session = none → canGenerate s 0 = false →
      ∃ t, exec (.keyExchange q 0 req ex) s = .next t ∧ t = { s with hub := t.hub, rng := t.rng } ∧ (t.hub.doe[q]).busy = true
        ∧ (⟨0, .keyExchange q req ex⟩ : DrbgWait) ∈ t.rng.waiting) ∧
    (∀ (req : U16) ex z x, Crypto.onCurve ex = true → entropyStatus s = .ok → (s.hub.doe[q]).session = none → canGenerate s 0 = true →
      Crypto.ecdh ((generate 0 s).1.toNat % (Crypto.pN - 1) + 1) ex = some z → (slotUse 3 mSecurity uSign s).2 = .ok x →
      ∃ t y, exec (.keyExchange q 0 req ex) s = .next t ∧ (t.hub.doe[q]).session = some y ∧ y.id = req ∧ y.established = false
        ∧ (∃ sig v, Answered s t q (.keyExchange req
            (Crypto.publicKey ((generate 0 s).1.toNat % (Crypto.pN - 1) + 1)) sig v)) ∧ t.parts = s.parts ∧ t.mem = s.mem) ∧
    (∀ y, (s.hub.doe[q]).session = some y →
      (y.established = false → ∃ t, exec (.finish q y.finishKey) s = .next t ∧ t = { s with hub := t.hub }
        ∧ Answered s t q .finish ∧ (t.hub.doe[q]).session = some { y with established := true }) ∧
      (y.established = true →
        (∃ t, exec (.keyUpdate q 1) s = .next t ∧ t = { s with hub := t.hub, key := t.key } ∧ Answered s t q .keyUpdate
          ∧ (t.hub.doe[q]).session = some { y with updates := y.updates + 1 }) ∧
        (∃ t, exec (.endSession q) s = .next t ∧ t = { s with hub := t.hub, key := t.key } ∧ Answered s t q .endSession
          ∧ (t.hub.doe[q]).session = none) ∧
        (∀ k, (s.hub.links[q]).inL0 = true → ∃ t, exec (.ideKeyProgramming q (.keyProg k)) s = .next t
          ∧ t = { s with hub := t.hub } ∧ Answered s t q (.ideKm true) ∧ t.hub.links[q] = { s.hub.links[q] with ideKey := some k }) ∧
        ∃ t, exec (.ideKeyProgramming q .setStop) s = .next t ∧ t = { s with hub := t.hub }
          ∧ t.hub.links[q] = { s.hub.links[q] with ideSecure := false })))

/-- After its scan the oldest buffered record is programmed behind the kept records while they have room, under the next
sequence number; one whose verify fails stays in the buffer and sets FLASH_FAIL. An HOURS record sets the
count to 16 units above that of the one before. A read of
the window's first word at a record's number gives that record and moves the cursor on; a cursor write sets it. A calendar
write sets the count and clears the phase and the failure flag, which a stopped oscillator sets. (R308; R381; R382; R383;
R384) -/
def Obligations.RecorderKeepsRecords : Prop :=
  (∀ (s : State) (r : BufRec) (l : List BufRec), s.evr.scanDone = true → s.evr.droppedDue = 0 → s.evr.buffer = r :: l →
    (s.evr.keptFull = false → placeAt s.evr.keptEnd r.full + r.full ≤ circStart →
      exec (.recorderFlashProgram true) s = .next { s with evr := { s.evr with
        buffer := l, head := s.evr.head + 1, keptEnd := placeAt s.evr.keptEnd r.full + r.full,
        kept := s.evr.kept ++ [makeRecord s.evr r (placeAt s.evr.keptEnd r.full)] } }) ∧
    (∃ t, exec (.recorderFlashProgram false) s = .next t ∧ t = { s with evr := t.evr, hub := t.hub } ∧ t.evr.flashFail = true
      ∧ t.evr.buffer = s.evr.buffer ∧ t.evr.kept = s.evr.kept ∧ t.evr.circ = s.evr.circ
      ∧ targetSector r s.evr ∈ t.evr.badSectors)) ∧
  (∀ s : State, ∃ t, exec .hoursRecord s = .next t ∧ t = { s with evr := t.evr } ∧ t.evr.hours = (s.evr.hourMark + 16) % 2 ^ 32
    ∧ t.evr.hourMark = t.evr.hours ∧ t.evr.hourPhase = 0
    ∧ t.evr.kept = s.evr.kept ∧ t.evr.circ = s.evr.circ) ∧
  (∀ (s : State) (q : PciePort) (r : Record), barOpen s (.f0 q) = true →
    (s.evr.kept ++ s.evr.circ).find? (fun x => x.seq == (s.evr.ports[q]).cursor) = some r →
    ∃ t, exec (.evrWindowRead q) s = .next t ∧ t.answer = fieldB (r.bytes ++ zeroBytes 8) 0 8
      ∧ t.evr.ports[q] = ⟨(s.evr.ports[q]).cursor + 1, (s.evr.ports[q]).cursor, windowWords r.bytes⟩
      ∧ t.parts = s.parts ∧ t.mem = s.mem ∧ ∀ p, p ≠ q → t.evr.ports[p] = s.evr.ports[p]) ∧
  (∀ (s : State) (q : PciePort) (v : U64), F0Open s q →
    (∃ t, exec (.evrCursorWrite q v) s = .next t ∧ t = { s with evr := t.evr }
      ∧ t.evr.ports[q] = { s.evr.ports[q] with cursor := v.toNat }) ∧
    exec (.calTimeWrite q v) s = .next { s with key := { s.key with vbat := { s.key.vbat with
      calTime := v.toNat, calPhase := 0, calSet := true, oscFail := false } } }) ∧
  (∀ s : State, exec .calOscFail s = .next { s with key := { s.key with vbat := { s.key.vbat with oscFail := true } } })

/-- On an open function: a doorbell ahead of the last by less than 2^31 and within the ring is taken and wakes; any other is
counted and changes no index. A HEAD that does not pass the produced entries is taken, and room of the event queue lets
waiting entries in; another is counted. ENABLE and DISABLE latch their request. An access of a wrong width is counted, and a
read of that kind gives zeros. Other functions' registers and memory the device owns are unchanged. (R9; R281; R348; R352;
R354; R355; R357; R370) -/
def Obligations.HostRegistersTakeEffect : Prop :=
  (∀ (s : State) (fn : Fn) (v : U32), FnOpen s fn → (s.hif fn).enabled = true →
    let h := s.hif fn
    let keeps (t : State) : Prop := (∀ g, g ≠ fn → t.hif g = s.hif g) ∧ ∀ a, a < 2 ^ 64 → t.byteAt a = s.byteAt a
    let counted (i : Instr) : Prop := ∃ t, exec i s = .next t ∧ keeps t ∧ t.hif fn = { h with dbDiscards := sat32 h.dbDiscards }
    (∀ l, doorbellOk h.cmdqDb h.cmdConsumed v h.cmdqSize.toNat = true →
      ∃ t, exec (.hifCmdqDb fn v l) s = .next t ∧ keeps t ∧ t.hif fn = { h with cmdqDb := v } ∧ t.pwr.wakeSeen = true) ∧
    (∀ l, doorbellOk h.cmdqDb h.cmdConsumed v h.cmdqSize.toNat = false → counted (.hifCmdqDb fn v l)) ∧
    (headOk h.cplqHead h.cplProduced v = true →
      ∃ t, exec (.hifCplqHead fn v) s = .next t ∧ OnlyHif fn s t ∧ t.hif fn = { h with cplqHead := v }) ∧
    (headOk h.cplqHead h.cplProduced v = false → counted (.hifCplqHead fn v)) ∧
    (headOk h.evqHead h.evProduced v = true → ∃ t, exec (.hifEvqHead fn v) s = .next t ∧ OnlyHif fn s t
      ∧ t.hif fn = evRoomReturns s.sys.beat { h with evqHead := v }) ∧
    (headOk h.evqHead h.evProduced v = false → counted (.hifEvqHead fn v)) ∧
    (∀ p, fn = .part p → headOk h.fltqHead h.fltProduced v = true → ∃ t, exec (.hifFltqHead fn v) s = .next t
      ∧ OnlyHif fn s t ∧ OnlyPart p s t ∧ t.hif fn = { h with fltqHead := v }) ∧
    (∀ p, fn = .part p → headOk h.fltqHead h.fltProduced v = false → counted (.hifFltqHead fn v))) ∧
  (∀ (s : State) (fn : Fn), FnOpen s fn →
    (∃ t, exec (.hifEnable fn) s = .next t ∧ OnlyHif fn s t ∧ t.hif fn = { s.hif fn with enable := true, enableReq := true }) ∧
    (∃ t, exec (.hifDisable fn) s = .next t ∧ OnlyHif fn s t
      ∧ t.hif fn = { s.hif fn with enable := false, enableReq := false, disableReq := true })) ∧
  (∀ (s : State) (fn : Fn), barOpen s fn = true →
    (∃ t, exec (.badRegisterAccess fn true) s = .next t ∧ OnlyHif fn s t
      ∧ t.hif fn = { s.hif fn with badAccess := sat32 (s.hif fn).badAccess }) ∧
    (∃ t, exec (.badRegisterAccess fn false) s = .next t ∧ OnlyHif fn s t ∧ t.answer = zeroBytes 8
      ∧ t.hif fn = { s.hif fn with badAccess := sat32 (s.hif fn).badAccess }))

/-- On an open partition function: an ingest CFG write with ENABLE on a ring not enabled asks for it; a doorbell the ring
takes covers the entries up to it. A BAR2 read of one clean readable page, outside the payload of a slot that is EMPTY or
FILLING, gives the bytes as of the last boundary under the writes since, or zeros on a fenced partition's LPDDR5X when its
memory key is gone; a write to a page that permits it is kept with its
EP bit for the boundary. A map or receive edit is latched, or answers BUSY while one waits. Flush, access key and log base
are recorded; the log base only unbound with every context FREE. A held fault entry goes to the queue once it has room.
Nothing else of the device changes. (R202; R206; R235; R240; R241; R266; R363; R364; R365; R372; R376) -/
def Obligations.PartitionRegistersLatch : Prop :=
  (∀ (s : State) (p : Part), FnOpen s (.part p) →
    let x := s.part p
    (∀ (r : Fin 4) (v : U32), (x.ingest[r]).enabled = false → v.getLsbD 16 = true →
      ∃ t, exec (.ingEnable p r v) s = .next t ∧ OnlyPart p s t ∧ (∀ j, j ≠ r → (t.part p).ingest[j] = x.ingest[j])
        ∧ (t.part p).ingest[r] = { x.ingest[r] with cfg := (v &&& 0x00001F1F) ||| 0x00010000, enableReq := true }) ∧
    (∀ (r : Fin 4) (v : U32), (x.ingest[r]).enabled = true →
      (doorbellOk (x.ingest[r]).db (x.ingest[r]).consumed v (x.ingest[r]).logEntries = true →
        ∃ t, exec (.ingDb p r v) s = .next t ∧ ((t.part p).ingest[r]).db = v ∧ ((t.part p).ingest[r]).taken = v) ∧
      (doorbellOk (x.ingest[r]).db (x.ingest[r]).consumed v (x.ingest[r]).logEntries = false →
        ∃ t, exec (.ingDb p r v) s = .next t ∧ t.mem = s.mem ∧ (t.part p).ingest = x.ingest
          ∧ t.hif (.part p) = { x.hif with dbDiscards := sat32 x.hif.dbDiscards })) ∧
    (∀ (off : U64) (len k : Nat), 0 < len → barVA s p off % 65536 + len ≤ 65536 → s.translate p (barVA s p off) 3 = .ok k →
      (∀ i, i < len → viewPoison s p (k + i) = false ∧ unreadySlot s p (barVA s p off + i) = false) →
      ∃ t, exec (.bar2Read p off len) s = .next t ∧ (∀ q, q ≠ p → t.part q = s.part q)
        ∧ t = { s with parts := t.parts, mem := { s.mem with met := t.mem.met }, answer := t.answer, answerPoison := false }
        ∧ t.answer = (List.range len).map fun i => if barZero s p (barVA s p off + i) then 0 else viewByte s p (k + i)) ∧
    (∀ (off : U64) (b : Bytes) (ep : Bool) (k : Nat), 0 < b.length → barVA s p off % 65536 + b.length ≤ 65536 →
      keysetPage s p (barVA s p off) = false → s.translate p (barVA s p off) 3 = .ok k →
      ∃ t, exec (.bar2Write p off b ep) s = .next t ∧ OnlyPart p s t ∧ (t.part p).bar2Writes = x.bar2Writes ++ [(k, b, ep)]) ∧
    (∀ v : U32, (v.getLsbD 0 || v.getLsbD 1) = true →
      (∀ i : Instr, i = (.mapSet p v) ∨ i = (.mapClear p v) → ∃ t, exec i s = .next t ∧ OnlyPart p s t
        ∧ (x.mem.mapPending = none → (t.part p).mem = { x.mem with mapPending := some ⟨v, x.mem.mapVA, x.mem.mapEntry⟩ })
        ∧ (x.mem.mapPending.isSome = true → (t.part p).mem = { x.mem with mapLast := .busy })) ∧
      (∀ i : Instr, i = (.recvPost p v) ∨ i = (.recvRemove p v) → ∃ t, exec i s = .next t ∧ OnlyPart p s t
        ∧ (x.rxt.recvPending = none → (t.part p).rxt = { x.rxt with
            recvPending := some ⟨v &&& 7, x.rxt.recvPos, x.rxt.recvTag, x.rxt.recvMask, x.rxt.recvVA, x.rxt.recvLen⟩ })
        ∧ (x.rxt.recvPending.isSome = true → (t.part p).rxt = { x.rxt with recvLast := .busy }))) ∧
    (∀ v : U32, ∃ t, exec (.unexpFlush p v) s = .next t ∧ OnlyPart p s t
      ∧ (t.part p).rxt = { x.rxt with flushReq := x.rxt.flushReq || v.getLsbD 0 }) ∧
    (∀ v : U64, (∃ t, exec (.accessKeyWrite p v) s = .next t ∧ OnlyPart p s t
        ∧ (t.part p).rxt = { x.rxt with keyPending := some v }) ∧
      (x.twin.phase = .unbound → x.allFree = true → ∃ t, exec (.logVaWrite p v) s = .next t ∧ OnlyPart p s t
        ∧ (t.part p).twin = { x.twin with
            logVA := v, logStopped := false, logUsed := 0, logOff := 0, logTail := x.twin.logHead, records := [] }) ∧
      (x.twin.phase ≠ .unbound → exec (.logVaWrite p v) s = .next s))) ∧
  (∀ (s : State) (p : Part) (e : FaultEntry), (s.part p).mem.heldFaults = [e] → 0 < fltRoom (s.part p).hif →
    ∃ t, exec (.faultEntryDeferredPost p) s = .next t ∧ OnlyPart p s t ∧ (t.part p).mem.heldFaults = []
      ∧ (t.part p).hif.fltPending = (s.part p).hif.fltPending ++ [e]
      ∧ (t.part p).mem.faultsPosted = sat32 (s.part p).mem.faultsPosted)

/-- An aligned REGISTER_WRITE to a register that has a command of its own does what that command does; a 64-bit write to two
32-bit registers writes the lower, then the upper; a misaligned one is only counted. A configuration write sets the
function's bits. The IDE stream's state and the hold of a link out of L0 are recorded. A claim by the other port is accepted
when the managing link has been down 100 ms, else NOT_READY; the managing port's own is INVALID_COMMAND. (R7; R9; R282; R346;
R348; R352) -/
def Obligations.RegisterAccessesReachTheirRegisters : Prop :=
  (∀ (s : State) (p : Part) (q : PciePort) (v : U64),
    exec (.registerWrite (.part p) 0x9000 true v) s = exec (.accessKeyWrite p v) s ∧
    exec (.registerWrite (.part p) 0x901C false v) s = exec (.unexpFlush p (v.setWidth 32)) s ∧
    exec (.registerWrite (.part p) 0xA030 true v) s = exec (.logVaWrite p v) s ∧
    exec (.registerWrite (.f0 q) 0x40040 true v) s = exec (.calTimeWrite q v) s ∧
    exec (.registerWrite (.f0 q) 0x20004 false v) s = exec (.pwrStateReqWrite q (v.setWidth 32)) s ∧
    exec (.registerWrite (.f0 q) 0x100100 false v) s = exec (.sysBeatPeriodWrite q (v.setWidth 32)) s ∧
    exec (.registerWrite (.f0 q) 0x50020 true v) s = exec (.evrCursorWrite q v) s ∧
    exec (.registerWrite (.f0 q) 0x30038 false v) s = exec (.rngTestWrite q (v.setWidth 32)) s ∧
    ∀ u, exec (.registerWrite (.f0 q) 0x10000 false v) s = .next u →
      exec (.registerWrite (.f0 q) 0x10004 false (v >>> 32)) u = exec (.registerWrite (.f0 q) 0x10000 true v) s) ∧
  (∀ (s : State) (fn : Fn) (off : Nat) (wide : Bool) (v : U64), barOpen s fn = true → off % (if wide then 8 else 4) ≠ 0 →
    ∃ t, exec (.registerWrite fn off wide v) s = .next t ∧ OnlyHif fn s t
      ∧ t.hif fn = { s.hif fn with badAccess := sat32 (s.hif fn).badAccess }) ∧
  (∀ (s : State) (q : PciePort),
    (∀ f w, ∃ t, exec (.configWrite q f w) s = .next t ∧ t = { s with hub := t.hub }
      ∧ (t.hub.fnConfig[q])[f] = ⟨w.busMaster, w.memSpace, w.d3hot, w.relaxed⟩
      ∧ ∀ g, g ≠ f → (t.hub.fnConfig[q])[g] = (s.hub.fnConfig[q])[g]) ∧
    (∀ b, ∃ t, exec (.ideStreamChange q b) s = .next t ∧ t = { s with hub := t.hub }
      ∧ t.hub.links[q] = { s.hub.links[q] with ideSecure := b }) ∧
    ((s.hub.links[q]).inL0 = false → ∃ t, exec (.linkHoldTimeout q) s = .next t ∧ t = { s with hub := t.hub }
      ∧ t.hub.links[q] = { s.hub.links[q] with holdLink := true })) ∧
  (∀ (s : State) (q : PciePort) (v : U32), barOpen s (.f0 q) = true → v.getLsbD 0 = true →
    let l := s.hub.links[s.hub.managing]
    (q = s.hub.managing → exec (.hubMgrClaim q v) s = .next { s with hub := { s.hub with lastClaim := .invalidCommand } }) ∧
    (q ≠ s.hub.managing → l.inL0 = false → l.outSince + claimWait ≤ s.sys.now →
      exec (.hubMgrClaim q v) s = .next { s with hub := { s.hub with lastClaim := .ok, claimDue := true } }) ∧
    (q ≠ s.hub.managing → (l.inL0 = true ∨ s.sys.now < l.outSince + claimWait) →
      exec (.hubMgrClaim q v) s = .next { s with hub := { s.hub with lastClaim := .notReady } }))

/-- In a fallow beat each region of the partition starts to copy the cluster of its turn to a tested spare. When the copy has
ended, the boundary's step 6 gives the role to the spare, with the slice's bytes, and the released cluster is under test. A
passing test makes that cluster the spare at the boundary, a failing one retires it there. A readable cluster to be retired
waits for a repair; one unreadable aborts its beat and leaves for the spare at the boundary; one that fails with no spare
aborts its partition's beat and leaves the map and the capacity. A third ZQ failure in a row fails the site. TEST_RUN on idle
targets starts the test without a completion, and its end completes it with the result. (R172; R173; R211; R386; R387; R388;
R389) -/
def Obligations.ClustersAreTestedAndRetired : Prop :=
  (∀ (s : State) (p : Part) (i : Image) (d : Die) (r : Region), (s.part p).img.image = some i → fallowBeat i s.sys.beat = true →
    ((s.part p).img.kind = .fallow ∨ (s.part p).img.kind = .switch) → d ∈ s.diesOf p →
    let x := (s.dies[d]).regions[r]
    x.swap.repair = none → x.map.rotationStopped = false →
    ∃ t, exec (.testSwapStart p) s = .next t ∧ t = { s with dies := t.dies }
      ∧ ((x.map.spare.toNat ≤ 8 ∧ x.test.spareReady = true ∧ x.test.underTest = 0xF) → (t.dies[d]).regions[r] = { x with
            swap := { x.swap with copying := some (x.swap.owed.getD (swapTurn i s.sys.beat)), forRepair := false, mapDue := false,
                                  owed := none, abandoned := false } })
      ∧ (x.test.spareReady = false → (t.dies[d]).regions[r] = { x with
            test := { x.test with skipped := sat16 x.test.skipped } })) ∧
  (∀ (s : State) (p : Part) (d : Die) (r : Region) (j : Fin 8), d ∈ s.diesOf p →
    ((s.dies[d]).regions[r]).swap.copying = some j →
    ∃ t, exec (.swapMapUpdate p) s = .next t ∧ t.mem.cells = s.mem.cells ∧ t.parts = s.parts
      ∧ (t.dies[d]).regions[r] = { (s.dies[d]).regions[r] with swap := { ((s.dies[d]).regions[r]).swap with mapDue := true } }) ∧
  (∀ (s : State) (d : Die) (r : Region) (j : Fin 8), let x := (s.dies[d]).regions[r]
    let y := ((stepRegion d r s).dies[d]).regions[r]
    (x.swap = { copying := some j, mapDue := true, abandoned := x.swap.abandoned, owed := x.swap.owed } →
      sliceBad s d (9 * r.val + (x.map.log[j]).toNat) = false →
      y.map = { x.map with log := vput x.map.log j x.map.spare, spare := 0xF } ∧ y.swap.copying = none
        ∧ y.test.spareReady = false ∧ y.test.underTest = BitVec.ofNat 4 (x.map.log[j]).toNat
        ∧ (Memory.wf s.mem = true → ∀ off, off < 2 ^ 25 →
            (stepRegion d r s).byteAt (sramKey d.val (9 * r.val + x.map.spare.toNat) off)
              = s.byteAt (sramKey d.val (9 * r.val + (x.map.log[j]).toNat) off))) ∧
    (x.swap = { lost := [j] } → (x.map.log[j]).toNat ≤ 8 → x.map.spare.toNat ≤ 8 →
      y.map = retireBit (x.map.log[j]).toNat { x.map with log := vput x.map.log j x.map.spare, spare := 0xF }
        ∧ y.swap.lost = [] ∧ (stepRegion d r s).mem.cells = s.mem.cells) ∧
    (∀ off : Fin 9, x.swap = { spareNew := some off } → roleOf x.map off.val = none → x.map.retired.getLsbD off.val = false →
      y.map = { x.map with spare := BitVec.ofNat 4 off.val }) ∧
    (∀ off : Fin 9, x.swap = { out := [off] } → x.map.spare.toNat ≠ off.val → y.map = retireBit off.val x.map)) ∧
  (∀ (s : State) (d : Die) (r : Region) (off : Fin 9), let x := (s.dies[d]).regions[r]
    x.test.underTest.toNat = off.val → roleOf x.map off.val = none →
    (∃ t, exec (.spareTestComplete d r ⟨off, true⟩) s = .next t ∧ t = { s with dies := t.dies }
      ∧ (t.dies[d]).regions[r] = { x with
          swap := { x.swap with spareNew := some off }
          test := { x.test with underTest := 0xF, passes := sat16 x.test.passes, spareReady := true } }) ∧
    (∃ t, exec (.spareTestComplete d r ⟨off, false⟩) s = .next t ∧ t.mem = s.mem
      ∧ ((t.dies[d]).regions[r]).test.spareReady = false ∧ ((t.dies[d]).regions[r]).test.underTest = 0xF
      ∧ ((t.dies[d]).regions[r]).map = x.map ∧ ((t.dies[d]).regions[r]).swap.out = off :: x.swap.out)) ∧
  (∀ (s : State) (d : Die) (c : Cluster) (k : RetireCause), let m := s.mapOf d (regionOfLogical c)
    let j := roleOfLogical c
    let lost (t : State) : Prop := j ∈ ((t.dies[d]).regions[regionOfLogical c]).swap.lost ∧ t.mapOf d (regionOfLogical c) = m
      ∧ ((s.cluster d c).running = true → (t.cluster d c).aborted = true)
    (m.log[j]).toNat ≤ 8 →
    (m.spare.toNat ≤ 8 → k.readable = true → ∃ t, exec (.clusterRetire d c k) s = .next t ∧ t = { s with dies := t.dies }
      ∧ ((t.dies[d]).regions[regionOfLogical c]).swap.repair = some j ∧ t.mapOf d (regionOfLogical c) = m) ∧
    (m.spare.toNat ≤ 8 → k.readable = false → ∃ t, exec (.clusterRetire d c k) s = .next t ∧ lost t) ∧
    (8 < m.spare.toNat → k.works = false → ∃ t, exec (.clusterRetire d c k) s = .next t ∧ lost t
      ∧ ∀ p, s.ownerOf d = some p → ∀ e ∈ s.diesOf p, ∀ c', (s.cluster e c').running = true → (t.cluster e c').aborted = true)) ∧
  (∀ (s : State) (d : Die) (r : Region) (j : Fin 8), ((s.mapOf d r).log[j]).toNat ≤ 8 →
    let t := loseRole d r j s
    t.mapOf d r = retireBit ((s.mapOf d r).log[j]).toNat { s.mapOf d r with log := vput (s.mapOf d r).log j 0xF }
      ∧ (t.dies[d]).capacity = (s.dies[d]).capacity &&& ~~~(1#32 <<< (logicalOf r j).val) ∧ t.mem = s.mem
      ∧ ∀ p, s.ownerOf d = some p → (s.part p).phase = .loaded → (t.part p).degradeDue = true) ∧
  (∀ (s : State) (n : Site), (∃ t, exec (.zqCalibration n true) s = .next t ∧ t = { s with mem := t.mem }
      ∧ t.mem.sites[n] = { s.mem.sites[n] with zqFails := 0 }) ∧
    (∃ t, exec (.zqCalibration n false) s = .next t ∧ (t.mem.sites[n]).zqFails = (s.mem.sites[n]).zqFails + 1
      ∧ t.mem.cells = s.mem.cells ∧ (2 ≤ (s.mem.sites[n]).zqFails → (t.mem.sites[n]).failed = true))) ∧
  (∀ (s : State) (c : Cmd) (test die : U8) (target : U16) (arg : U64), FromF0 s c →
    testRanges test.toNat die.toNat target.toNat arg.toNat = true → s.tst.running = none →
    (∀ p ∈ testUsers s test.toNat die.toNat target.toNat, (s.part p).idleForTests = true) →
    (test.toNat = 5 → inService s die.toNat target.toNat = false) → s.clk.xoFail = false →
    ∃ t, exec (.testRun c test die target arg) s = .next t ∧ (t.hif c.fn).cplPending = (s.hif c.fn).cplPending
      ∧ t.tst.running = some ⟨c, test.toNat, die.toNat, target.toNat, arg.toNat⟩ ∧ t.tst.last = test.toNat ∧ t.mem = s.mem) ∧
  (∀ (s : State) (o : TestOutcome) (r : TestRun), s.tst.running = some r → Answers s r.cmd 0x04 →
    let result := testResult o.verdict.toNat r.test o.failing.toNat o.firstOffset.toNat
    ∃ t, exec (.testRunComplete o) s = .next t ∧ t.tst = ⟨none, r.test, .ok, BitVec.ofNat 64 result⟩
      ∧ Completed s t r.cmd 0x04 .ok 0 result)

/-- Every patrol read, page migration, row repair and table rebuild completes; a patrol changes no byte. A patrol read of an
enabled memory counts a corrected word and rewrites it, and records an uncorrectable one, whose row, on a site, waits for
repair in the SPI NOR too; a line found uncorrectable before becomes poison. A waiting row that is repaired leaves the list and
uses one resource of its bank group for good; without one its pages retire or wait to. A page that is being retired moves to a
free page of its pool: its leaf, or the tables' list, names that page, the bytes are there, and the old page is retired. A bad
table moves to a fresh page, and one of level 3 keeps no HOST_OWNED leaf. (R196; R197; R204; R210; R212; R394) -/
def Obligations.MemoryIsPatrolledAndRepaired : Prop :=
  (∀ (s : State) (x : PatrolTarget) (o : EccOutcome), ∃ t, exec (.weevilPatrol x o) s = .next t ∧ t.mem.cells = s.mem.cells) ∧
  (∀ (s : State) (d : Die) (c : PhysCluster) (line : Fin 524288), s.pwr.state.code < 2 → s.mem.weevilCtrl.getLsbD 0 = true →
    let key := lineOf (sramKey d.val c.val (line.val * 64))
    key ∉ s.mem.poison →
    (key ∉ s.mem.bad →
      (∃ t, exec (.weevilPatrol (.sram d c line) .corrected) s = .next t ∧ t.mem.bad = s.mem.bad ∧ key ∉ t.mem.soft
        ∧ t.mem.sramCeTotal = sat64 s.mem.sramCeTotal) ∧
      (∃ t, exec (.weevilPatrol (.sram d c line) .uncorrectable) s = .next t
        ∧ t.mem.sramUeTotal = sat32 s.mem.sramUeTotal ∧ key ∈ t.mem.bad)) ∧
    (key ∈ s.mem.bad → ∀ o, ∃ t, exec (.weevilPatrol (.sram d c line) o) s = .next t ∧ t = { s with mem := t.mem }
      ∧ key ∉ t.mem.bad ∧ key ∈ t.mem.poison)) ∧
  (∀ (s : State) (n : Site) (row line : Nat), s.pwr.state.code < 2 → s.mem.weevilCtrl.getLsbD 1 = true →
    let key := lineOf (dramKey n.val (line * 64))
    key ∉ s.mem.poison → key ∉ s.mem.bad →
    (key ∉ s.mem.soft → ∃ t, exec (.weevilPatrol (.dram n row line) .clean) s = .next t ∧ t = { s with mem := t.mem }
      ∧ t.mem.bad = s.mem.bad ∧ t.mem.dramCeTotal = s.mem.dramCeTotal) ∧
    (∃ t, exec (.weevilPatrol (.dram n row line) .corrected) s = .next t ∧ t.mem.bad = s.mem.bad ∧ key ∉ t.mem.soft
      ∧ t.mem.dramCeTotal = sat64 s.mem.dramCeTotal) ∧
    (∃ t, exec (.weevilPatrol (.dram n row line) .uncorrectable) s = .next t
      ∧ t.mem.dramUeTotal = sat32 s.mem.dramUeTotal ∧ key ∈ t.mem.bad
      ∧ row ∈ (t.mem.sites[n]).pending ∧ (n.val, row) ∈ t.spi.repairs)) ∧
  (∀ (s : State) (n : Site) (row : Nat),
    (row ∉ (s.mem.sites[n]).pending ∨ repairAllowed s n = false → exec (.postPackageRepair n row) s = .next s) ∧
    (row ∈ (s.mem.sites[n]).pending → repairAllowed s n = true →
      ∃ t, exec (.postPackageRepair n row) s = .next t ∧ (t.mem.sites[n]).pending = (s.mem.sites[n]).pending.erase row
        ∧ (0 < pprFor s n row → t = { s with mem := t.mem, spi := t.spi, key := t.key } ∧ t.mem.cells = s.mem.cells
            ∧ pprFor t n row = pprFor s n row - 1 ∧ t.key.fuses.ppr[n] = (t.mem.sites[n]).ppr)
        ∧ (pprFor s n row = 0 →
            (∀ f ∈ Config.rowPages n.val row, f ∈ (t.mem.sites[n]).retired ∨ f ∈ (t.mem.sites[n]).retiring)
            ∧ (s.ownerOf n = none → t.mem.cells = s.mem.cells)))) ∧
  (∀ (s : State) (n : Site) (page : Nat), ∃ t, exec (.pageMigration n page) s = .next t ∧
    (∀ p, s.ownerOf n = some p → (∀ q, q ≠ p → t.part q = s.part q) ∧
      (page ∈ (s.mem.sites[n]).retiring → (n.val, page) ∈ usedPages (s.part p).mem →
        (poolPage s p = none → t.mem = s.mem) ∧
        (∀ m f, poolPage s p = some (m, f) → page ∈ (t.mem.sites[n]).retired ∧ page ∉ (t.mem.sites[n]).retiring ∧
          (mapsFrame s p n.val page = none →
            (t.part p).mem.tablePages = (s.part p).mem.tablePages.map (fun x => if x = (n.val, page) then (m, f) else x)) ∧
          (∀ k, mapsFrame s p n.val page = some k → Memory.wf s.mem = true →
            (∀ x ∈ (s.part p).mem.tablePages, x.1 < 8 ∧ x.2 < 2 ^ 21) →
            let old := dramKey n.val (page * 2 ^ 16)
            let new := dramKey m (f * 2 ^ 16)
            tget (t.part p).mem.leaves k 0 = dramLeaf m f false ((tget (s.part p).mem.leaves k 0).extractLsb' 5 5)
              ∧ t.bytesAt new (2 ^ 16) = s.bytesAt old (2 ^ 16)
              ∧ (∀ i, i < 1024 → lineOf old + i ∈ s.mem.poison ∨ lineOf old + i ∈ s.mem.bad → lineOf new + i ∈ t.mem.poison)
              ∧ ∀ a, (∀ site off, (s.part p).mem.tablePlace 3 (k / 512) = some (site, off) →
                  a < dramKey site (off + k % 512 * 8) ∨ dramKey site (off + k % 512 * 8) + 8 ≤ a) →
                (a < old ∨ old + 2 ^ 16 ≤ a) → (a < new ∨ new + 2 ^ 16 ≤ a) → t.byteAt a = s.byteAt a))))) ∧
  (∀ (s : State) (p : Part), ∃ t, exec (.pageTableRebuild p) s = .next t ∧ t = { s with parts := t.parts, mem := t.mem }
    ∧ (∀ q, q ≠ p → t.part q = s.part q)
    ∧ ∀ level k, (s.part p).mem.badTables = [(level, k)] → ∀ i off, (s.part p).mem.tableSlot level k = some (i, off) →
        (poolPage s p = none → t.mem = s.mem ∧ (t.part p).mem.badTables = [(level, k)]) ∧
        (∀ n f new, (s.part p).mem.tablePages[i]? = some (n, f) → poolPage s p = some new →
          (t.part p).mem.badTables = [] ∧ (t.part p).mem.tablePages = (s.part p).mem.tablePages.set i new
            ∧ (t.part p).mem.ptRoot = rootOf ((s.part p).mem.tablePages.set i new)
            ∧ (∀ h : n < 8, f ∈ (t.mem.sites[(⟨n, h⟩ : Site)]).retired)
            ∧ (level ≠ 3 → (t.part p).mem.leaves = (s.part p).mem.leaves)
            ∧ (level = 3 → ∀ e ∈ (t.part p).mem.leaves, e.1 / 512 = k → leafHostOwned e.2 = false)))

/-- A boundary of a running clock with no partition, no upset, no change of the cluster maps due, no pending instar adoption and
no power state asked for starts the next beat: its number is one more, it starts one period plus the slew later, and device memory keeps its bytes; where the clock
does not run, nothing changes. At the commit window a partition whose clusters have all ended or aborted is unchanged; a
cluster that still issues has aborted, with its overrun noted unless a unit waits for entropy. A quantum that runs out arms
the switch when another job has work, and restarts otherwise. The switch beat saves each unit's committed tiles, V0 and V1 and
program state in the outgoing job's area of the slice, loads what the incoming job's area holds, and counts the switch.
(R25; R133; R154; R155; R159; R160; R174; R175; R192; R195) -/
def Obligations.BeatsEndAndJobsSwitch : Prop :=
  (∀ (s : State) (m : BoundaryInputs),
    (s.sys.running = false → exec (.beatBoundary m) s = .next s) ∧
    (s.sys.running = true → (∀ p, (s.part p).phase = .absent) → s.sys.adopt = none → s.sys.periodPending = none →
      s.pwr.stateReq = 0 → m.upsets = [] →
      (∀ (d : Die) (r : Region), ((s.dies[d]).regions[r]).swap.mapDue = false ∧ ((s.dies[d]).regions[r]).swap.lost = []) →
      ∃ t, exec (.beatBoundary m) s = .next t ∧ t.sys.beat = s.sys.beat + 1
        ∧ t.sys.beatStart = s.sys.beatStart + ((s.sys.beatPeriod : Int) + s.sys.slew).toNat
        ∧ t.sys.slew = s.sys.slewNext ∧ t.sys.beatPeriod = s.sys.beatPeriod ∧ t.sys.running = true
        ∧ (∀ p, (t.part p).phase = .absent) ∧ t.units = s.units ∧ t.clusters = s.clusters
        ∧ ∀ a, a < 2 ^ 64 → t.byteAt a = s.byteAt a)) ∧
  (∀ (s : State) (p : Part),
    ((∀ x ∈ clustersOf s p, (s.cluster x.2.1 x.2.2).running = false ∨ (s.cluster x.2.1 x.2.2).aborted = true
        ∨ ∀ u, (s.unit x.2.1 x.2.2 u).ended = true) → exec (.commitWindowOpen p) s = .next s) ∧
    (∀ x ∈ clustersOf s p, (s.cluster x.2.1 x.2.2).running = true → (s.cluster x.2.1 x.2.2).aborted = false →
      (∃ u, (s.unit x.2.1 x.2.2 u).ended = false) →
      ∃ t, exec (.commitWindowOpen p) s = .next t ∧ (t.cluster x.2.1 x.2.2).aborted = true ∧ t.hub = s.hub ∧ t.evr = s.evr
        ∧ ((∀ u, (s.unit x.2.1 x.2.2 u).wait ≠ .entropy) → (t.cluster x.2.1 x.2.2).overrun = true)
        ∧ ((∃ u, (s.unit x.2.1 x.2.2 u).wait = .entropy) →
            (t.cluster x.2.1 x.2.2).overrun = (s.cluster x.2.1 x.2.2).overrun))) ∧
  (∀ (s : State) (p : Part) (q : Nat), (s.part p).phase = .loaded → (s.part p).img.image ≠ none → quantumOf s p = some q →
    (s.sys.beat + 1 < (s.part p).img.quantumStart + q → exec (.quantumExpiry p) s = .next s) ∧
    ((s.part p).img.quantumStart + q ≤ s.sys.beat + 1 →
      exec (.quantumExpiry p) s = .next (State.onImg p (fun i =>
        if (nextJob s p).isSome then { i with switchArmed := true } else { i with quantumStart := s.sys.beat + 1 }) s))) ∧
  (∀ (s : State) (p : Part) (j : Fin 4), (s.part p).img.switching = true → (s.part p).img.kind = .switch →
    (s.part p).img.switchTo = some j →
    ∃ t, exec (.jobSwitch p) s = .next t ∧ t = { s with parts := t.parts, units := t.units, draws := t.draws, mem := t.mem }
      ∧ (∀ q, q ≠ p → t.part q = s.part q) ∧ (t.part p).img.curJob = j
      ∧ (t.part p).img.switches = sat32 (s.part p).img.switches ∧ (t.part p).img.switchTo = none
      ∧ (t.part p).img.switchArmed = false
      ∧ (Memory.wf s.mem = true → RolesDistinct s → (∀ d c u, TilesListed (s.unit d c u).base.tiles) → j ≠ (s.part p).img.curJob →
        ∀ x ∈ clustersOf s p, ∀ u,
          (∀ key, saveKey s x.2.1 x.2.2 j u = some key → ∃ n, (t.unit x.2.1 x.2.2 u).base = savedContext s key n) ∧
          ∀ key, saveKey s x.2.1 x.2.2 (s.part p).img.curJob u = some key → let w := (s.unit x.2.1 x.2.2 u).base
            (∀ i, i < 64 → t.bytesAt (key + 192 * i) 192 = (tget w.tiles i {}).image
                ∧ t.bytesAt (key + 0x3000 + 4 * i) 4 = (tget w.tiles i {}).info)
            ∧ t.bytesAt (key + 0x3100) 256 = (w.reg 0).bytes ++ (w.reg 1).bytes
            ∧ t.bytesAt (key + 0x3200) 16 = programState (s.part p).img.job.step (isDone s p x.2.1 x.2.2) w))

/-- TWIN_BIND with ROLE 0 or 1 that passes its checks waits for the peer, and completes with the failing check's status
otherwise. ROLE 2 unbinds, or completes INVALID_STATE where nothing is bound. An answer that fits is kept; one that does not
ends the command with POLICY_REFUSED, and no answer in time with NOT_READY. Past BIND_BEAT the pair's parameters are in
force, the secondary BINDING, the primary ALONE with a checkpoint of that beat. When the secondary has taken what the transfer
brings (free values, log entry 135), equal fingerprints make the pair BOUND and complete the command OK; others unbind it and
complete it TWIN_DIVERGED. (R257; R258) -/
def Obligations.TwinsBindAndUnbind : Prop :=
  (∀ (s : State) (c : Cmd) (p : Part) (b : BindSpec), FromPart s c p 0x31 → bindFormed b = true →
    (b.role ≠ 2 → match bindChecks s p b with
      | .ok => exec (.twinBind c b) s
          = .next (State.onTwin p (fun w => { w with bindReq := some b, bindCmd := some c, answered := false }) s)
      | e => ∃ t, exec (.twinBind c b) s = .next t ∧ OnlyPart p s t ∧ Completed s t c 0x31 e 0 0
          ∧ (t.part p).twin = { (s.part p).twin with lastStatus := e }) ∧
    (b.role = 2 → (s.part p).twin.phase = .unbound → ∃ t, exec (.twinBind c b) s = .next t ∧ OnlyPart p s t
      ∧ Completed s t c 0x31 .invalidState 0 0) ∧
    (b.role = 2 → (s.part p).twin.phase ≠ .unbound → ∃ t, exec (.twinBind c b) s = .next t
      ∧ (t.part p).twin.phase = .unbound ∧ (t.part p).twin.bind = none ∧ (t.part p).twin.ckpt = none
      ∧ Completed s t c 0x31 .ok 0 0)) ∧
  (∀ (s : State) (p : Part) (b : BindSpec) (a : BindAnswer), (s.part p).twin.bindReq = some b → (s.part p).twin.answered = false →
    (answerFits s p b a = true → exec (.twinBindAnswer p a) s = .next (State.onTwin p (fun w => { w with answered := true }) s)) ∧
    (∀ c : Cmd, (s.part p).twin.bindCmd = some c → c.fn = .part p → Answers s c 0x31 →
      (answerFits s p b a = false → ∃ t, exec (.twinBindAnswer p a) s = .next t ∧ OnlyPart p s t
        ∧ (t.part p).twin.bindReq = none ∧ (t.part p).twin.bindCmd = none ∧ Completed s t c 0x31 .policyRefused 0 0) ∧
      ∃ t, exec (.twinBindAnswerTimeout p) s = .next t ∧ OnlyPart p s t
        ∧ (t.part p).twin.bindReq = none ∧ (t.part p).twin.bindCmd = none ∧ Completed s t c 0x31 .notReady 0 0)) ∧
  (∀ (s : State) (p : Part) (b : BindSpec), (s.part p).twin.bindReq = some b → (s.part p).twin.answered = true →
    b.bindBeat.toNat < s.sys.beat →
    ∃ t, exec (.twinBindBeat p) s = .next t ∧ (t.part p).twin.bind = some b ∧ (t.part p).twin.bindReq = none
      ∧ (t.part p).twin.phase = (if b.role = 1 then .binding else .alone) ∧ (t.part p).twin.secondary = (b.role == 1)
      ∧ (t.part p).twin.orderDelay = bindDelay b ∧ (t.part p).twin.interval = bindInterval b
      ∧ (t.part p).twin.conn = b.twinConn.toNat ∧ (t.part p).twin.ckptAt = b.bindBeat.toNat
      ∧ (b.role ≠ 1 → (t.part p).twin.ckptBeat = b.bindBeat.toNat
          ∧ ∃ k, (t.part p).twin.ckpt = some k ∧ k.beat = b.bindBeat.toNat)) ∧
  (∀ (s : State) (p : Part) (c : Cmd) (x : CatchUp), (s.part p).twin.bindCmd = some c → c.fn = .part p → Answers s c 0x31 →
    (s.part p).twin.bindReq = none → ((s.part p).twin.phase = .binding ∨ (s.part p).twin.phase = .alone) →
    let f := if (s.part p).twin.phase = .binding then (Config.sentCheckpoint x.transfer).fp else (s.part p).twin.fp
    ∃ t, exec (.bindCatchUpDone p x) s = .next t ∧ (t.part p).twin.bindCmd = none
      ∧ (x.partnerFp = f → (t.part p).twin.phase = .bound ∧ (t.part p).twin.fp = f ∧ Completed s t c 0x31 .ok 0 0)
      ∧ ((s.part p).twin.phase = .alone → x.partnerFp = f → OnlyPart p s t)
      ∧ (x.partnerFp ≠ f → (t.part p).twin.phase = .unbound ∧ Completed s t c 0x31 .twinDiverged 0 0))

/-- A checkpoint whose moment has passed is not taken. At its moment it is: what was due is no longer, and bound, the copy
runs. The end of the copy lets an ALONE twin agree its own checkpoint; a BOUND one waits for the partner. The partner's word
is kept, and agrees a checkpoint whose copy is over and whose beat matched. A checkpoint command meets BUSY while one waits.
(R264; R265) -/
def Obligations.CheckpointsAreAgreed : Prop :=
  (∀ (s : State) (c : Cmd) (p : Part), FromPart s c p 0x32 → (s.part p).img.image ≠ none → (s.part p).bound = true →
    (s.part p).twin.ckptCmd ≠ none → ∃ t, exec (.checkpoint c 0 0) s = .next t ∧ OnlyPart p s t
      ∧ (t.part p).twin = (s.part p).twin ∧ Completed s t c 0x32 .busy 0 0) ∧
  (∀ (s : State) (p : Part) (b : Nat), (s.part p).twin.ckptPoint = some b →
    (b + 1 ≠ s.sys.beat → exec (.checkpointTake p) s = .next (State.onTwin p (fun w => { w with ckptPoint := none }) s)) ∧
    (b + 1 = s.sys.beat → ∃ t, exec (.checkpointTake p) s = .next t ∧ (t.part p).twin.ckptPoint = none
      ∧ (t.part p).twin.ckptDue = false ∧ (t.part p).twin.ckptAt = b
      ∧ ((s.part p).bound = true → (t.part p).twin.copyRunning = true))) ∧
  (∀ (s : State) (p : Part) (k : Checkpoint), (s.part p).twin.ckptPending = some k → (s.part p).twin.copyRunning = true →
    ∃ t, exec (.checkpointCopyComplete p) s = .next t ∧ (t.part p).twin.copyRunning = false ∧ t.mem = s.mem
      ∧ ((s.part p).twin.phase = .alone → (t.part p).twin.ckpt = some k ∧ (t.part p).twin.ckptBeat = k.beat
          ∧ (t.part p).twin.ckptPending = none ∧ (t.part p).twin.agreedSinceReplay = true)
      ∧ ((s.part p).twin.phase = .bound → (s.part p).twin.peerCkpt ≠ some k.beat →
          (t.part p).twin.ckptPending = some k ∧ (t.part p).twin.ckpt = (s.part p).twin.ckpt)) ∧
  (∀ (s : State) (p : Part) (r : Bytes) (b : U64), r.all (· == 0) = true → (s.part p).bound = true →
    ∃ t, exec (.twinCkpt ⟨p, r⟩ b true) s = .next t ∧ OnlyPart p s t ∧ (t.part p).twin.peerCkpt = some b.toNat
      ∧ ∀ k, (s.part p).twin.ckptPending = some k → (s.part p).twin.phase = .bound → (s.part p).twin.copyRunning = false →
          k.beat = b.toNat → k.beat ≤ (s.part p).twin.matched → (t.part p).twin.ckpt = some k ∧ (t.part p).twin.ckptPending = none)

/-- REPLAY_START on an unbound LOADED partition with every context FREE and a checkpoint of its own image at CKPT_VA starts
re-enactment at the beat after the checkpoint, up to LAST_BEAT; with none there it completes POLICY_REFUSED; with no beat to
re-enact it completes OK at once. A re-enacted beat ends the field replay or goes on to the next beat; in a pair that replays
it goes on to the next. The partner's progress is kept while the pair replays. (R267; R269) -/
def Obligations.ReplaysRunFromTheirCheckpoint : Prop :=
  (∀ (s : State) (c : Cmd) (p : Part) (r : ReplaySpec), FromPart s c p 0x33 → (s.part p).phase = .loaded →
    (s.part p).twin.phase = .unbound → (s.part p).allFree = true → (s.part p).twin.replayStatus ≠ 1 →
    (tfind (s.part p).twin.slots r.ckptVA.toNat = none → ∃ t, exec (.replayStart c r) s = .next t ∧ OnlyPart p s t
      ∧ (t.part p).twin = { (s.part p).twin with replayLast := .policyRefused } ∧ Completed s t c 0x33 .policyRefused 0 0) ∧
    (∀ k, tfind (s.part p).twin.slots r.ckptVA.toNat = some k → k.measure = (s.part p).img.measure →
      (k.beat < r.lastBeat.toNat → ∃ t, exec (.replayStart c r) s = .next t ∧ (t.part p).twin.replayStatus = 1
        ∧ (t.part p).twin.replayAt = k.beat + 1 ∧ (t.part p).twin.replayStop = r.lastBeat.toNat
        ∧ (t.part p).twin.replayBeats = 0 ∧ (t.part p).twin.replayCmd = some c ∧ (t.part p).twin.orderDelay = k.delay
        ∧ (t.part p).twin.fp = k.fp) ∧
      (r.lastBeat.toNat ≤ k.beat → ∃ t, exec (.replayStart c r) s = .next t ∧ (t.part p).twin.replayStatus = 2
        ∧ (t.part p).twin.replayLast = .ok ∧ (t.part p).twin.replayCmd = none ∧ Completed s t c 0x33 .ok 0 0))) ∧
  (∀ (s : State) (p : Part), (s.part p).phase = .loaded →
    ((s.part p).twin.replayStatus = 1 → (s.part p).twin.replayAt ≤ (s.part p).twin.replayStop →
      ∃ t, exec (.replayBeat p) s = .next t
        ∧ ((t.part p).twin.replayStatus = 2 ∨ (t.part p).twin.replayAt = (s.part p).twin.replayAt + 1)) ∧
    ((s.part p).twin.replayStatus ≠ 1 → (s.part p).twin.phase = .replaying →
      ((s.part p).twin.replayAt ≤ s.sys.beat → ∃ t, exec (.replayBeat p) s = .next t
        ∧ (t.part p).twin.replayAt = (s.part p).twin.replayAt + 1) ∧
      (s.sys.beat < (s.part p).twin.replayAt → exec (.replayBeat p) s = .next s))) ∧
  (∀ (s : State) (p : Part) (r : Bytes) (b : U64) (f : U128),
    (r.all (· == 0) = true → (s.part p).twin.phase = .replaying → exec (.twinProgress ⟨p, r⟩ b f) s
      = .next (State.onTwin p (fun w => { w with peerProgress := some (b.toNat, f) }) s)) ∧
    ((r.all (· == 0) = false ∨ (s.part p).twin.phase ≠ .replaying) → exec (.twinProgress ⟨p, r⟩ b f) s = .next s))

/-- A partner's fingerprint is kept for its comparison; 64 beats without one make a BOUND twin ALONE, and the secondary
acting primary. A silent secondary keeps ORDER, and holds what FWD brings until ORDER names it; the primary answers NEED. An
order whose messages never come is a divergence, and without a checkpoint to go back to the pair is DIVERGED. Held messages
that no order named are dropped. NOISE gives the round its partner's contribution and lets a waiting release form its seed. A
partner's equal release fingerprint lets a waiting release mark the ledger and write; a different one fails the finalize. A
twin message with a reserved byte set is discarded. (R41; R259; R260; R262; R263; R417) -/
def Obligations.TwinsExchangeAndCompare : Prop :=
  (∀ (s : State) (h : TwinHead), h.reserved.all (· == 0) = false →
    (∀ b f, exec (.twinFp h b f) s = .next s ∧ exec (.twinRelease h b f) s = .next s) ∧
    (∀ b l, exec (.twinOrder h b l) s = .next s ∧ exec (.twinNeed h b l) s = .next s) ∧
    (∀ b e tag x, exec (.twinFwd h b e tag x) s = .next s) ∧ (∀ id x, exec (.twinNoise h id x) s = .next s) ∧
    ∀ b c, exec (.twinCkpt h b c) s = .next s) ∧
  (∀ (s : State) (p : Part) (r : Bytes) (b : U64) (f : U128), r.all (· == 0) = true → (s.part p).bound = true →
    exec (.twinFp ⟨p, r⟩ b f) s = .next (State.onTwin p (fun w =>
      { w with peerFps := w.peerFps ++ [(b.toNat, f)], lastPeerFp := s.sys.beat }) s)) ∧
  (∀ (s : State) (p : Part), (s.part p).twin.phase = .bound →
    (s.sys.beat < (s.part p).twin.lastPeerFp + 64 → exec (.twinFpTimeout p) s = .next s) ∧
    ((s.part p).twin.lastPeerFp + 64 ≤ s.sys.beat → ∃ t, exec (.twinFpTimeout p) s = .next t ∧ (t.part p).twin.phase = .alone
      ∧ (t.part p).twin.actingPrimary = (s.part p).twin.secondary ∧ (t.part p).twin.held = [] ∧ (t.part p).twin.orders = []
      ∧ ∀ q, q ≠ p → t.part q = s.part q)) ∧
  (∀ (s : State) (p : Part) (r : Bytes) (b : U64) (l : List OrderEntry), r.all (· == 0) = true → (s.part p).silent = true →
    exec (.twinOrder ⟨p, r⟩ b l) s = .next (State.onTwin p (fun w => { w with orders := w.orders ++ [(b.toNat, l)] }) s)) ∧
  (∀ (s : State) (p : Part) (r : Bytes) (b : U64) (e : OrderEntry) (x : Bytes), r.all (· == 0) = true →
    (s.part p).paired = true → (s.part p).silent = false → (s.part p).phase ≠ .fenced → stampedBytes s p e = some x → (s.conn (s.part p).twin.conn).state = .ready →
    sealable s (s.part p).twin.conn = true →
    ∃ t, exec (.twinNeed ⟨p, r⟩ b [e]) s = .next t ∧ t = { s with rxt := t.rxt, tx := t.tx, ports := t.ports }
      ∧ (t.conn (s.part p).twin.conn).txMsg = (s.conn (s.part p).twin.conn).txMsg + 1
      ∧ OtherConns (s.part p).twin.conn s t) ∧
  (∀ (s : State) (p : Part) (r : Bytes) (b : U64) (e : OrderEntry) (tag : U64) (x : Bytes), r.all (· == 0) = true →
    (s.part p).silent = true →
    (e.source = 3 → ∃ t, exec (.twinFwd ⟨p, r⟩ b e tag x) s = .next t
      ∧ (t.part p).twin.seenFabric = (s.part p).twin.seenFabric ++ [e]
      ∧ (t.part p).twin.bulk = (s.part p).twin.bulk ++ [(b.toNat, e.number.toNat, x)]) ∧
    (e.source ≠ 3 →
      (hasEntry (s.part p).twin e = true → exec (.twinFwd ⟨p, r⟩ b e tag x) s = .next s) ∧
      ∀ k va, hasEntry (s.part p).twin e = false → poolCtx s p tag = some k → freeStage s p k = some va →
        ∃ t, exec (.twinFwd ⟨p, r⟩ b e tag x) s = .next t ∧ t = { s with parts := t.parts, mem := t.mem }
          ∧ (t.part p).twin.held = (s.part p).twin.held ++ [⟨e, k, tag, va, .forwarded⟩]
          ∧ (t.part p).stamps = (s.part p).stamps ∧ ∀ q, q ≠ p → t.part q = s.part q)) ∧
  (∀ (s : State) (p : Part) (b : U64) (l : List OrderEntry), (s.part p).silent = true → (s.part p).twin.phase = .bound →
    (s.part p).twin.orders.find? (fun o => o.1 == b.toNat) = some (b.toNat, l) →
    b.toNat + (s.part p).twin.orderDelay < s.sys.beat → (∃ e ∈ l, hasEntry (s.part p).twin e = false) →
    ∃ t, exec (.orderMissing p b) s = .next t ∧ (t.part p).twin.divergences = sat32 (s.part p).twin.divergences
      ∧ ((s.part p).twin.ckpt = none → (t.part p).twin.phase = .diverged)) ∧
  (∀ (s : State) (p : Part), ∃ t, exec (.unnamedMessageDiscard p) s = .next t ∧ OnlyPart p s t
    ∧ (t.part p).twin = { (s.part p).twin with held := (s.part p).twin.held.filter (fun h =>
        !decide ((s.ctx p h.ctx).lastBeat + (s.part p).twin.orderDelay < s.sys.beat)) }) ∧
  (∀ (s : State) (p : Part) (r : Bytes) (id : U64), r.all (· == 0) = true →
    (roundCtx s p id.toNat = none → ∀ x, exec (.twinNoise ⟨p, r⟩ id x) s = .next s) ∧
    (∀ k x, roundCtx s p id.toNat = some k →
      ∃ t, exec (.twinNoise ⟨p, r⟩ id x) s = .next t ∧ (t.ctx p k).partnerNoise = some x ∧ t.mem = s.mem
        ∧ ((s.ctx p k).phase = .finalizing → (s.ctx p k).finStep = .waitNoise → (s.ctx p k).ownNoise ≠ none →
            (t.ctx p k).finStep = .pipeline ∧ (t.ctx p k).release.key ≠ none)) ∧
    (∀ k f own, roundCtx s p id.toNat = some k → (s.ctx p k).phase = .finalizing → (s.ctx p k).finStep = .waitTwin →
      (s.ctx p k).releaseFp = some own → (s.part p).twin.replaying = false →
      let q := (s.ctx p k).policy
      (own = f → ledgerUsable (judgeEntry p k q.signer s) q.signer q.roundId = true → ∃ t, exec (.twinRelease ⟨p, r⟩ id f) s = .next t
        ∧ (t.ctx p k).finStep = .writing ∧ ledgerRecorded t q.signer q.roundId = true ∧ t.mem = s.mem) ∧
      (own ≠ f → ∃ t, exec (.twinRelease ⟨p, r⟩ id f) s = .next t ∧ t.key = s.key ∧ (t.ctx p k).finStep = .idle)))

/-- Every beat instruction has a word, and decoding that word for the instruction's unit gives the instruction back, with
every field at every value; a word that decodes encodes back to itself, so a word has one meaning and no reserved bit is
dropped. (R182; R183; R184) -/
def Obligations.BeatWordsRoundTrip : Prop :=
  (∀ (i : Instr) (w : U128), encodeBeat i = some w → ∃ u, decodeBeat u w = some i) ∧
  (∀ (u : UnitId) (w : U128) (i : Instr), decodeBeat u w = some i → encodeBeat i = some w) ∧
  (∀ (u v : UnitId) (w : U128), (decodeBeat u w).isSome = (decodeBeat v w).isSome)

/-- One word of each of the six formats, its fields placed as the tables place them, decodes to its instruction; a word with
a reserved opcode, or with reserved bit 15 set, decodes to none. (R183; R184) -/
def Obligations.BeatWordsAreThoseOfTheTables : Prop :=
  ∀ u : UnitId,
    decodeBeat u 0x0000000000000007_0000_000000_02_1901 = some (.xadd u ⟨false, 1, 3, 2, 0, 7⟩) ∧
    decodeBeat u 0x0000000000000000_1003_0A0908_05_2B18 = some (.tacc u ⟨false, 11, true, 5, 8, 9, 10, 3, 1, 0⟩) ∧
    decodeBeat u 0x0000000000000040_9001_000211_00_4051 = some (.st u ⟨true, 0, false, 0, 0x11, 2, 1, 9, 0x40⟩) ∧
    decodeBeat u 0x0000000000000005_0002_000003_0C_0B34 = some (.autol u ⟨false, 3, 1, 4, 1, 3, 2, 5⟩) ∧
    decodeBeat u 0x00000020_00000010_0000000100_0A_0160 = some (.scopy u ⟨false, 1, 0, 2, 1, 0, 0x100, 0x10, 0x20⟩) ∧
    decodeBeat u 0x0000000000000400_0000000010_18_0071 = some (.tred u ⟨false, 0, 0, 0, true, 1, 0x10, 0x400⟩) ∧
    decodeBeat u 0x0A = none ∧ decodeBeat u 0x8000 = none

/-- Reset memory has the canonical form, no mark and no stored error; a byte nothing has written reads zero, which is the
model's choice (log entry 4). (R10; R195; R197) -/
def Obligations.MemoryIsCanonicalAtReset : Prop :=
  Memory.wf State.reset.mem = true ∧ State.reset.mem.poison = [] ∧ State.reset.mem.bad = [] ∧ ∀ a, State.reset.byteAt a = 0

/-- A store keeps the canonical form of memory. Below host memory, or without poison, its bytes read back as written;
poisoned data go to host memory as zeros. Every byte outside is as it was. Poisoned data in device memory mark every line
they touch. Zeroing keeps the form, makes the range zeros, leaves every other byte, and cleans the whole lines of the range.
(R44; R196; R285; R375; R376) -/
def Obligations.MemoryReadsWhatWasWritten : Prop :=
  (∀ (s : State) (k : Nat) (b : Bytes) (x : Bool), Memory.wf s.mem = true →
    let t := s.store k b x
    Memory.wf t.mem = true ∧ (∀ a, a < k ∨ k + b.length ≤ a → t.byteAt a = s.byteAt a)
      ∧ (k < 2 ^ 64 ∨ x = false → t.bytesAt k b.length = b)
      ∧ (2 ^ 64 ≤ k → x = true → t.bytesAt k b.length = zeroBytes b.length ∧ t.mem.poison = s.mem.poison)
      ∧ (k < 2 ^ 64 → x = true → ∀ n a, 0 < n → k ≤ a → a + n ≤ k + b.length → t.poisonedAt a n = true)) ∧
  (∀ (s : State) (k n : Nat), Memory.wf s.mem = true →
    let t := s.zeroRange k n
    Memory.wf t.mem = true ∧ t.bytesAt k n = zeroBytes n ∧ (∀ a, a < k ∨ k + n ≤ a → t.byteAt a = s.byteAt a)
      ∧ (k % 64 = 0 → n % 64 = 0 → t.poisonedAt k n = false))

/-- From every state whose memory has the canonical form, a step whose front command is any beat instruction ends, where it
answers a next state, with memory in the canonical form, whatever the instruction's operands and whether or not its beat
aborts. (R158; R182; R185; R196; R375) -/
def Obligations.BeatInstructionsKeepMemoryCanonical : Prop :=
  ∀ (s t : State) (i : Instr) (r : List Instr), (encodeBeat i).isSome = true → Memory.wf s.mem = true → s.pending = i :: r →
    step s = .next t → Memory.wf t.mem = true

/-- After reset logical cluster 8r + j is physical cluster 9r + j; the beat period is 312,500, the instar and the member
number 0 and no partition exists; the MEM, PWR and RXT registers hold the values their tables state; no connection is open,
no ring is enabled, and the queue of commands is empty. (R18; R176; R215; R247; R248; R251; R270; R274; R345; R370) -/
def Obligations.ResetLeavesTheStatedValues : Prop :=
  (∀ (d : Die) (c : Cluster), State.reset.physOf d c = some (9 * (c.val / 8) + c.val % 8)) ∧
  State.reset.sys.beatPeriod = 312500 ∧ State.reset.sys.beat = 0 ∧ State.reset.sys.instar = 0 ∧ State.reset.sys.member = 0 ∧
  (∀ p, (State.reset.part p).phase = .absent) ∧
  State.reset.mem.weevilCtrl = 3 ∧ State.reset.mem.sramPeriod = 600 ∧ State.reset.mem.dramPeriod = 86400 ∧
  State.reset.mem.sramCeLimit = 64 ∧ State.reset.mem.dramRowCeLimit = 4 ∧
  State.reset.pwr.tSoft = 20 ∧ State.reset.pwr.ballast = 25 ∧ State.reset.pwr.flow = 255 ∧ State.reset.pwr.flowMin = 51 ∧
  State.reset.pwr.thermTarget = 340 ∧ State.reset.pwr.horizon = 60 ∧
  (∀ q b, (State.reset.sub q b).udp = 0x2E281C7A ∧ (State.reset.sub q b).mtu = 9216 ∧ (State.reset.sub q b).rekey = 86400
    ∧ (State.reset.sub q b).linkUp = false) ∧
  State.reset.rxt.ccParams = 0x3220 ∧ State.reset.rxt.ccRate = 0x000A07D0 ∧ State.reset.rxt.retry = 0x10031020 ∧
  (∀ n, (State.reset.conn n).state = .free) ∧ (∀ fn, (State.reset.hif fn).enabled = false) ∧ State.reset.pending = []

/-- Every command that names a round context and a round id completes with INVALID_STATE, and changes no context, when the
context holds a different round or is FREE or aborting. The one exception is ROUND_FINALIZE naming a FREE context with an id
recorded as released under the signer of the round the context last held, once that signer's ledger entry is judged: it
completes with POLICY_REFUSED. (R36; R359) -/
def Obligations.RoundCommandsNameTheirRound : Prop :=
  ∀ (s : State) (c : Cmd) (p : Part) (k : Ctx) (r : RoundRef), NotReplaying s p → r.context.toNat = k.val →
    ((s.ctx p k).phase = .free ∨ (s.ctx p k).policy.roundId ≠ r.roundId.toNat) →
    (FromPart s c p 0x11 → ∃ t, exec (.roundClose c r) s = .next t ∧ OnlyPart p s t ∧ (t.part p).ctxs = (s.part p).ctxs
      ∧ Completed s t c 0x11 .invalidState 0 0) ∧
    (FromPart s c p 0x12 → ∀ va n, 1 ≤ n.toNat → n.toNat ≤ 65536 → ∃ t, exec (.roundUnmask c r va n) s = .next t
      ∧ OnlyPart p s t ∧ (t.part p).ctxs = (s.part p).ctxs ∧ Completed s t c 0x12 .invalidState 0 0) ∧
    (FromPart s c p 0x14 → ∃ t, exec (.roundAbort c r) s = .next t ∧ OnlyPart p s t ∧ (t.part p).ctxs = (s.part p).ctxs
      ∧ Completed s t c 0x14 .invalidState 0 0) ∧
    (FromPart s c p 0x15 → ∃ t, exec (.resultAck c r) s = .next t ∧ OnlyPart p s t ∧ (t.part p).ctxs = (s.part p).ctxs
      ∧ Completed s t c 0x15 .invalidState 0 0) ∧
    (FromPart s c p 0x13 →
      let released := (s.ctx p k).phase = .free ∧ (s.ctx p k).aborting = false
        ∧ ∃ key, (s.ctx p k).keptSigner = some key ∧ ledgerRecorded (judgeEntry p k key s) key r.roundId.toNat = true
      let keeps (t : State) : Prop := (∀ q, q ≠ p → t.part q = s.part q) ∧ (t.part p).ctxs = (s.part p).ctxs ∧ t.mem = s.mem
      (released → ∃ t, exec (.roundFinalize c r) s = .next t ∧ keeps t ∧ Completed s t c 0x13 .policyRefused 0 0) ∧
      (¬ released → ∃ t, exec (.roundFinalize c r) s = .next t ∧ keeps t ∧ Completed s t c 0x13 .invalidState 0 0))

/-- The 64 entries of 32 bytes are zero at reset. A write of one of an entry's words at 0xB000 + 32 i + 8 j changes no entry
at once; when the boundary latches it, that word has the value and every other word of every entry is as it would be without
the write; connections and their keys are untouched. With every entry zero an agreement is refused, as not allowed or before
that for its signatures. (R310) -/
def Obligations.PeerAllowListIsLatched : Prop :=
  (∀ (p : Part) (i : Nat), tget (State.reset.part p).peerAllow i 0 = 0) ∧
  (∀ (s : State) (p : Part) (i j : Nat) (v : U64), FnOpen s (.part p) → i < 64 → j < 4 →
    ∃ t, exec (.registerWrite (.part p) (0xB000 + 32 * i + 8 * j) true v) s = .next t ∧ OnlyPart p s t
      ∧ (t.part p).peerAllow = (s.part p).peerAllow
      ∧ word256 (tget (t.part p).latched.peerAllow i 0) j = v
      ∧ (∀ m n, n < 4 → (m ≠ i ∨ n ≠ j) →
          word256 (tget (t.part p).latched.peerAllow m 0) n = word256 (tget (s.part p).latched.peerAllow m 0) n)
      ∧ (State.onPart p PartState.latched t).rxt = s.rxt ∧ (State.onPart p PartState.latched t).key = s.key) ∧
  (∀ (s : State) (c : Conn) (b : ConnectBody), (∀ e ∈ (s.part c.part).peerAllow, e.2 = 0) → peerRefused s c b
    = some (if signedBody b then 2 else 1))

/-- On a bound partition the operands must be zero, and on an unbound one they name a slot that a later REPLAY_START finds
under CKPT_VA. No image loaded is INVALID_STATE, nonzero operands on a bound partition INVALID_COMMAND, a store that does not
translate PAGE_FAULT, one below one checkpoint CAPACITY. An accepted command waits for the next pre-emption point, whatever
the interval; at that boundary the checkpoint is taken and the command completes with its beat in RESULT. (R361) -/
def Obligations.CheckpointCommandOutcomes : Prop :=
  (∀ (s : State) (c : Cmd) (p : Part) (va len : U64), FromPart s c p 0x32 →
    let stops (st : Status) := ∃ t, exec (.checkpoint c va len) s = .next t ∧ OnlyPart p s t
      ∧ (t.part p).twin = (s.part p).twin ∧ Completed s t c 0x32 st 0 0
    ((s.part p).img.image = none → stops .invalidState) ∧
    ((s.part p).img.image ≠ none → (s.part p).bound = true →
      (va ≠ 0 ∨ len ≠ 0 → stops .invalidCommand) ∧
      (va = 0 → len = 0 → (s.part p).twin.ckptCmd = none → exec (.checkpoint c va len) s
        = .next (State.onTwin p (fun w => { w with ckptDue := true, ckptCmd := some c }) s))) ∧
    ((s.part p).img.image ≠ none → (s.part p).bound = false →
      (slotFault s p va.toNat len.toNat ≠ none → stops .pageFault) ∧
      (slotFault s p va.toNat len.toNat = none → len ≠ 0 → len.toNat < ckptSize s p → stops .capacity) ∧
      (slotFault s p va.toNat len.toNat = none → len ≠ 0 → ckptSize s p ≤ len.toNat → (s.part p).twin.ckptCmd = none →
        exec (.checkpoint c va len) s
          = .next (State.onTwin p (fun w => { w with ckptVA := va, ckptBytes := len, ckptDue := true, ckptCmd := some c }) s)))) ∧
  (∀ (s : State) (p : Part) (b : Nat), (s.part p).twin.ckptDue = true → (s.part p).twin.copyRunning = false →
    ckptBoundary p b s = if preemptPoint s p = true then State.onTwin p (fun w => { w with ckptPoint := some b }) s else s) ∧
  (∀ (s : State) (p : Part) (b : Nat) (c : Cmd), (s.part p).twin.ckptPoint = some b → b + 1 = s.sys.beat →
    (s.part p).twin.ckptCmd = some c → c.fn = .part p → Answers s c 0x32 →
    ∃ t, exec (.checkpointTake p) s = .next t ∧ (t.part p).twin.ckptCmd = none ∧ Completed s t c 0x32 .ok 0 b
      ∧ ((s.part p).bound = true → ∃ k, (t.part p).twin.ckptPending = some k ∧ k.beat = b)
      ∧ ((s.part p).bound = false → ∃ k, tfind (t.part p).twin.slots (s.part p).twin.ckptVA.toNat = some k ∧ k.beat = b))

/-- A usable id is no longer usable once an entry is marked with it. Another id stays usable exactly when it was usable and
is above the window of the new high-water mark. In the ledger, marking makes the id recorded under that signer and changes
what is usable under no other signer, and no partition. (R42) -/
def Obligations.ARoundIsReleasedOnce : Prop :=
  (∀ (e : LedgerEntry) (r : Nat), entryUsable e r = true → entryUsable (entryMark e r) r = false
    ∧ ∀ n, n ≠ r → (entryUsable (entryMark e r) n = true ↔ entryUsable e n = true ∧ max e.high r - 64 < n)) ∧
  (∀ (s : State) (key : U128) (r : Nat), ledgerUsable s key r = true →
    ledgerRecorded (ledgerMark key r s) key r = true
      ∧ (∀ other n, other ≠ key → ledgerUsable (ledgerMark key r s) other n = ledgerUsable s other n)
      ∧ (ledgerMark key r s).parts = s.parts ∧ (ledgerMark key r s).mem = s.mem)
end

