-- ==== Sys2Proof/Laws/Memory.lean ====
section
/-! SUPPORT. The laws of memory: the canonical form is kept by every operation that writes bytes, a byte written reads back,
and every other byte is as it was. -/

namespace Sys2Proof.Machine

/-- The canonical form as two facts: keys rise, and no zero byte is listed. -/
theorem cellsWf_iff (m : List Host.Cell) : cellsWf m = true ↔ (m.map (·.1)).Pairwise (· < ·) ∧ ∀ c ∈ m, c.2 ≠ 0 := by
  induction m with
  | nil => simp [cellsWf]
  | cons c t ih =>
    cases t with
    | nil => simp [cellsWf]
    | cons d t =>
      simp only [cellsWf, Bool.and_eq_true, ih, decide_eq_true_eq, bne_iff_ne]
      constructor
      · rintro ⟨⟨hc, hl⟩, hp, hz⟩
        refine ⟨?_, ?_⟩
        · rw [List.map_cons, List.pairwise_cons]
          refine ⟨?_, hp⟩
          rw [List.map_cons, List.pairwise_cons] at hp
          intro a ha
          rw [List.map_cons, List.mem_cons] at ha
          rcases ha with rfl | ha
          · exact hl
          · exact Nat.lt_trans hl (hp.1 a ha)
        · intro x hx
          rcases List.mem_cons.mp hx with rfl | hx
          · exact hc
          · exact hz x hx
      · rintro ⟨hp, hz⟩
        rw [List.map_cons, List.pairwise_cons] at hp
        exact ⟨⟨hz c (by simp), hp.1 d.1 (by simp)⟩, hp.2, fun x hx => hz x (List.mem_cons_of_mem _ hx)⟩

/-- Keys above a bound stay above it. -/
theorem cellPut_keys_gt {m : List Host.Cell} {k b : Nat} {x : Byte} (hm : ∀ c ∈ m, b < c.1) (hk : b < k) :
    ∀ c ∈ cellPut m k x, b < c.1 := by
  induction m with
  | nil => intro c hc; by_cases h : x = 0#8 <;> simp_all [cellPut]
  | cons d t ih =>
    intro c hc
    have ht : ∀ c ∈ t, b < c.1 := fun c hc => hm c (List.mem_cons_of_mem _ hc)
    have hd := hm d (by simp)
    simp only [cellPut] at hc
    split at hc
    · split at hc
      · exact ht c hc
      · rcases List.mem_cons.mp hc with rfl | hc
        · exact hk
        · exact ht c hc
    · split at hc
      · split at hc
        · exact hm c hc
        · rcases List.mem_cons.mp hc with rfl | hc
          · exact hk
          · exact hm c hc
      · rcases List.mem_cons.mp hc with rfl | hc
        · exact hd
        · exact ih ht c hc

/-- Writing one byte keeps the canonical form. -/
theorem cellPut_wf {m : List Host.Cell} (k : Nat) (x : Byte) (h : cellsWf m = true) : cellsWf (cellPut m k x) = true := by
  rw [cellsWf_iff] at h ⊢
  induction m with
  | nil => by_cases e : x = 0#8 <;> simp [cellPut, e]
  | cons d t ih =>
    obtain ⟨hp, hz⟩ := h
    rw [List.map_cons, List.pairwise_cons] at hp
    have hgt : ∀ c ∈ t, d.1 < c.1 := fun c hc => hp.1 c.1 (List.mem_map_of_mem hc)
    have hzt : ∀ c ∈ t, c.2 ≠ 0 := fun c hc => hz c (List.mem_cons_of_mem _ hc)
    have hih := ih ⟨hp.2, hzt⟩
    have cons_ok : ∀ (c : Host.Cell) (l : List Host.Cell), (∀ y ∈ l, c.1 < y.1) → c.2 ≠ 0 →
        ((l.map (·.1)).Pairwise (· < ·) ∧ ∀ c ∈ l, c.2 ≠ 0) →
        ((c :: l).map (·.1)).Pairwise (· < ·) ∧ ∀ y ∈ c :: l, y.2 ≠ 0 := by
      intro c l h1 h2 h3
      refine ⟨?_, ?_⟩
      · rw [List.map_cons, List.pairwise_cons]
        refine ⟨?_, h3.1⟩
        intro a ha
        obtain ⟨y, hy, rfl⟩ := List.mem_map.mp ha
        exact h1 y hy
      · intro y hy
        rcases List.mem_cons.mp hy with rfl | hy
        · exact h2
        · exact h3.2 y hy
    simp only [cellPut]
    split
    · rename_i e
      split
      · exact ⟨hp.2, hzt⟩
      · rename_i hx
        exact cons_ok (k, x) t (fun c hc => e ▸ hgt c hc) hx ⟨hp.2, hzt⟩
    · split
      · rename_i e g
        have hall : ((d :: t).map (·.1)).Pairwise (· < ·) ∧ ∀ c ∈ d :: t, c.2 ≠ 0 :=
          ⟨by rw [List.map_cons, List.pairwise_cons]; exact hp, hz⟩
        split
        · exact hall
        · rename_i hx
          refine cons_ok (k, x) (d :: t) ?_ hx hall
          intro y hy
          rcases List.mem_cons.mp hy with rfl | hy
          · exact g
          · exact Nat.lt_trans g (hgt y hy)
      · rename_i e g
        exact cons_ok d _ (cellPut_keys_gt hgt (by omega)) (hz d (by simp)) hih

/-- Writing bytes keeps the canonical form. -/
theorem cellsPut_wf {m : List Host.Cell} (k : Nat) (b : Bytes) (h : cellsWf m = true) : cellsWf (cellsPut m k b) = true := by
  induction b generalizing m k with
  | nil => exact h
  | cons x b ih => exact ih (k + 1) (cellPut_wf k x h)

/-- A fold of single writes keeps the canonical form: the journal's undo, a restore, a move of a slice. -/
theorem foldl_cellPut_wf {α : Type} (l : List α) (key : α → Nat) (val : α → Byte) {m : List Host.Cell} (h : cellsWf m = true) :
    cellsWf (l.foldl (fun t a => cellPut t (key a) (val a)) m) = true := by
  induction l generalizing m with
  | nil => exact h
  | cons a l ih => exact ih (cellPut_wf _ _ h)

/-- Dropping listed bytes keeps the canonical form. -/
theorem filter_wf {m : List Host.Cell} (p : Host.Cell → Bool) (h : cellsWf m = true) : cellsWf (m.filter p) = true := by
  rw [cellsWf_iff] at h ⊢
  refine ⟨?_, fun c hc => h.2 c (List.mem_of_mem_filter hc)⟩
  exact List.Pairwise.sublist (List.Sublist.map _ List.filter_sublist) h.1

/-- Two canonical lists, the keys of the first below those of the second, join canonically. -/
theorem append_wf {l m : List Host.Cell} (hl : cellsWf l = true) (hm : cellsWf m = true) (h : ∀ c ∈ l, ∀ d ∈ m, c.1 < d.1) :
    cellsWf (l ++ m) = true := by
  rw [cellsWf_iff] at hl hm ⊢
  refine ⟨?_, fun c hc => (List.mem_append.mp hc).elim (hl.2 c) (hm.2 c)⟩
  rw [List.map_append, List.pairwise_append]
  refine ⟨hl.1, hm.1, fun a ha b hb => ?_⟩
  obtain ⟨c, hc, rfl⟩ := List.mem_map.mp ha
  obtain ⟨d, hd, rfl⟩ := List.mem_map.mp hb
  exact h c hc d hd

/-- The nonzero bytes of a range, at their keys: canonical, and inside the range. -/
theorem rangeCells_wf (k n : Nat) (b : Bytes) :
    let l := (b.zipIdx n).filterMap fun x => if x.1 = 0 then none else some (k + x.2, x.1)
    cellsWf l = true ∧ ∀ c ∈ l, k + n ≤ c.1 ∧ c.1 < k + n + b.length := by
  induction b generalizing n with
  | nil => simp [cellsWf]
  | cons x b ih =>
    obtain ⟨hw, hb⟩ := ih (n + 1)
    have hb' : ∀ c ∈ (b.zipIdx (n + 1)).filterMap (fun x => if x.1 = 0 then none else some (k + x.2, x.1)),
        k + n < c.1 ∧ c.1 < k + n + (x :: b).length := fun c hc => by
      have := hb c hc
      simp only [List.length_cons]
      omega
    simp only [List.zipIdx_cons, List.filterMap_cons]
    by_cases e : x = 0
    · simp only [e, if_true]
      exact ⟨hw, fun c hc => by have := hb' c hc; simp only [e] at this; omega⟩
    · simp only [e, if_false]
      refine ⟨append_wf (l := [(k + n, x)]) (by simpa [cellsWf] using e) hw fun c hc d hd => ?_, fun c hc => ?_⟩
      · have := hb' d hd
        simp only [List.mem_singleton] at hc
        subst hc; exact this.1
      · rcases List.mem_cons.mp hc with rfl | hc
        · simp only [List.length_cons]; omega
        · have := hb' c hc; omega

/-- Replacing a range keeps the canonical form. -/
theorem cellsFill_wf {m : List Host.Cell} (k : Nat) (b : Bytes) (h : cellsWf m = true) : cellsWf (cellsFill m k b) = true := by
  obtain ⟨hw, hb⟩ := rangeCells_wf k 0 b
  refine append_wf (append_wf (filter_wf _ h) hw fun c hc d hd => ?_) (filter_wf _ h) fun c hc d hd => ?_
  · have := hb d hd
    have := of_decide_eq_true (List.mem_filter.mp hc).2
    omega
  · have hd := of_decide_eq_true (List.mem_filter.mp hd).2
    rcases List.mem_append.mp hc with hc | hc
    · have := of_decide_eq_true (List.mem_filter.mp hc).2
      omega
    · have := hb c hc
      omega

/-- The operations on the state's memory keep its canonical form. -/
theorem store_wf {s : State} (k : Nat) (b : Bytes) (x : Bool) (h : Memory.wf s.mem = true) : Memory.wf (s.store k b x).mem = true := by
  show Memory.wf (if 2 ^ 64 ≤ k then _ else _) = true
  split <;> exact cellsPut_wf _ _ h
theorem fill_wf {s : State} (k : Nat) (b : Bytes) (h : Memory.wf s.mem = true) : Memory.wf (s.fill k b).mem = true := cellsFill_wf k b h
theorem zeroRange_wf {s : State} (k n : Nat) (h : Memory.wf s.mem = true) : Memory.wf (s.zeroRange k n).mem = true := filter_wf _ h

/-- Meeting lines in error changes no byte and no mark. -/
theorem noteRead_mem (s : State) (k n : Nat) : (s.noteRead k n).mem = { s.mem with met := (s.noteRead k n).mem.met } := by
  unfold State.noteRead; split <;> rfl
theorem noteRead_wf {s : State} (k n : Nat) (h : Memory.wf s.mem = true) : Memory.wf (s.noteRead k n).mem = true := by
  rw [noteRead_mem]; exact h

/-- A key below every listed one reads zero. -/
theorem cellGet_below {m : List Host.Cell} {k : Nat} (h : ∀ c ∈ m, k < c.1) : cellGet m k = 0 := by
  induction m with
  | nil => rfl
  | cons d t ih =>
    obtain ⟨j, b⟩ := d
    have hj : j ≠ k := by have := h (j, b) (by simp); simp at this; omega
    simp only [cellGet, hj, if_false]
    exact ih fun c hc => h c (List.mem_cons_of_mem _ hc)

/-- The byte written reads back. -/
theorem cellGet_cellPut_same {m : List Host.Cell} (k : Nat) (x : Byte) (h : cellsWf m = true) :
    cellGet (cellPut m k x) k = x := by
  rw [cellsWf_iff] at h
  induction m with
  | nil => by_cases e : x = 0#8 <;> simp [cellPut, cellGet, e]
  | cons d t ih =>
    obtain ⟨j, b⟩ := d
    obtain ⟨hp, hz⟩ := h
    rw [List.map_cons, List.pairwise_cons] at hp
    have hgt : ∀ c ∈ t, j < c.1 := fun c hc => hp.1 c.1 (List.mem_map_of_mem hc)
    have hih := ih ⟨hp.2, fun c hc => hz c (List.mem_cons_of_mem _ hc)⟩
    simp only [cellPut]
    split
    · rename_i e
      split
      · rename_i hx; rw [hx]; exact cellGet_below fun c hc => e ▸ hgt c hc
      · simp [cellGet]
    · rename_i e
      split
      · rename_i g
        split
        · rename_i hx
          rw [hx]
          refine cellGet_below fun c hc => ?_
          rcases List.mem_cons.mp hc with rfl | hc
          · exact g
          · exact Nat.lt_trans g (hgt c hc)
        · simp [cellGet]
      · simp only [cellGet, e, if_false]; exact hih

/-- Every other byte is as it was. -/
theorem cellGet_cellPut_other {m : List Host.Cell} (k a : Nat) (x : Byte) (h : a ≠ k) :
    cellGet (cellPut m k x) a = cellGet m a := by
  induction m with
  | nil => by_cases e : x = 0#8 <;> simp [cellPut, cellGet, e, Ne.symm h]
  | cons d t ih =>
    obtain ⟨j, b⟩ := d
    simp only [cellPut]
    split
    · rename_i e
      subst e
      split <;> simp [cellGet, Ne.symm h]
    · split
      · split <;> simp [cellGet, Ne.symm h]
      · simp only [cellGet, ih]

/-- Bytes outside a written range are as they were. -/
theorem cellGet_cellsPut_outside {m : List Host.Cell} (k a : Nat) (b : Bytes) (h : a < k ∨ k + b.length ≤ a) :
    cellGet (cellsPut m k b) a = cellGet m a := by
  induction b generalizing m k with
  | nil => rfl
  | cons x b ih =>
    simp only [List.length_cons] at h
    simp only [cellsPut]
    rw [ih (k + 1) (by omega), cellGet_cellPut_other k a x (by omega)]

@[simp] theorem cellsGet_length (m : List Host.Cell) (k n : Nat) : (cellsGet m k n).length = n := by
  induction n generalizing k with
  | zero => rfl
  | succ n ih => simp [cellsGet, ih]

end Sys2Proof.Machine
end

