-- ==== Sys2Proof/Laws/State.lean ====
section
/-! SUPPORT. The lemmas of State: one per field per update (true by rfl), and what a read of a part, context, unit,
cluster or connection gives after an update of one. -/

namespace Sys2Proof.Machine.State

/-! onPart -/
@[simp] theorem onPart_hub (s : State) (p : Part) (f : PartState → PartState) : (s.onPart p f).hub = s.hub := rfl
@[simp] theorem onPart_clk (s : State) (p : Part) (f : PartState → PartState) : (s.onPart p f).clk = s.clk := rfl
@[simp] theorem onPart_pwr (s : State) (p : Part) (f : PartState → PartState) : (s.onPart p f).pwr = s.pwr := rfl
@[simp] theorem onPart_rng (s : State) (p : Part) (f : PartState → PartState) : (s.onPart p f).rng = s.rng := rfl
@[simp] theorem onPart_key (s : State) (p : Part) (f : PartState → PartState) : (s.onPart p f).key = s.key := rfl
@[simp] theorem onPart_spi (s : State) (p : Part) (f : PartState → PartState) : (s.onPart p f).spi = s.spi := rfl
@[simp] theorem onPart_evr (s : State) (p : Part) (f : PartState → PartState) : (s.onPart p f).evr = s.evr := rfl
@[simp] theorem onPart_tst (s : State) (p : Part) (f : PartState → PartState) : (s.onPart p f).tst = s.tst := rfl
@[simp] theorem onPart_sys (s : State) (p : Part) (f : PartState → PartState) : (s.onPart p f).sys = s.sys := rfl
@[simp] theorem onPart_rxt (s : State) (p : Part) (f : PartState → PartState) : (s.onPart p f).rxt = s.rxt := rfl
@[simp] theorem onPart_ports (s : State) (p : Part) (f : PartState → PartState) : (s.onPart p f).ports = s.ports := rfl
@[simp] theorem onPart_mem (s : State) (p : Part) (f : PartState → PartState) : (s.onPart p f).mem = s.mem := rfl
@[simp] theorem onPart_pins (s : State) (p : Part) (f : PartState → PartState) : (s.onPart p f).pins = s.pins := rfl
@[simp] theorem onPart_ucie (s : State) (p : Part) (f : PartState → PartState) : (s.onPart p f).ucie = s.ucie := rfl
@[simp] theorem onPart_dies (s : State) (p : Part) (f : PartState → PartState) : (s.onPart p f).dies = s.dies := rfl
@[simp] theorem onPart_units (s : State) (p : Part) (f : PartState → PartState) : (s.onPart p f).units = s.units := rfl
@[simp] theorem onPart_clusters (s : State) (p : Part) (f : PartState → PartState) : (s.onPart p f).clusters = s.clusters := rfl
@[simp] theorem onPart_tx (s : State) (p : Part) (f : PartState → PartState) : (s.onPart p f).tx = s.tx := rfl
@[simp] theorem onPart_answer (s : State) (p : Part) (f : PartState → PartState) : (s.onPart p f).answer = s.answer := rfl
@[simp] theorem onPart_answerPoison (s : State) (p : Part) (f : PartState → PartState) : (s.onPart p f).answerPoison = s.answerPoison := rfl
@[simp] theorem onPart_draws (s : State) (p : Part) (f : PartState → PartState) : (s.onPart p f).draws = s.draws := rfl
@[simp] theorem onPart_pending (s : State) (p : Part) (f : PartState → PartState) : (s.onPart p f).pending = s.pending := rfl

/-! onCtx -/
@[simp] theorem onCtx_hub (s : State) (p : Part) (k : Ctx) (f : RoundCtx → RoundCtx) : (s.onCtx p k f).hub = s.hub := rfl
@[simp] theorem onCtx_clk (s : State) (p : Part) (k : Ctx) (f : RoundCtx → RoundCtx) : (s.onCtx p k f).clk = s.clk := rfl
@[simp] theorem onCtx_pwr (s : State) (p : Part) (k : Ctx) (f : RoundCtx → RoundCtx) : (s.onCtx p k f).pwr = s.pwr := rfl
@[simp] theorem onCtx_rng (s : State) (p : Part) (k : Ctx) (f : RoundCtx → RoundCtx) : (s.onCtx p k f).rng = s.rng := rfl
@[simp] theorem onCtx_key (s : State) (p : Part) (k : Ctx) (f : RoundCtx → RoundCtx) : (s.onCtx p k f).key = s.key := rfl
@[simp] theorem onCtx_spi (s : State) (p : Part) (k : Ctx) (f : RoundCtx → RoundCtx) : (s.onCtx p k f).spi = s.spi := rfl
@[simp] theorem onCtx_evr (s : State) (p : Part) (k : Ctx) (f : RoundCtx → RoundCtx) : (s.onCtx p k f).evr = s.evr := rfl
@[simp] theorem onCtx_tst (s : State) (p : Part) (k : Ctx) (f : RoundCtx → RoundCtx) : (s.onCtx p k f).tst = s.tst := rfl
@[simp] theorem onCtx_sys (s : State) (p : Part) (k : Ctx) (f : RoundCtx → RoundCtx) : (s.onCtx p k f).sys = s.sys := rfl
@[simp] theorem onCtx_rxt (s : State) (p : Part) (k : Ctx) (f : RoundCtx → RoundCtx) : (s.onCtx p k f).rxt = s.rxt := rfl
@[simp] theorem onCtx_ports (s : State) (p : Part) (k : Ctx) (f : RoundCtx → RoundCtx) : (s.onCtx p k f).ports = s.ports := rfl
@[simp] theorem onCtx_mem (s : State) (p : Part) (k : Ctx) (f : RoundCtx → RoundCtx) : (s.onCtx p k f).mem = s.mem := rfl
@[simp] theorem onCtx_pins (s : State) (p : Part) (k : Ctx) (f : RoundCtx → RoundCtx) : (s.onCtx p k f).pins = s.pins := rfl
@[simp] theorem onCtx_ucie (s : State) (p : Part) (k : Ctx) (f : RoundCtx → RoundCtx) : (s.onCtx p k f).ucie = s.ucie := rfl
@[simp] theorem onCtx_dies (s : State) (p : Part) (k : Ctx) (f : RoundCtx → RoundCtx) : (s.onCtx p k f).dies = s.dies := rfl
@[simp] theorem onCtx_units (s : State) (p : Part) (k : Ctx) (f : RoundCtx → RoundCtx) : (s.onCtx p k f).units = s.units := rfl
@[simp] theorem onCtx_clusters (s : State) (p : Part) (k : Ctx) (f : RoundCtx → RoundCtx) : (s.onCtx p k f).clusters = s.clusters := rfl
@[simp] theorem onCtx_tx (s : State) (p : Part) (k : Ctx) (f : RoundCtx → RoundCtx) : (s.onCtx p k f).tx = s.tx := rfl
@[simp] theorem onCtx_answer (s : State) (p : Part) (k : Ctx) (f : RoundCtx → RoundCtx) : (s.onCtx p k f).answer = s.answer := rfl
@[simp] theorem onCtx_answerPoison (s : State) (p : Part) (k : Ctx) (f : RoundCtx → RoundCtx) : (s.onCtx p k f).answerPoison = s.answerPoison := rfl
@[simp] theorem onCtx_draws (s : State) (p : Part) (k : Ctx) (f : RoundCtx → RoundCtx) : (s.onCtx p k f).draws = s.draws := rfl
@[simp] theorem onCtx_pending (s : State) (p : Part) (k : Ctx) (f : RoundCtx → RoundCtx) : (s.onCtx p k f).pending = s.pending := rfl

/-! onMem -/
@[simp] theorem onMem_hub (s : State) (p : Part) (f : PartMem → PartMem) : (s.onMem p f).hub = s.hub := rfl
@[simp] theorem onMem_clk (s : State) (p : Part) (f : PartMem → PartMem) : (s.onMem p f).clk = s.clk := rfl
@[simp] theorem onMem_pwr (s : State) (p : Part) (f : PartMem → PartMem) : (s.onMem p f).pwr = s.pwr := rfl
@[simp] theorem onMem_rng (s : State) (p : Part) (f : PartMem → PartMem) : (s.onMem p f).rng = s.rng := rfl
@[simp] theorem onMem_key (s : State) (p : Part) (f : PartMem → PartMem) : (s.onMem p f).key = s.key := rfl
@[simp] theorem onMem_spi (s : State) (p : Part) (f : PartMem → PartMem) : (s.onMem p f).spi = s.spi := rfl
@[simp] theorem onMem_evr (s : State) (p : Part) (f : PartMem → PartMem) : (s.onMem p f).evr = s.evr := rfl
@[simp] theorem onMem_tst (s : State) (p : Part) (f : PartMem → PartMem) : (s.onMem p f).tst = s.tst := rfl
@[simp] theorem onMem_sys (s : State) (p : Part) (f : PartMem → PartMem) : (s.onMem p f).sys = s.sys := rfl
@[simp] theorem onMem_rxt (s : State) (p : Part) (f : PartMem → PartMem) : (s.onMem p f).rxt = s.rxt := rfl
@[simp] theorem onMem_ports (s : State) (p : Part) (f : PartMem → PartMem) : (s.onMem p f).ports = s.ports := rfl
@[simp] theorem onMem_mem (s : State) (p : Part) (f : PartMem → PartMem) : (s.onMem p f).mem = s.mem := rfl
@[simp] theorem onMem_pins (s : State) (p : Part) (f : PartMem → PartMem) : (s.onMem p f).pins = s.pins := rfl
@[simp] theorem onMem_ucie (s : State) (p : Part) (f : PartMem → PartMem) : (s.onMem p f).ucie = s.ucie := rfl
@[simp] theorem onMem_dies (s : State) (p : Part) (f : PartMem → PartMem) : (s.onMem p f).dies = s.dies := rfl
@[simp] theorem onMem_units (s : State) (p : Part) (f : PartMem → PartMem) : (s.onMem p f).units = s.units := rfl
@[simp] theorem onMem_clusters (s : State) (p : Part) (f : PartMem → PartMem) : (s.onMem p f).clusters = s.clusters := rfl
@[simp] theorem onMem_tx (s : State) (p : Part) (f : PartMem → PartMem) : (s.onMem p f).tx = s.tx := rfl
@[simp] theorem onMem_answer (s : State) (p : Part) (f : PartMem → PartMem) : (s.onMem p f).answer = s.answer := rfl
@[simp] theorem onMem_answerPoison (s : State) (p : Part) (f : PartMem → PartMem) : (s.onMem p f).answerPoison = s.answerPoison := rfl
@[simp] theorem onMem_draws (s : State) (p : Part) (f : PartMem → PartMem) : (s.onMem p f).draws = s.draws := rfl
@[simp] theorem onMem_pending (s : State) (p : Part) (f : PartMem → PartMem) : (s.onMem p f).pending = s.pending := rfl

/-! onImg -/
@[simp] theorem onImg_hub (s : State) (p : Part) (f : PartImage → PartImage) : (s.onImg p f).hub = s.hub := rfl
@[simp] theorem onImg_clk (s : State) (p : Part) (f : PartImage → PartImage) : (s.onImg p f).clk = s.clk := rfl
@[simp] theorem onImg_pwr (s : State) (p : Part) (f : PartImage → PartImage) : (s.onImg p f).pwr = s.pwr := rfl
@[simp] theorem onImg_rng (s : State) (p : Part) (f : PartImage → PartImage) : (s.onImg p f).rng = s.rng := rfl
@[simp] theorem onImg_key (s : State) (p : Part) (f : PartImage → PartImage) : (s.onImg p f).key = s.key := rfl
@[simp] theorem onImg_spi (s : State) (p : Part) (f : PartImage → PartImage) : (s.onImg p f).spi = s.spi := rfl
@[simp] theorem onImg_evr (s : State) (p : Part) (f : PartImage → PartImage) : (s.onImg p f).evr = s.evr := rfl
@[simp] theorem onImg_tst (s : State) (p : Part) (f : PartImage → PartImage) : (s.onImg p f).tst = s.tst := rfl
@[simp] theorem onImg_sys (s : State) (p : Part) (f : PartImage → PartImage) : (s.onImg p f).sys = s.sys := rfl
@[simp] theorem onImg_rxt (s : State) (p : Part) (f : PartImage → PartImage) : (s.onImg p f).rxt = s.rxt := rfl
@[simp] theorem onImg_ports (s : State) (p : Part) (f : PartImage → PartImage) : (s.onImg p f).ports = s.ports := rfl
@[simp] theorem onImg_mem (s : State) (p : Part) (f : PartImage → PartImage) : (s.onImg p f).mem = s.mem := rfl
@[simp] theorem onImg_pins (s : State) (p : Part) (f : PartImage → PartImage) : (s.onImg p f).pins = s.pins := rfl
@[simp] theorem onImg_ucie (s : State) (p : Part) (f : PartImage → PartImage) : (s.onImg p f).ucie = s.ucie := rfl
@[simp] theorem onImg_dies (s : State) (p : Part) (f : PartImage → PartImage) : (s.onImg p f).dies = s.dies := rfl
@[simp] theorem onImg_units (s : State) (p : Part) (f : PartImage → PartImage) : (s.onImg p f).units = s.units := rfl
@[simp] theorem onImg_clusters (s : State) (p : Part) (f : PartImage → PartImage) : (s.onImg p f).clusters = s.clusters := rfl
@[simp] theorem onImg_tx (s : State) (p : Part) (f : PartImage → PartImage) : (s.onImg p f).tx = s.tx := rfl
@[simp] theorem onImg_answer (s : State) (p : Part) (f : PartImage → PartImage) : (s.onImg p f).answer = s.answer := rfl
@[simp] theorem onImg_answerPoison (s : State) (p : Part) (f : PartImage → PartImage) : (s.onImg p f).answerPoison = s.answerPoison := rfl
@[simp] theorem onImg_draws (s : State) (p : Part) (f : PartImage → PartImage) : (s.onImg p f).draws = s.draws := rfl
@[simp] theorem onImg_pending (s : State) (p : Part) (f : PartImage → PartImage) : (s.onImg p f).pending = s.pending := rfl

/-! onTwin -/
@[simp] theorem onTwin_hub (s : State) (p : Part) (f : TwinState → TwinState) : (s.onTwin p f).hub = s.hub := rfl
@[simp] theorem onTwin_clk (s : State) (p : Part) (f : TwinState → TwinState) : (s.onTwin p f).clk = s.clk := rfl
@[simp] theorem onTwin_pwr (s : State) (p : Part) (f : TwinState → TwinState) : (s.onTwin p f).pwr = s.pwr := rfl
@[simp] theorem onTwin_rng (s : State) (p : Part) (f : TwinState → TwinState) : (s.onTwin p f).rng = s.rng := rfl
@[simp] theorem onTwin_key (s : State) (p : Part) (f : TwinState → TwinState) : (s.onTwin p f).key = s.key := rfl
@[simp] theorem onTwin_spi (s : State) (p : Part) (f : TwinState → TwinState) : (s.onTwin p f).spi = s.spi := rfl
@[simp] theorem onTwin_evr (s : State) (p : Part) (f : TwinState → TwinState) : (s.onTwin p f).evr = s.evr := rfl
@[simp] theorem onTwin_tst (s : State) (p : Part) (f : TwinState → TwinState) : (s.onTwin p f).tst = s.tst := rfl
@[simp] theorem onTwin_sys (s : State) (p : Part) (f : TwinState → TwinState) : (s.onTwin p f).sys = s.sys := rfl
@[simp] theorem onTwin_rxt (s : State) (p : Part) (f : TwinState → TwinState) : (s.onTwin p f).rxt = s.rxt := rfl
@[simp] theorem onTwin_ports (s : State) (p : Part) (f : TwinState → TwinState) : (s.onTwin p f).ports = s.ports := rfl
@[simp] theorem onTwin_mem (s : State) (p : Part) (f : TwinState → TwinState) : (s.onTwin p f).mem = s.mem := rfl
@[simp] theorem onTwin_pins (s : State) (p : Part) (f : TwinState → TwinState) : (s.onTwin p f).pins = s.pins := rfl
@[simp] theorem onTwin_ucie (s : State) (p : Part) (f : TwinState → TwinState) : (s.onTwin p f).ucie = s.ucie := rfl
@[simp] theorem onTwin_dies (s : State) (p : Part) (f : TwinState → TwinState) : (s.onTwin p f).dies = s.dies := rfl
@[simp] theorem onTwin_units (s : State) (p : Part) (f : TwinState → TwinState) : (s.onTwin p f).units = s.units := rfl
@[simp] theorem onTwin_clusters (s : State) (p : Part) (f : TwinState → TwinState) : (s.onTwin p f).clusters = s.clusters := rfl
@[simp] theorem onTwin_tx (s : State) (p : Part) (f : TwinState → TwinState) : (s.onTwin p f).tx = s.tx := rfl
@[simp] theorem onTwin_answer (s : State) (p : Part) (f : TwinState → TwinState) : (s.onTwin p f).answer = s.answer := rfl
@[simp] theorem onTwin_answerPoison (s : State) (p : Part) (f : TwinState → TwinState) : (s.onTwin p f).answerPoison = s.answerPoison := rfl
@[simp] theorem onTwin_draws (s : State) (p : Part) (f : TwinState → TwinState) : (s.onTwin p f).draws = s.draws := rfl
@[simp] theorem onTwin_pending (s : State) (p : Part) (f : TwinState → TwinState) : (s.onTwin p f).pending = s.pending := rfl

/-! onRx -/
@[simp] theorem onRx_hub (s : State) (p : Part) (f : PartRxt → PartRxt) : (s.onRx p f).hub = s.hub := rfl
@[simp] theorem onRx_clk (s : State) (p : Part) (f : PartRxt → PartRxt) : (s.onRx p f).clk = s.clk := rfl
@[simp] theorem onRx_pwr (s : State) (p : Part) (f : PartRxt → PartRxt) : (s.onRx p f).pwr = s.pwr := rfl
@[simp] theorem onRx_rng (s : State) (p : Part) (f : PartRxt → PartRxt) : (s.onRx p f).rng = s.rng := rfl
@[simp] theorem onRx_key (s : State) (p : Part) (f : PartRxt → PartRxt) : (s.onRx p f).key = s.key := rfl
@[simp] theorem onRx_spi (s : State) (p : Part) (f : PartRxt → PartRxt) : (s.onRx p f).spi = s.spi := rfl
@[simp] theorem onRx_evr (s : State) (p : Part) (f : PartRxt → PartRxt) : (s.onRx p f).evr = s.evr := rfl
@[simp] theorem onRx_tst (s : State) (p : Part) (f : PartRxt → PartRxt) : (s.onRx p f).tst = s.tst := rfl
@[simp] theorem onRx_sys (s : State) (p : Part) (f : PartRxt → PartRxt) : (s.onRx p f).sys = s.sys := rfl
@[simp] theorem onRx_rxt (s : State) (p : Part) (f : PartRxt → PartRxt) : (s.onRx p f).rxt = s.rxt := rfl
@[simp] theorem onRx_ports (s : State) (p : Part) (f : PartRxt → PartRxt) : (s.onRx p f).ports = s.ports := rfl
@[simp] theorem onRx_mem (s : State) (p : Part) (f : PartRxt → PartRxt) : (s.onRx p f).mem = s.mem := rfl
@[simp] theorem onRx_pins (s : State) (p : Part) (f : PartRxt → PartRxt) : (s.onRx p f).pins = s.pins := rfl
@[simp] theorem onRx_ucie (s : State) (p : Part) (f : PartRxt → PartRxt) : (s.onRx p f).ucie = s.ucie := rfl
@[simp] theorem onRx_dies (s : State) (p : Part) (f : PartRxt → PartRxt) : (s.onRx p f).dies = s.dies := rfl
@[simp] theorem onRx_units (s : State) (p : Part) (f : PartRxt → PartRxt) : (s.onRx p f).units = s.units := rfl
@[simp] theorem onRx_clusters (s : State) (p : Part) (f : PartRxt → PartRxt) : (s.onRx p f).clusters = s.clusters := rfl
@[simp] theorem onRx_tx (s : State) (p : Part) (f : PartRxt → PartRxt) : (s.onRx p f).tx = s.tx := rfl
@[simp] theorem onRx_answer (s : State) (p : Part) (f : PartRxt → PartRxt) : (s.onRx p f).answer = s.answer := rfl
@[simp] theorem onRx_answerPoison (s : State) (p : Part) (f : PartRxt → PartRxt) : (s.onRx p f).answerPoison = s.answerPoison := rfl
@[simp] theorem onRx_draws (s : State) (p : Part) (f : PartRxt → PartRxt) : (s.onRx p f).draws = s.draws := rfl
@[simp] theorem onRx_pending (s : State) (p : Part) (f : PartRxt → PartRxt) : (s.onRx p f).pending = s.pending := rfl

/-! onDie -/
@[simp] theorem onDie_hub (s : State) (d : Die) (f : DieState → DieState) : (s.onDie d f).hub = s.hub := rfl
@[simp] theorem onDie_clk (s : State) (d : Die) (f : DieState → DieState) : (s.onDie d f).clk = s.clk := rfl
@[simp] theorem onDie_pwr (s : State) (d : Die) (f : DieState → DieState) : (s.onDie d f).pwr = s.pwr := rfl
@[simp] theorem onDie_rng (s : State) (d : Die) (f : DieState → DieState) : (s.onDie d f).rng = s.rng := rfl
@[simp] theorem onDie_key (s : State) (d : Die) (f : DieState → DieState) : (s.onDie d f).key = s.key := rfl
@[simp] theorem onDie_spi (s : State) (d : Die) (f : DieState → DieState) : (s.onDie d f).spi = s.spi := rfl
@[simp] theorem onDie_evr (s : State) (d : Die) (f : DieState → DieState) : (s.onDie d f).evr = s.evr := rfl
@[simp] theorem onDie_tst (s : State) (d : Die) (f : DieState → DieState) : (s.onDie d f).tst = s.tst := rfl
@[simp] theorem onDie_sys (s : State) (d : Die) (f : DieState → DieState) : (s.onDie d f).sys = s.sys := rfl
@[simp] theorem onDie_rxt (s : State) (d : Die) (f : DieState → DieState) : (s.onDie d f).rxt = s.rxt := rfl
@[simp] theorem onDie_ports (s : State) (d : Die) (f : DieState → DieState) : (s.onDie d f).ports = s.ports := rfl
@[simp] theorem onDie_mem (s : State) (d : Die) (f : DieState → DieState) : (s.onDie d f).mem = s.mem := rfl
@[simp] theorem onDie_pins (s : State) (d : Die) (f : DieState → DieState) : (s.onDie d f).pins = s.pins := rfl
@[simp] theorem onDie_ucie (s : State) (d : Die) (f : DieState → DieState) : (s.onDie d f).ucie = s.ucie := rfl
@[simp] theorem onDie_parts (s : State) (d : Die) (f : DieState → DieState) : (s.onDie d f).parts = s.parts := rfl
@[simp] theorem onDie_units (s : State) (d : Die) (f : DieState → DieState) : (s.onDie d f).units = s.units := rfl
@[simp] theorem onDie_clusters (s : State) (d : Die) (f : DieState → DieState) : (s.onDie d f).clusters = s.clusters := rfl
@[simp] theorem onDie_tx (s : State) (d : Die) (f : DieState → DieState) : (s.onDie d f).tx = s.tx := rfl
@[simp] theorem onDie_answer (s : State) (d : Die) (f : DieState → DieState) : (s.onDie d f).answer = s.answer := rfl
@[simp] theorem onDie_answerPoison (s : State) (d : Die) (f : DieState → DieState) : (s.onDie d f).answerPoison = s.answerPoison := rfl
@[simp] theorem onDie_draws (s : State) (d : Die) (f : DieState → DieState) : (s.onDie d f).draws = s.draws := rfl
@[simp] theorem onDie_pending (s : State) (d : Die) (f : DieState → DieState) : (s.onDie d f).pending = s.pending := rfl

/-! onRegion -/
@[simp] theorem onRegion_hub (s : State) (d : Die) (r : Region) (f : RegionState → RegionState) : (s.onRegion d r f).hub = s.hub := rfl
@[simp] theorem onRegion_clk (s : State) (d : Die) (r : Region) (f : RegionState → RegionState) : (s.onRegion d r f).clk = s.clk := rfl
@[simp] theorem onRegion_pwr (s : State) (d : Die) (r : Region) (f : RegionState → RegionState) : (s.onRegion d r f).pwr = s.pwr := rfl
@[simp] theorem onRegion_rng (s : State) (d : Die) (r : Region) (f : RegionState → RegionState) : (s.onRegion d r f).rng = s.rng := rfl
@[simp] theorem onRegion_key (s : State) (d : Die) (r : Region) (f : RegionState → RegionState) : (s.onRegion d r f).key = s.key := rfl
@[simp] theorem onRegion_spi (s : State) (d : Die) (r : Region) (f : RegionState → RegionState) : (s.onRegion d r f).spi = s.spi := rfl
@[simp] theorem onRegion_evr (s : State) (d : Die) (r : Region) (f : RegionState → RegionState) : (s.onRegion d r f).evr = s.evr := rfl
@[simp] theorem onRegion_tst (s : State) (d : Die) (r : Region) (f : RegionState → RegionState) : (s.onRegion d r f).tst = s.tst := rfl
@[simp] theorem onRegion_sys (s : State) (d : Die) (r : Region) (f : RegionState → RegionState) : (s.onRegion d r f).sys = s.sys := rfl
@[simp] theorem onRegion_rxt (s : State) (d : Die) (r : Region) (f : RegionState → RegionState) : (s.onRegion d r f).rxt = s.rxt := rfl
@[simp] theorem onRegion_ports (s : State) (d : Die) (r : Region) (f : RegionState → RegionState) : (s.onRegion d r f).ports = s.ports := rfl
@[simp] theorem onRegion_mem (s : State) (d : Die) (r : Region) (f : RegionState → RegionState) : (s.onRegion d r f).mem = s.mem := rfl
@[simp] theorem onRegion_pins (s : State) (d : Die) (r : Region) (f : RegionState → RegionState) : (s.onRegion d r f).pins = s.pins := rfl
@[simp] theorem onRegion_ucie (s : State) (d : Die) (r : Region) (f : RegionState → RegionState) : (s.onRegion d r f).ucie = s.ucie := rfl
@[simp] theorem onRegion_parts (s : State) (d : Die) (r : Region) (f : RegionState → RegionState) : (s.onRegion d r f).parts = s.parts := rfl
@[simp] theorem onRegion_units (s : State) (d : Die) (r : Region) (f : RegionState → RegionState) : (s.onRegion d r f).units = s.units := rfl
@[simp] theorem onRegion_clusters (s : State) (d : Die) (r : Region) (f : RegionState → RegionState) : (s.onRegion d r f).clusters = s.clusters := rfl
@[simp] theorem onRegion_tx (s : State) (d : Die) (r : Region) (f : RegionState → RegionState) : (s.onRegion d r f).tx = s.tx := rfl
@[simp] theorem onRegion_answer (s : State) (d : Die) (r : Region) (f : RegionState → RegionState) : (s.onRegion d r f).answer = s.answer := rfl
@[simp] theorem onRegion_answerPoison (s : State) (d : Die) (r : Region) (f : RegionState → RegionState) : (s.onRegion d r f).answerPoison = s.answerPoison := rfl
@[simp] theorem onRegion_draws (s : State) (d : Die) (r : Region) (f : RegionState → RegionState) : (s.onRegion d r f).draws = s.draws := rfl
@[simp] theorem onRegion_pending (s : State) (d : Die) (r : Region) (f : RegionState → RegionState) : (s.onRegion d r f).pending = s.pending := rfl

/-! onHub -/
@[simp] theorem onHub_clk (s : State) (f : HubState → HubState) : (s.onHub f).clk = s.clk := rfl
@[simp] theorem onHub_pwr (s : State) (f : HubState → HubState) : (s.onHub f).pwr = s.pwr := rfl
@[simp] theorem onHub_rng (s : State) (f : HubState → HubState) : (s.onHub f).rng = s.rng := rfl
@[simp] theorem onHub_key (s : State) (f : HubState → HubState) : (s.onHub f).key = s.key := rfl
@[simp] theorem onHub_spi (s : State) (f : HubState → HubState) : (s.onHub f).spi = s.spi := rfl
@[simp] theorem onHub_evr (s : State) (f : HubState → HubState) : (s.onHub f).evr = s.evr := rfl
@[simp] theorem onHub_tst (s : State) (f : HubState → HubState) : (s.onHub f).tst = s.tst := rfl
@[simp] theorem onHub_sys (s : State) (f : HubState → HubState) : (s.onHub f).sys = s.sys := rfl
@[simp] theorem onHub_rxt (s : State) (f : HubState → HubState) : (s.onHub f).rxt = s.rxt := rfl
@[simp] theorem onHub_ports (s : State) (f : HubState → HubState) : (s.onHub f).ports = s.ports := rfl
@[simp] theorem onHub_mem (s : State) (f : HubState → HubState) : (s.onHub f).mem = s.mem := rfl
@[simp] theorem onHub_pins (s : State) (f : HubState → HubState) : (s.onHub f).pins = s.pins := rfl
@[simp] theorem onHub_ucie (s : State) (f : HubState → HubState) : (s.onHub f).ucie = s.ucie := rfl
@[simp] theorem onHub_dies (s : State) (f : HubState → HubState) : (s.onHub f).dies = s.dies := rfl
@[simp] theorem onHub_parts (s : State) (f : HubState → HubState) : (s.onHub f).parts = s.parts := rfl
@[simp] theorem onHub_units (s : State) (f : HubState → HubState) : (s.onHub f).units = s.units := rfl
@[simp] theorem onHub_clusters (s : State) (f : HubState → HubState) : (s.onHub f).clusters = s.clusters := rfl
@[simp] theorem onHub_tx (s : State) (f : HubState → HubState) : (s.onHub f).tx = s.tx := rfl
@[simp] theorem onHub_answer (s : State) (f : HubState → HubState) : (s.onHub f).answer = s.answer := rfl
@[simp] theorem onHub_answerPoison (s : State) (f : HubState → HubState) : (s.onHub f).answerPoison = s.answerPoison := rfl
@[simp] theorem onHub_draws (s : State) (f : HubState → HubState) : (s.onHub f).draws = s.draws := rfl
@[simp] theorem onHub_pending (s : State) (f : HubState → HubState) : (s.onHub f).pending = s.pending := rfl
@[simp] theorem onHub_hub (s : State) (f : HubState → HubState) : (s.onHub f).hub = f s.hub := rfl

/-! onClk -/
@[simp] theorem onClk_hub (s : State) (f : ClkState → ClkState) : (s.onClk f).hub = s.hub := rfl
@[simp] theorem onClk_pwr (s : State) (f : ClkState → ClkState) : (s.onClk f).pwr = s.pwr := rfl
@[simp] theorem onClk_rng (s : State) (f : ClkState → ClkState) : (s.onClk f).rng = s.rng := rfl
@[simp] theorem onClk_key (s : State) (f : ClkState → ClkState) : (s.onClk f).key = s.key := rfl
@[simp] theorem onClk_spi (s : State) (f : ClkState → ClkState) : (s.onClk f).spi = s.spi := rfl
@[simp] theorem onClk_evr (s : State) (f : ClkState → ClkState) : (s.onClk f).evr = s.evr := rfl
@[simp] theorem onClk_tst (s : State) (f : ClkState → ClkState) : (s.onClk f).tst = s.tst := rfl
@[simp] theorem onClk_sys (s : State) (f : ClkState → ClkState) : (s.onClk f).sys = s.sys := rfl
@[simp] theorem onClk_rxt (s : State) (f : ClkState → ClkState) : (s.onClk f).rxt = s.rxt := rfl
@[simp] theorem onClk_ports (s : State) (f : ClkState → ClkState) : (s.onClk f).ports = s.ports := rfl
@[simp] theorem onClk_mem (s : State) (f : ClkState → ClkState) : (s.onClk f).mem = s.mem := rfl
@[simp] theorem onClk_pins (s : State) (f : ClkState → ClkState) : (s.onClk f).pins = s.pins := rfl
@[simp] theorem onClk_ucie (s : State) (f : ClkState → ClkState) : (s.onClk f).ucie = s.ucie := rfl
@[simp] theorem onClk_dies (s : State) (f : ClkState → ClkState) : (s.onClk f).dies = s.dies := rfl
@[simp] theorem onClk_parts (s : State) (f : ClkState → ClkState) : (s.onClk f).parts = s.parts := rfl
@[simp] theorem onClk_units (s : State) (f : ClkState → ClkState) : (s.onClk f).units = s.units := rfl
@[simp] theorem onClk_clusters (s : State) (f : ClkState → ClkState) : (s.onClk f).clusters = s.clusters := rfl
@[simp] theorem onClk_tx (s : State) (f : ClkState → ClkState) : (s.onClk f).tx = s.tx := rfl
@[simp] theorem onClk_answer (s : State) (f : ClkState → ClkState) : (s.onClk f).answer = s.answer := rfl
@[simp] theorem onClk_answerPoison (s : State) (f : ClkState → ClkState) : (s.onClk f).answerPoison = s.answerPoison := rfl
@[simp] theorem onClk_draws (s : State) (f : ClkState → ClkState) : (s.onClk f).draws = s.draws := rfl
@[simp] theorem onClk_pending (s : State) (f : ClkState → ClkState) : (s.onClk f).pending = s.pending := rfl
@[simp] theorem onClk_clk (s : State) (f : ClkState → ClkState) : (s.onClk f).clk = f s.clk := rfl

/-! onPwr -/
@[simp] theorem onPwr_hub (s : State) (f : PwrState → PwrState) : (s.onPwr f).hub = s.hub := rfl
@[simp] theorem onPwr_clk (s : State) (f : PwrState → PwrState) : (s.onPwr f).clk = s.clk := rfl
@[simp] theorem onPwr_rng (s : State) (f : PwrState → PwrState) : (s.onPwr f).rng = s.rng := rfl
@[simp] theorem onPwr_key (s : State) (f : PwrState → PwrState) : (s.onPwr f).key = s.key := rfl
@[simp] theorem onPwr_spi (s : State) (f : PwrState → PwrState) : (s.onPwr f).spi = s.spi := rfl
@[simp] theorem onPwr_evr (s : State) (f : PwrState → PwrState) : (s.onPwr f).evr = s.evr := rfl
@[simp] theorem onPwr_tst (s : State) (f : PwrState → PwrState) : (s.onPwr f).tst = s.tst := rfl
@[simp] theorem onPwr_sys (s : State) (f : PwrState → PwrState) : (s.onPwr f).sys = s.sys := rfl
@[simp] theorem onPwr_rxt (s : State) (f : PwrState → PwrState) : (s.onPwr f).rxt = s.rxt := rfl
@[simp] theorem onPwr_ports (s : State) (f : PwrState → PwrState) : (s.onPwr f).ports = s.ports := rfl
@[simp] theorem onPwr_mem (s : State) (f : PwrState → PwrState) : (s.onPwr f).mem = s.mem := rfl
@[simp] theorem onPwr_pins (s : State) (f : PwrState → PwrState) : (s.onPwr f).pins = s.pins := rfl
@[simp] theorem onPwr_ucie (s : State) (f : PwrState → PwrState) : (s.onPwr f).ucie = s.ucie := rfl
@[simp] theorem onPwr_dies (s : State) (f : PwrState → PwrState) : (s.onPwr f).dies = s.dies := rfl
@[simp] theorem onPwr_parts (s : State) (f : PwrState → PwrState) : (s.onPwr f).parts = s.parts := rfl
@[simp] theorem onPwr_units (s : State) (f : PwrState → PwrState) : (s.onPwr f).units = s.units := rfl
@[simp] theorem onPwr_clusters (s : State) (f : PwrState → PwrState) : (s.onPwr f).clusters = s.clusters := rfl
@[simp] theorem onPwr_tx (s : State) (f : PwrState → PwrState) : (s.onPwr f).tx = s.tx := rfl
@[simp] theorem onPwr_answer (s : State) (f : PwrState → PwrState) : (s.onPwr f).answer = s.answer := rfl
@[simp] theorem onPwr_answerPoison (s : State) (f : PwrState → PwrState) : (s.onPwr f).answerPoison = s.answerPoison := rfl
@[simp] theorem onPwr_draws (s : State) (f : PwrState → PwrState) : (s.onPwr f).draws = s.draws := rfl
@[simp] theorem onPwr_pending (s : State) (f : PwrState → PwrState) : (s.onPwr f).pending = s.pending := rfl
@[simp] theorem onPwr_pwr (s : State) (f : PwrState → PwrState) : (s.onPwr f).pwr = f s.pwr := rfl

/-! onRng -/
@[simp] theorem onRng_hub (s : State) (f : RngState → RngState) : (s.onRng f).hub = s.hub := rfl
@[simp] theorem onRng_clk (s : State) (f : RngState → RngState) : (s.onRng f).clk = s.clk := rfl
@[simp] theorem onRng_pwr (s : State) (f : RngState → RngState) : (s.onRng f).pwr = s.pwr := rfl
@[simp] theorem onRng_key (s : State) (f : RngState → RngState) : (s.onRng f).key = s.key := rfl
@[simp] theorem onRng_spi (s : State) (f : RngState → RngState) : (s.onRng f).spi = s.spi := rfl
@[simp] theorem onRng_evr (s : State) (f : RngState → RngState) : (s.onRng f).evr = s.evr := rfl
@[simp] theorem onRng_tst (s : State) (f : RngState → RngState) : (s.onRng f).tst = s.tst := rfl
@[simp] theorem onRng_sys (s : State) (f : RngState → RngState) : (s.onRng f).sys = s.sys := rfl
@[simp] theorem onRng_rxt (s : State) (f : RngState → RngState) : (s.onRng f).rxt = s.rxt := rfl
@[simp] theorem onRng_ports (s : State) (f : RngState → RngState) : (s.onRng f).ports = s.ports := rfl
@[simp] theorem onRng_mem (s : State) (f : RngState → RngState) : (s.onRng f).mem = s.mem := rfl
@[simp] theorem onRng_pins (s : State) (f : RngState → RngState) : (s.onRng f).pins = s.pins := rfl
@[simp] theorem onRng_ucie (s : State) (f : RngState → RngState) : (s.onRng f).ucie = s.ucie := rfl
@[simp] theorem onRng_dies (s : State) (f : RngState → RngState) : (s.onRng f).dies = s.dies := rfl
@[simp] theorem onRng_parts (s : State) (f : RngState → RngState) : (s.onRng f).parts = s.parts := rfl
@[simp] theorem onRng_units (s : State) (f : RngState → RngState) : (s.onRng f).units = s.units := rfl
@[simp] theorem onRng_clusters (s : State) (f : RngState → RngState) : (s.onRng f).clusters = s.clusters := rfl
@[simp] theorem onRng_tx (s : State) (f : RngState → RngState) : (s.onRng f).tx = s.tx := rfl
@[simp] theorem onRng_answer (s : State) (f : RngState → RngState) : (s.onRng f).answer = s.answer := rfl
@[simp] theorem onRng_answerPoison (s : State) (f : RngState → RngState) : (s.onRng f).answerPoison = s.answerPoison := rfl
@[simp] theorem onRng_draws (s : State) (f : RngState → RngState) : (s.onRng f).draws = s.draws := rfl
@[simp] theorem onRng_pending (s : State) (f : RngState → RngState) : (s.onRng f).pending = s.pending := rfl
@[simp] theorem onRng_rng (s : State) (f : RngState → RngState) : (s.onRng f).rng = f s.rng := rfl

/-! onKey -/
@[simp] theorem onKey_hub (s : State) (f : KeyState → KeyState) : (s.onKey f).hub = s.hub := rfl
@[simp] theorem onKey_clk (s : State) (f : KeyState → KeyState) : (s.onKey f).clk = s.clk := rfl
@[simp] theorem onKey_pwr (s : State) (f : KeyState → KeyState) : (s.onKey f).pwr = s.pwr := rfl
@[simp] theorem onKey_rng (s : State) (f : KeyState → KeyState) : (s.onKey f).rng = s.rng := rfl
@[simp] theorem onKey_spi (s : State) (f : KeyState → KeyState) : (s.onKey f).spi = s.spi := rfl
@[simp] theorem onKey_evr (s : State) (f : KeyState → KeyState) : (s.onKey f).evr = s.evr := rfl
@[simp] theorem onKey_tst (s : State) (f : KeyState → KeyState) : (s.onKey f).tst = s.tst := rfl
@[simp] theorem onKey_sys (s : State) (f : KeyState → KeyState) : (s.onKey f).sys = s.sys := rfl
@[simp] theorem onKey_rxt (s : State) (f : KeyState → KeyState) : (s.onKey f).rxt = s.rxt := rfl
@[simp] theorem onKey_ports (s : State) (f : KeyState → KeyState) : (s.onKey f).ports = s.ports := rfl
@[simp] theorem onKey_mem (s : State) (f : KeyState → KeyState) : (s.onKey f).mem = s.mem := rfl
@[simp] theorem onKey_pins (s : State) (f : KeyState → KeyState) : (s.onKey f).pins = s.pins := rfl
@[simp] theorem onKey_ucie (s : State) (f : KeyState → KeyState) : (s.onKey f).ucie = s.ucie := rfl
@[simp] theorem onKey_dies (s : State) (f : KeyState → KeyState) : (s.onKey f).dies = s.dies := rfl
@[simp] theorem onKey_parts (s : State) (f : KeyState → KeyState) : (s.onKey f).parts = s.parts := rfl
@[simp] theorem onKey_units (s : State) (f : KeyState → KeyState) : (s.onKey f).units = s.units := rfl
@[simp] theorem onKey_clusters (s : State) (f : KeyState → KeyState) : (s.onKey f).clusters = s.clusters := rfl
@[simp] theorem onKey_tx (s : State) (f : KeyState → KeyState) : (s.onKey f).tx = s.tx := rfl
@[simp] theorem onKey_answer (s : State) (f : KeyState → KeyState) : (s.onKey f).answer = s.answer := rfl
@[simp] theorem onKey_answerPoison (s : State) (f : KeyState → KeyState) : (s.onKey f).answerPoison = s.answerPoison := rfl
@[simp] theorem onKey_draws (s : State) (f : KeyState → KeyState) : (s.onKey f).draws = s.draws := rfl
@[simp] theorem onKey_pending (s : State) (f : KeyState → KeyState) : (s.onKey f).pending = s.pending := rfl
@[simp] theorem onKey_key (s : State) (f : KeyState → KeyState) : (s.onKey f).key = f s.key := rfl

/-! onEvr -/
@[simp] theorem onEvr_hub (s : State) (f : EvrState → EvrState) : (s.onEvr f).hub = s.hub := rfl
@[simp] theorem onEvr_clk (s : State) (f : EvrState → EvrState) : (s.onEvr f).clk = s.clk := rfl
@[simp] theorem onEvr_pwr (s : State) (f : EvrState → EvrState) : (s.onEvr f).pwr = s.pwr := rfl
@[simp] theorem onEvr_rng (s : State) (f : EvrState → EvrState) : (s.onEvr f).rng = s.rng := rfl
@[simp] theorem onEvr_key (s : State) (f : EvrState → EvrState) : (s.onEvr f).key = s.key := rfl
@[simp] theorem onEvr_spi (s : State) (f : EvrState → EvrState) : (s.onEvr f).spi = s.spi := rfl
@[simp] theorem onEvr_tst (s : State) (f : EvrState → EvrState) : (s.onEvr f).tst = s.tst := rfl
@[simp] theorem onEvr_sys (s : State) (f : EvrState → EvrState) : (s.onEvr f).sys = s.sys := rfl
@[simp] theorem onEvr_rxt (s : State) (f : EvrState → EvrState) : (s.onEvr f).rxt = s.rxt := rfl
@[simp] theorem onEvr_ports (s : State) (f : EvrState → EvrState) : (s.onEvr f).ports = s.ports := rfl
@[simp] theorem onEvr_mem (s : State) (f : EvrState → EvrState) : (s.onEvr f).mem = s.mem := rfl
@[simp] theorem onEvr_pins (s : State) (f : EvrState → EvrState) : (s.onEvr f).pins = s.pins := rfl
@[simp] theorem onEvr_ucie (s : State) (f : EvrState → EvrState) : (s.onEvr f).ucie = s.ucie := rfl
@[simp] theorem onEvr_dies (s : State) (f : EvrState → EvrState) : (s.onEvr f).dies = s.dies := rfl
@[simp] theorem onEvr_parts (s : State) (f : EvrState → EvrState) : (s.onEvr f).parts = s.parts := rfl
@[simp] theorem onEvr_units (s : State) (f : EvrState → EvrState) : (s.onEvr f).units = s.units := rfl
@[simp] theorem onEvr_clusters (s : State) (f : EvrState → EvrState) : (s.onEvr f).clusters = s.clusters := rfl
@[simp] theorem onEvr_tx (s : State) (f : EvrState → EvrState) : (s.onEvr f).tx = s.tx := rfl
@[simp] theorem onEvr_answer (s : State) (f : EvrState → EvrState) : (s.onEvr f).answer = s.answer := rfl
@[simp] theorem onEvr_answerPoison (s : State) (f : EvrState → EvrState) : (s.onEvr f).answerPoison = s.answerPoison := rfl
@[simp] theorem onEvr_draws (s : State) (f : EvrState → EvrState) : (s.onEvr f).draws = s.draws := rfl
@[simp] theorem onEvr_pending (s : State) (f : EvrState → EvrState) : (s.onEvr f).pending = s.pending := rfl
@[simp] theorem onEvr_evr (s : State) (f : EvrState → EvrState) : (s.onEvr f).evr = f s.evr := rfl

/-! onSys -/
@[simp] theorem onSys_hub (s : State) (f : SysState → SysState) : (s.onSys f).hub = s.hub := rfl
@[simp] theorem onSys_clk (s : State) (f : SysState → SysState) : (s.onSys f).clk = s.clk := rfl
@[simp] theorem onSys_pwr (s : State) (f : SysState → SysState) : (s.onSys f).pwr = s.pwr := rfl
@[simp] theorem onSys_rng (s : State) (f : SysState → SysState) : (s.onSys f).rng = s.rng := rfl
@[simp] theorem onSys_key (s : State) (f : SysState → SysState) : (s.onSys f).key = s.key := rfl
@[simp] theorem onSys_spi (s : State) (f : SysState → SysState) : (s.onSys f).spi = s.spi := rfl
@[simp] theorem onSys_evr (s : State) (f : SysState → SysState) : (s.onSys f).evr = s.evr := rfl
@[simp] theorem onSys_tst (s : State) (f : SysState → SysState) : (s.onSys f).tst = s.tst := rfl
@[simp] theorem onSys_rxt (s : State) (f : SysState → SysState) : (s.onSys f).rxt = s.rxt := rfl
@[simp] theorem onSys_ports (s : State) (f : SysState → SysState) : (s.onSys f).ports = s.ports := rfl
@[simp] theorem onSys_mem (s : State) (f : SysState → SysState) : (s.onSys f).mem = s.mem := rfl
@[simp] theorem onSys_pins (s : State) (f : SysState → SysState) : (s.onSys f).pins = s.pins := rfl
@[simp] theorem onSys_ucie (s : State) (f : SysState → SysState) : (s.onSys f).ucie = s.ucie := rfl
@[simp] theorem onSys_dies (s : State) (f : SysState → SysState) : (s.onSys f).dies = s.dies := rfl
@[simp] theorem onSys_parts (s : State) (f : SysState → SysState) : (s.onSys f).parts = s.parts := rfl
@[simp] theorem onSys_units (s : State) (f : SysState → SysState) : (s.onSys f).units = s.units := rfl
@[simp] theorem onSys_clusters (s : State) (f : SysState → SysState) : (s.onSys f).clusters = s.clusters := rfl
@[simp] theorem onSys_tx (s : State) (f : SysState → SysState) : (s.onSys f).tx = s.tx := rfl
@[simp] theorem onSys_answer (s : State) (f : SysState → SysState) : (s.onSys f).answer = s.answer := rfl
@[simp] theorem onSys_answerPoison (s : State) (f : SysState → SysState) : (s.onSys f).answerPoison = s.answerPoison := rfl
@[simp] theorem onSys_draws (s : State) (f : SysState → SysState) : (s.onSys f).draws = s.draws := rfl
@[simp] theorem onSys_pending (s : State) (f : SysState → SysState) : (s.onSys f).pending = s.pending := rfl
@[simp] theorem onSys_sys (s : State) (f : SysState → SysState) : (s.onSys f).sys = f s.sys := rfl

/-! onRxt -/
@[simp] theorem onRxt_hub (s : State) (f : RxtState → RxtState) : (s.onRxt f).hub = s.hub := rfl
@[simp] theorem onRxt_clk (s : State) (f : RxtState → RxtState) : (s.onRxt f).clk = s.clk := rfl
@[simp] theorem onRxt_pwr (s : State) (f : RxtState → RxtState) : (s.onRxt f).pwr = s.pwr := rfl
@[simp] theorem onRxt_rng (s : State) (f : RxtState → RxtState) : (s.onRxt f).rng = s.rng := rfl
@[simp] theorem onRxt_key (s : State) (f : RxtState → RxtState) : (s.onRxt f).key = s.key := rfl
@[simp] theorem onRxt_spi (s : State) (f : RxtState → RxtState) : (s.onRxt f).spi = s.spi := rfl
@[simp] theorem onRxt_evr (s : State) (f : RxtState → RxtState) : (s.onRxt f).evr = s.evr := rfl
@[simp] theorem onRxt_tst (s : State) (f : RxtState → RxtState) : (s.onRxt f).tst = s.tst := rfl
@[simp] theorem onRxt_sys (s : State) (f : RxtState → RxtState) : (s.onRxt f).sys = s.sys := rfl
@[simp] theorem onRxt_ports (s : State) (f : RxtState → RxtState) : (s.onRxt f).ports = s.ports := rfl
@[simp] theorem onRxt_mem (s : State) (f : RxtState → RxtState) : (s.onRxt f).mem = s.mem := rfl
@[simp] theorem onRxt_pins (s : State) (f : RxtState → RxtState) : (s.onRxt f).pins = s.pins := rfl
@[simp] theorem onRxt_ucie (s : State) (f : RxtState → RxtState) : (s.onRxt f).ucie = s.ucie := rfl
@[simp] theorem onRxt_dies (s : State) (f : RxtState → RxtState) : (s.onRxt f).dies = s.dies := rfl
@[simp] theorem onRxt_parts (s : State) (f : RxtState → RxtState) : (s.onRxt f).parts = s.parts := rfl
@[simp] theorem onRxt_units (s : State) (f : RxtState → RxtState) : (s.onRxt f).units = s.units := rfl
@[simp] theorem onRxt_clusters (s : State) (f : RxtState → RxtState) : (s.onRxt f).clusters = s.clusters := rfl
@[simp] theorem onRxt_tx (s : State) (f : RxtState → RxtState) : (s.onRxt f).tx = s.tx := rfl
@[simp] theorem onRxt_answer (s : State) (f : RxtState → RxtState) : (s.onRxt f).answer = s.answer := rfl
@[simp] theorem onRxt_answerPoison (s : State) (f : RxtState → RxtState) : (s.onRxt f).answerPoison = s.answerPoison := rfl
@[simp] theorem onRxt_draws (s : State) (f : RxtState → RxtState) : (s.onRxt f).draws = s.draws := rfl
@[simp] theorem onRxt_pending (s : State) (f : RxtState → RxtState) : (s.onRxt f).pending = s.pending := rfl
@[simp] theorem onRxt_rxt (s : State) (f : RxtState → RxtState) : (s.onRxt f).rxt = f s.rxt := rfl

/-! onStore -/
@[simp] theorem onStore_hub (s : State) (f : MemState → MemState) : (s.onStore f).hub = s.hub := rfl
@[simp] theorem onStore_clk (s : State) (f : MemState → MemState) : (s.onStore f).clk = s.clk := rfl
@[simp] theorem onStore_pwr (s : State) (f : MemState → MemState) : (s.onStore f).pwr = s.pwr := rfl
@[simp] theorem onStore_rng (s : State) (f : MemState → MemState) : (s.onStore f).rng = s.rng := rfl
@[simp] theorem onStore_key (s : State) (f : MemState → MemState) : (s.onStore f).key = s.key := rfl
@[simp] theorem onStore_spi (s : State) (f : MemState → MemState) : (s.onStore f).spi = s.spi := rfl
@[simp] theorem onStore_evr (s : State) (f : MemState → MemState) : (s.onStore f).evr = s.evr := rfl
@[simp] theorem onStore_tst (s : State) (f : MemState → MemState) : (s.onStore f).tst = s.tst := rfl
@[simp] theorem onStore_sys (s : State) (f : MemState → MemState) : (s.onStore f).sys = s.sys := rfl
@[simp] theorem onStore_rxt (s : State) (f : MemState → MemState) : (s.onStore f).rxt = s.rxt := rfl
@[simp] theorem onStore_ports (s : State) (f : MemState → MemState) : (s.onStore f).ports = s.ports := rfl
@[simp] theorem onStore_pins (s : State) (f : MemState → MemState) : (s.onStore f).pins = s.pins := rfl
@[simp] theorem onStore_ucie (s : State) (f : MemState → MemState) : (s.onStore f).ucie = s.ucie := rfl
@[simp] theorem onStore_dies (s : State) (f : MemState → MemState) : (s.onStore f).dies = s.dies := rfl
@[simp] theorem onStore_parts (s : State) (f : MemState → MemState) : (s.onStore f).parts = s.parts := rfl
@[simp] theorem onStore_units (s : State) (f : MemState → MemState) : (s.onStore f).units = s.units := rfl
@[simp] theorem onStore_clusters (s : State) (f : MemState → MemState) : (s.onStore f).clusters = s.clusters := rfl
@[simp] theorem onStore_tx (s : State) (f : MemState → MemState) : (s.onStore f).tx = s.tx := rfl
@[simp] theorem onStore_answer (s : State) (f : MemState → MemState) : (s.onStore f).answer = s.answer := rfl
@[simp] theorem onStore_answerPoison (s : State) (f : MemState → MemState) : (s.onStore f).answerPoison = s.answerPoison := rfl
@[simp] theorem onStore_draws (s : State) (f : MemState → MemState) : (s.onStore f).draws = s.draws := rfl
@[simp] theorem onStore_pending (s : State) (f : MemState → MemState) : (s.onStore f).pending = s.pending := rfl
@[simp] theorem onStore_mem (s : State) (f : MemState → MemState) : (s.onStore f).mem = f s.mem := rfl

/-! onPins -/
@[simp] theorem onPins_hub (s : State) (f : PinState → PinState) : (s.onPins f).hub = s.hub := rfl
@[simp] theorem onPins_clk (s : State) (f : PinState → PinState) : (s.onPins f).clk = s.clk := rfl
@[simp] theorem onPins_pwr (s : State) (f : PinState → PinState) : (s.onPins f).pwr = s.pwr := rfl
@[simp] theorem onPins_rng (s : State) (f : PinState → PinState) : (s.onPins f).rng = s.rng := rfl
@[simp] theorem onPins_key (s : State) (f : PinState → PinState) : (s.onPins f).key = s.key := rfl
@[simp] theorem onPins_spi (s : State) (f : PinState → PinState) : (s.onPins f).spi = s.spi := rfl
@[simp] theorem onPins_evr (s : State) (f : PinState → PinState) : (s.onPins f).evr = s.evr := rfl
@[simp] theorem onPins_tst (s : State) (f : PinState → PinState) : (s.onPins f).tst = s.tst := rfl
@[simp] theorem onPins_sys (s : State) (f : PinState → PinState) : (s.onPins f).sys = s.sys := rfl
@[simp] theorem onPins_rxt (s : State) (f : PinState → PinState) : (s.onPins f).rxt = s.rxt := rfl
@[simp] theorem onPins_ports (s : State) (f : PinState → PinState) : (s.onPins f).ports = s.ports := rfl
@[simp] theorem onPins_mem (s : State) (f : PinState → PinState) : (s.onPins f).mem = s.mem := rfl
@[simp] theorem onPins_ucie (s : State) (f : PinState → PinState) : (s.onPins f).ucie = s.ucie := rfl
@[simp] theorem onPins_dies (s : State) (f : PinState → PinState) : (s.onPins f).dies = s.dies := rfl
@[simp] theorem onPins_parts (s : State) (f : PinState → PinState) : (s.onPins f).parts = s.parts := rfl
@[simp] theorem onPins_units (s : State) (f : PinState → PinState) : (s.onPins f).units = s.units := rfl
@[simp] theorem onPins_clusters (s : State) (f : PinState → PinState) : (s.onPins f).clusters = s.clusters := rfl
@[simp] theorem onPins_tx (s : State) (f : PinState → PinState) : (s.onPins f).tx = s.tx := rfl
@[simp] theorem onPins_answer (s : State) (f : PinState → PinState) : (s.onPins f).answer = s.answer := rfl
@[simp] theorem onPins_answerPoison (s : State) (f : PinState → PinState) : (s.onPins f).answerPoison = s.answerPoison := rfl
@[simp] theorem onPins_draws (s : State) (f : PinState → PinState) : (s.onPins f).draws = s.draws := rfl
@[simp] theorem onPins_pending (s : State) (f : PinState → PinState) : (s.onPins f).pending = s.pending := rfl
@[simp] theorem onPins_pins (s : State) (f : PinState → PinState) : (s.onPins f).pins = f s.pins := rfl

/-! onPort -/
@[simp] theorem onPort_hub (s : State) (q : RPort) (f : PortState → PortState) : (s.onPort q f).hub = s.hub := rfl
@[simp] theorem onPort_clk (s : State) (q : RPort) (f : PortState → PortState) : (s.onPort q f).clk = s.clk := rfl
@[simp] theorem onPort_pwr (s : State) (q : RPort) (f : PortState → PortState) : (s.onPort q f).pwr = s.pwr := rfl
@[simp] theorem onPort_rng (s : State) (q : RPort) (f : PortState → PortState) : (s.onPort q f).rng = s.rng := rfl
@[simp] theorem onPort_key (s : State) (q : RPort) (f : PortState → PortState) : (s.onPort q f).key = s.key := rfl
@[simp] theorem onPort_spi (s : State) (q : RPort) (f : PortState → PortState) : (s.onPort q f).spi = s.spi := rfl
@[simp] theorem onPort_evr (s : State) (q : RPort) (f : PortState → PortState) : (s.onPort q f).evr = s.evr := rfl
@[simp] theorem onPort_tst (s : State) (q : RPort) (f : PortState → PortState) : (s.onPort q f).tst = s.tst := rfl
@[simp] theorem onPort_sys (s : State) (q : RPort) (f : PortState → PortState) : (s.onPort q f).sys = s.sys := rfl
@[simp] theorem onPort_rxt (s : State) (q : RPort) (f : PortState → PortState) : (s.onPort q f).rxt = s.rxt := rfl
@[simp] theorem onPort_mem (s : State) (q : RPort) (f : PortState → PortState) : (s.onPort q f).mem = s.mem := rfl
@[simp] theorem onPort_pins (s : State) (q : RPort) (f : PortState → PortState) : (s.onPort q f).pins = s.pins := rfl
@[simp] theorem onPort_ucie (s : State) (q : RPort) (f : PortState → PortState) : (s.onPort q f).ucie = s.ucie := rfl
@[simp] theorem onPort_dies (s : State) (q : RPort) (f : PortState → PortState) : (s.onPort q f).dies = s.dies := rfl
@[simp] theorem onPort_parts (s : State) (q : RPort) (f : PortState → PortState) : (s.onPort q f).parts = s.parts := rfl
@[simp] theorem onPort_units (s : State) (q : RPort) (f : PortState → PortState) : (s.onPort q f).units = s.units := rfl
@[simp] theorem onPort_clusters (s : State) (q : RPort) (f : PortState → PortState) : (s.onPort q f).clusters = s.clusters := rfl
@[simp] theorem onPort_tx (s : State) (q : RPort) (f : PortState → PortState) : (s.onPort q f).tx = s.tx := rfl
@[simp] theorem onPort_answer (s : State) (q : RPort) (f : PortState → PortState) : (s.onPort q f).answer = s.answer := rfl
@[simp] theorem onPort_answerPoison (s : State) (q : RPort) (f : PortState → PortState) : (s.onPort q f).answerPoison = s.answerPoison := rfl
@[simp] theorem onPort_draws (s : State) (q : RPort) (f : PortState → PortState) : (s.onPort q f).draws = s.draws := rfl
@[simp] theorem onPort_pending (s : State) (q : RPort) (f : PortState → PortState) : (s.onPort q f).pending = s.pending := rfl

/-! onSub -/
@[simp] theorem onSub_hub (s : State) (q : RPort) (b : SubPort) (f : SubState → SubState) : (s.onSub q b f).hub = s.hub := rfl
@[simp] theorem onSub_clk (s : State) (q : RPort) (b : SubPort) (f : SubState → SubState) : (s.onSub q b f).clk = s.clk := rfl
@[simp] theorem onSub_pwr (s : State) (q : RPort) (b : SubPort) (f : SubState → SubState) : (s.onSub q b f).pwr = s.pwr := rfl
@[simp] theorem onSub_rng (s : State) (q : RPort) (b : SubPort) (f : SubState → SubState) : (s.onSub q b f).rng = s.rng := rfl
@[simp] theorem onSub_key (s : State) (q : RPort) (b : SubPort) (f : SubState → SubState) : (s.onSub q b f).key = s.key := rfl
@[simp] theorem onSub_spi (s : State) (q : RPort) (b : SubPort) (f : SubState → SubState) : (s.onSub q b f).spi = s.spi := rfl
@[simp] theorem onSub_evr (s : State) (q : RPort) (b : SubPort) (f : SubState → SubState) : (s.onSub q b f).evr = s.evr := rfl
@[simp] theorem onSub_tst (s : State) (q : RPort) (b : SubPort) (f : SubState → SubState) : (s.onSub q b f).tst = s.tst := rfl
@[simp] theorem onSub_sys (s : State) (q : RPort) (b : SubPort) (f : SubState → SubState) : (s.onSub q b f).sys = s.sys := rfl
@[simp] theorem onSub_rxt (s : State) (q : RPort) (b : SubPort) (f : SubState → SubState) : (s.onSub q b f).rxt = s.rxt := rfl
@[simp] theorem onSub_mem (s : State) (q : RPort) (b : SubPort) (f : SubState → SubState) : (s.onSub q b f).mem = s.mem := rfl
@[simp] theorem onSub_pins (s : State) (q : RPort) (b : SubPort) (f : SubState → SubState) : (s.onSub q b f).pins = s.pins := rfl
@[simp] theorem onSub_ucie (s : State) (q : RPort) (b : SubPort) (f : SubState → SubState) : (s.onSub q b f).ucie = s.ucie := rfl
@[simp] theorem onSub_dies (s : State) (q : RPort) (b : SubPort) (f : SubState → SubState) : (s.onSub q b f).dies = s.dies := rfl
@[simp] theorem onSub_parts (s : State) (q : RPort) (b : SubPort) (f : SubState → SubState) : (s.onSub q b f).parts = s.parts := rfl
@[simp] theorem onSub_units (s : State) (q : RPort) (b : SubPort) (f : SubState → SubState) : (s.onSub q b f).units = s.units := rfl
@[simp] theorem onSub_clusters (s : State) (q : RPort) (b : SubPort) (f : SubState → SubState) : (s.onSub q b f).clusters = s.clusters := rfl
@[simp] theorem onSub_tx (s : State) (q : RPort) (b : SubPort) (f : SubState → SubState) : (s.onSub q b f).tx = s.tx := rfl
@[simp] theorem onSub_answer (s : State) (q : RPort) (b : SubPort) (f : SubState → SubState) : (s.onSub q b f).answer = s.answer := rfl
@[simp] theorem onSub_answerPoison (s : State) (q : RPort) (b : SubPort) (f : SubState → SubState) : (s.onSub q b f).answerPoison = s.answerPoison := rfl
@[simp] theorem onSub_draws (s : State) (q : RPort) (b : SubPort) (f : SubState → SubState) : (s.onSub q b f).draws = s.draws := rfl
@[simp] theorem onSub_pending (s : State) (q : RPort) (b : SubPort) (f : SubState → SubState) : (s.onSub q b f).pending = s.pending := rfl

/-! onCluster -/
@[simp] theorem onCluster_hub (s : State) (d : Die) (c : Cluster) (f : ClusterRun → ClusterRun) : (s.onCluster d c f).hub = s.hub := rfl
@[simp] theorem onCluster_clk (s : State) (d : Die) (c : Cluster) (f : ClusterRun → ClusterRun) : (s.onCluster d c f).clk = s.clk := rfl
@[simp] theorem onCluster_pwr (s : State) (d : Die) (c : Cluster) (f : ClusterRun → ClusterRun) : (s.onCluster d c f).pwr = s.pwr := rfl
@[simp] theorem onCluster_rng (s : State) (d : Die) (c : Cluster) (f : ClusterRun → ClusterRun) : (s.onCluster d c f).rng = s.rng := rfl
@[simp] theorem onCluster_key (s : State) (d : Die) (c : Cluster) (f : ClusterRun → ClusterRun) : (s.onCluster d c f).key = s.key := rfl
@[simp] theorem onCluster_spi (s : State) (d : Die) (c : Cluster) (f : ClusterRun → ClusterRun) : (s.onCluster d c f).spi = s.spi := rfl
@[simp] theorem onCluster_evr (s : State) (d : Die) (c : Cluster) (f : ClusterRun → ClusterRun) : (s.onCluster d c f).evr = s.evr := rfl
@[simp] theorem onCluster_tst (s : State) (d : Die) (c : Cluster) (f : ClusterRun → ClusterRun) : (s.onCluster d c f).tst = s.tst := rfl
@[simp] theorem onCluster_sys (s : State) (d : Die) (c : Cluster) (f : ClusterRun → ClusterRun) : (s.onCluster d c f).sys = s.sys := rfl
@[simp] theorem onCluster_rxt (s : State) (d : Die) (c : Cluster) (f : ClusterRun → ClusterRun) : (s.onCluster d c f).rxt = s.rxt := rfl
@[simp] theorem onCluster_ports (s : State) (d : Die) (c : Cluster) (f : ClusterRun → ClusterRun) : (s.onCluster d c f).ports = s.ports := rfl
@[simp] theorem onCluster_mem (s : State) (d : Die) (c : Cluster) (f : ClusterRun → ClusterRun) : (s.onCluster d c f).mem = s.mem := rfl
@[simp] theorem onCluster_pins (s : State) (d : Die) (c : Cluster) (f : ClusterRun → ClusterRun) : (s.onCluster d c f).pins = s.pins := rfl
@[simp] theorem onCluster_ucie (s : State) (d : Die) (c : Cluster) (f : ClusterRun → ClusterRun) : (s.onCluster d c f).ucie = s.ucie := rfl
@[simp] theorem onCluster_dies (s : State) (d : Die) (c : Cluster) (f : ClusterRun → ClusterRun) : (s.onCluster d c f).dies = s.dies := rfl
@[simp] theorem onCluster_parts (s : State) (d : Die) (c : Cluster) (f : ClusterRun → ClusterRun) : (s.onCluster d c f).parts = s.parts := rfl
@[simp] theorem onCluster_units (s : State) (d : Die) (c : Cluster) (f : ClusterRun → ClusterRun) : (s.onCluster d c f).units = s.units := rfl
@[simp] theorem onCluster_tx (s : State) (d : Die) (c : Cluster) (f : ClusterRun → ClusterRun) : (s.onCluster d c f).tx = s.tx := rfl
@[simp] theorem onCluster_answer (s : State) (d : Die) (c : Cluster) (f : ClusterRun → ClusterRun) : (s.onCluster d c f).answer = s.answer := rfl
@[simp] theorem onCluster_answerPoison (s : State) (d : Die) (c : Cluster) (f : ClusterRun → ClusterRun) : (s.onCluster d c f).answerPoison = s.answerPoison := rfl
@[simp] theorem onCluster_draws (s : State) (d : Die) (c : Cluster) (f : ClusterRun → ClusterRun) : (s.onCluster d c f).draws = s.draws := rfl
@[simp] theorem onCluster_pending (s : State) (d : Die) (c : Cluster) (f : ClusterRun → ClusterRun) : (s.onCluster d c f).pending = s.pending := rfl

/-! onUnit -/
@[simp] theorem onUnit_hub (s : State) (d : Die) (c : Cluster) (u : UnitIx) (f : UnitState → UnitState) : (s.onUnit d c u f).hub = s.hub := rfl
@[simp] theorem onUnit_clk (s : State) (d : Die) (c : Cluster) (u : UnitIx) (f : UnitState → UnitState) : (s.onUnit d c u f).clk = s.clk := rfl
@[simp] theorem onUnit_pwr (s : State) (d : Die) (c : Cluster) (u : UnitIx) (f : UnitState → UnitState) : (s.onUnit d c u f).pwr = s.pwr := rfl
@[simp] theorem onUnit_rng (s : State) (d : Die) (c : Cluster) (u : UnitIx) (f : UnitState → UnitState) : (s.onUnit d c u f).rng = s.rng := rfl
@[simp] theorem onUnit_key (s : State) (d : Die) (c : Cluster) (u : UnitIx) (f : UnitState → UnitState) : (s.onUnit d c u f).key = s.key := rfl
@[simp] theorem onUnit_spi (s : State) (d : Die) (c : Cluster) (u : UnitIx) (f : UnitState → UnitState) : (s.onUnit d c u f).spi = s.spi := rfl
@[simp] theorem onUnit_evr (s : State) (d : Die) (c : Cluster) (u : UnitIx) (f : UnitState → UnitState) : (s.onUnit d c u f).evr = s.evr := rfl
@[simp] theorem onUnit_tst (s : State) (d : Die) (c : Cluster) (u : UnitIx) (f : UnitState → UnitState) : (s.onUnit d c u f).tst = s.tst := rfl
@[simp] theorem onUnit_sys (s : State) (d : Die) (c : Cluster) (u : UnitIx) (f : UnitState → UnitState) : (s.onUnit d c u f).sys = s.sys := rfl
@[simp] theorem onUnit_rxt (s : State) (d : Die) (c : Cluster) (u : UnitIx) (f : UnitState → UnitState) : (s.onUnit d c u f).rxt = s.rxt := rfl
@[simp] theorem onUnit_ports (s : State) (d : Die) (c : Cluster) (u : UnitIx) (f : UnitState → UnitState) : (s.onUnit d c u f).ports = s.ports := rfl
@[simp] theorem onUnit_mem (s : State) (d : Die) (c : Cluster) (u : UnitIx) (f : UnitState → UnitState) : (s.onUnit d c u f).mem = s.mem := rfl
@[simp] theorem onUnit_pins (s : State) (d : Die) (c : Cluster) (u : UnitIx) (f : UnitState → UnitState) : (s.onUnit d c u f).pins = s.pins := rfl
@[simp] theorem onUnit_ucie (s : State) (d : Die) (c : Cluster) (u : UnitIx) (f : UnitState → UnitState) : (s.onUnit d c u f).ucie = s.ucie := rfl
@[simp] theorem onUnit_dies (s : State) (d : Die) (c : Cluster) (u : UnitIx) (f : UnitState → UnitState) : (s.onUnit d c u f).dies = s.dies := rfl
@[simp] theorem onUnit_parts (s : State) (d : Die) (c : Cluster) (u : UnitIx) (f : UnitState → UnitState) : (s.onUnit d c u f).parts = s.parts := rfl
@[simp] theorem onUnit_clusters (s : State) (d : Die) (c : Cluster) (u : UnitIx) (f : UnitState → UnitState) : (s.onUnit d c u f).clusters = s.clusters := rfl
@[simp] theorem onUnit_tx (s : State) (d : Die) (c : Cluster) (u : UnitIx) (f : UnitState → UnitState) : (s.onUnit d c u f).tx = s.tx := rfl
@[simp] theorem onUnit_answer (s : State) (d : Die) (c : Cluster) (u : UnitIx) (f : UnitState → UnitState) : (s.onUnit d c u f).answer = s.answer := rfl
@[simp] theorem onUnit_answerPoison (s : State) (d : Die) (c : Cluster) (u : UnitIx) (f : UnitState → UnitState) : (s.onUnit d c u f).answerPoison = s.answerPoison := rfl
@[simp] theorem onUnit_draws (s : State) (d : Die) (c : Cluster) (u : UnitIx) (f : UnitState → UnitState) : (s.onUnit d c u f).draws = s.draws := rfl
@[simp] theorem onUnit_pending (s : State) (d : Die) (c : Cluster) (u : UnitIx) (f : UnitState → UnitState) : (s.onUnit d c u f).pending = s.pending := rfl

/-! onConns -/
@[simp] theorem onConns_hub (s : State) (f : Nat → Conn → Conn) : (s.onConns f).hub = s.hub := rfl
@[simp] theorem onConns_clk (s : State) (f : Nat → Conn → Conn) : (s.onConns f).clk = s.clk := rfl
@[simp] theorem onConns_pwr (s : State) (f : Nat → Conn → Conn) : (s.onConns f).pwr = s.pwr := rfl
@[simp] theorem onConns_rng (s : State) (f : Nat → Conn → Conn) : (s.onConns f).rng = s.rng := rfl
@[simp] theorem onConns_key (s : State) (f : Nat → Conn → Conn) : (s.onConns f).key = s.key := rfl
@[simp] theorem onConns_spi (s : State) (f : Nat → Conn → Conn) : (s.onConns f).spi = s.spi := rfl
@[simp] theorem onConns_evr (s : State) (f : Nat → Conn → Conn) : (s.onConns f).evr = s.evr := rfl
@[simp] theorem onConns_tst (s : State) (f : Nat → Conn → Conn) : (s.onConns f).tst = s.tst := rfl
@[simp] theorem onConns_sys (s : State) (f : Nat → Conn → Conn) : (s.onConns f).sys = s.sys := rfl
@[simp] theorem onConns_ports (s : State) (f : Nat → Conn → Conn) : (s.onConns f).ports = s.ports := rfl
@[simp] theorem onConns_mem (s : State) (f : Nat → Conn → Conn) : (s.onConns f).mem = s.mem := rfl
@[simp] theorem onConns_pins (s : State) (f : Nat → Conn → Conn) : (s.onConns f).pins = s.pins := rfl
@[simp] theorem onConns_ucie (s : State) (f : Nat → Conn → Conn) : (s.onConns f).ucie = s.ucie := rfl
@[simp] theorem onConns_dies (s : State) (f : Nat → Conn → Conn) : (s.onConns f).dies = s.dies := rfl
@[simp] theorem onConns_parts (s : State) (f : Nat → Conn → Conn) : (s.onConns f).parts = s.parts := rfl
@[simp] theorem onConns_units (s : State) (f : Nat → Conn → Conn) : (s.onConns f).units = s.units := rfl
@[simp] theorem onConns_clusters (s : State) (f : Nat → Conn → Conn) : (s.onConns f).clusters = s.clusters := rfl
@[simp] theorem onConns_tx (s : State) (f : Nat → Conn → Conn) : (s.onConns f).tx = s.tx := rfl
@[simp] theorem onConns_answer (s : State) (f : Nat → Conn → Conn) : (s.onConns f).answer = s.answer := rfl
@[simp] theorem onConns_answerPoison (s : State) (f : Nat → Conn → Conn) : (s.onConns f).answerPoison = s.answerPoison := rfl
@[simp] theorem onConns_draws (s : State) (f : Nat → Conn → Conn) : (s.onConns f).draws = s.draws := rfl
@[simp] theorem onConns_pending (s : State) (f : Nat → Conn → Conn) : (s.onConns f).pending = s.pending := rfl

/-! onConn -/
@[simp] theorem onConn_hub (s : State) (n : Nat) (f : Conn → Conn) : (s.onConn n f).hub = s.hub := rfl
@[simp] theorem onConn_clk (s : State) (n : Nat) (f : Conn → Conn) : (s.onConn n f).clk = s.clk := rfl
@[simp] theorem onConn_pwr (s : State) (n : Nat) (f : Conn → Conn) : (s.onConn n f).pwr = s.pwr := rfl
@[simp] theorem onConn_rng (s : State) (n : Nat) (f : Conn → Conn) : (s.onConn n f).rng = s.rng := rfl
@[simp] theorem onConn_key (s : State) (n : Nat) (f : Conn → Conn) : (s.onConn n f).key = s.key := rfl
@[simp] theorem onConn_spi (s : State) (n : Nat) (f : Conn → Conn) : (s.onConn n f).spi = s.spi := rfl
@[simp] theorem onConn_evr (s : State) (n : Nat) (f : Conn → Conn) : (s.onConn n f).evr = s.evr := rfl
@[simp] theorem onConn_tst (s : State) (n : Nat) (f : Conn → Conn) : (s.onConn n f).tst = s.tst := rfl
@[simp] theorem onConn_sys (s : State) (n : Nat) (f : Conn → Conn) : (s.onConn n f).sys = s.sys := rfl
@[simp] theorem onConn_ports (s : State) (n : Nat) (f : Conn → Conn) : (s.onConn n f).ports = s.ports := rfl
@[simp] theorem onConn_mem (s : State) (n : Nat) (f : Conn → Conn) : (s.onConn n f).mem = s.mem := rfl
@[simp] theorem onConn_pins (s : State) (n : Nat) (f : Conn → Conn) : (s.onConn n f).pins = s.pins := rfl
@[simp] theorem onConn_ucie (s : State) (n : Nat) (f : Conn → Conn) : (s.onConn n f).ucie = s.ucie := rfl
@[simp] theorem onConn_dies (s : State) (n : Nat) (f : Conn → Conn) : (s.onConn n f).dies = s.dies := rfl
@[simp] theorem onConn_parts (s : State) (n : Nat) (f : Conn → Conn) : (s.onConn n f).parts = s.parts := rfl
@[simp] theorem onConn_units (s : State) (n : Nat) (f : Conn → Conn) : (s.onConn n f).units = s.units := rfl
@[simp] theorem onConn_clusters (s : State) (n : Nat) (f : Conn → Conn) : (s.onConn n f).clusters = s.clusters := rfl
@[simp] theorem onConn_tx (s : State) (n : Nat) (f : Conn → Conn) : (s.onConn n f).tx = s.tx := rfl
@[simp] theorem onConn_answer (s : State) (n : Nat) (f : Conn → Conn) : (s.onConn n f).answer = s.answer := rfl
@[simp] theorem onConn_answerPoison (s : State) (n : Nat) (f : Conn → Conn) : (s.onConn n f).answerPoison = s.answerPoison := rfl
@[simp] theorem onConn_draws (s : State) (n : Nat) (f : Conn → Conn) : (s.onConn n f).draws = s.draws := rfl
@[simp] theorem onConn_pending (s : State) (n : Nat) (f : Conn → Conn) : (s.onConn n f).pending = s.pending := rfl

/-! onHif and onFetched: on function 0 the hub, on a partition function its partition -/
@[simp] theorem onHif_clk (s : State) (fn : Fn) (f : HifSet → HifSet) : (s.onHif fn f).clk = s.clk := by cases fn <;> rfl
@[simp] theorem onHif_pwr (s : State) (fn : Fn) (f : HifSet → HifSet) : (s.onHif fn f).pwr = s.pwr := by cases fn <;> rfl
@[simp] theorem onHif_rng (s : State) (fn : Fn) (f : HifSet → HifSet) : (s.onHif fn f).rng = s.rng := by cases fn <;> rfl
@[simp] theorem onHif_key (s : State) (fn : Fn) (f : HifSet → HifSet) : (s.onHif fn f).key = s.key := by cases fn <;> rfl
@[simp] theorem onHif_spi (s : State) (fn : Fn) (f : HifSet → HifSet) : (s.onHif fn f).spi = s.spi := by cases fn <;> rfl
@[simp] theorem onHif_evr (s : State) (fn : Fn) (f : HifSet → HifSet) : (s.onHif fn f).evr = s.evr := by cases fn <;> rfl
@[simp] theorem onHif_tst (s : State) (fn : Fn) (f : HifSet → HifSet) : (s.onHif fn f).tst = s.tst := by cases fn <;> rfl
@[simp] theorem onHif_sys (s : State) (fn : Fn) (f : HifSet → HifSet) : (s.onHif fn f).sys = s.sys := by cases fn <;> rfl
@[simp] theorem onHif_rxt (s : State) (fn : Fn) (f : HifSet → HifSet) : (s.onHif fn f).rxt = s.rxt := by cases fn <;> rfl
@[simp] theorem onHif_ports (s : State) (fn : Fn) (f : HifSet → HifSet) : (s.onHif fn f).ports = s.ports := by cases fn <;> rfl
@[simp] theorem onHif_mem (s : State) (fn : Fn) (f : HifSet → HifSet) : (s.onHif fn f).mem = s.mem := by cases fn <;> rfl
@[simp] theorem onHif_pins (s : State) (fn : Fn) (f : HifSet → HifSet) : (s.onHif fn f).pins = s.pins := by cases fn <;> rfl
@[simp] theorem onHif_ucie (s : State) (fn : Fn) (f : HifSet → HifSet) : (s.onHif fn f).ucie = s.ucie := by cases fn <;> rfl
@[simp] theorem onHif_dies (s : State) (fn : Fn) (f : HifSet → HifSet) : (s.onHif fn f).dies = s.dies := by cases fn <;> rfl
@[simp] theorem onHif_units (s : State) (fn : Fn) (f : HifSet → HifSet) : (s.onHif fn f).units = s.units := by cases fn <;> rfl
@[simp] theorem onHif_clusters (s : State) (fn : Fn) (f : HifSet → HifSet) : (s.onHif fn f).clusters = s.clusters := by cases fn <;> rfl
@[simp] theorem onHif_tx (s : State) (fn : Fn) (f : HifSet → HifSet) : (s.onHif fn f).tx = s.tx := by cases fn <;> rfl
@[simp] theorem onHif_answer (s : State) (fn : Fn) (f : HifSet → HifSet) : (s.onHif fn f).answer = s.answer := by cases fn <;> rfl
@[simp] theorem onHif_answerPoison (s : State) (fn : Fn) (f : HifSet → HifSet) : (s.onHif fn f).answerPoison = s.answerPoison := by cases fn <;> rfl
@[simp] theorem onHif_draws (s : State) (fn : Fn) (f : HifSet → HifSet) : (s.onHif fn f).draws = s.draws := by cases fn <;> rfl
@[simp] theorem onHif_pending (s : State) (fn : Fn) (f : HifSet → HifSet) : (s.onHif fn f).pending = s.pending := by cases fn <;> rfl

@[simp] theorem onFetched_clk (s : State) (fn : Fn) (f : List (U32 × U8) → List (U32 × U8)) : (s.onFetched fn f).clk = s.clk := by cases fn <;> rfl
@[simp] theorem onFetched_pwr (s : State) (fn : Fn) (f : List (U32 × U8) → List (U32 × U8)) : (s.onFetched fn f).pwr = s.pwr := by cases fn <;> rfl
@[simp] theorem onFetched_rng (s : State) (fn : Fn) (f : List (U32 × U8) → List (U32 × U8)) : (s.onFetched fn f).rng = s.rng := by cases fn <;> rfl
@[simp] theorem onFetched_key (s : State) (fn : Fn) (f : List (U32 × U8) → List (U32 × U8)) : (s.onFetched fn f).key = s.key := by cases fn <;> rfl
@[simp] theorem onFetched_spi (s : State) (fn : Fn) (f : List (U32 × U8) → List (U32 × U8)) : (s.onFetched fn f).spi = s.spi := by cases fn <;> rfl
@[simp] theorem onFetched_evr (s : State) (fn : Fn) (f : List (U32 × U8) → List (U32 × U8)) : (s.onFetched fn f).evr = s.evr := by cases fn <;> rfl
@[simp] theorem onFetched_tst (s : State) (fn : Fn) (f : List (U32 × U8) → List (U32 × U8)) : (s.onFetched fn f).tst = s.tst := by cases fn <;> rfl
@[simp] theorem onFetched_sys (s : State) (fn : Fn) (f : List (U32 × U8) → List (U32 × U8)) : (s.onFetched fn f).sys = s.sys := by cases fn <;> rfl
@[simp] theorem onFetched_rxt (s : State) (fn : Fn) (f : List (U32 × U8) → List (U32 × U8)) : (s.onFetched fn f).rxt = s.rxt := by cases fn <;> rfl
@[simp] theorem onFetched_ports (s : State) (fn : Fn) (f : List (U32 × U8) → List (U32 × U8)) : (s.onFetched fn f).ports = s.ports := by cases fn <;> rfl
@[simp] theorem onFetched_mem (s : State) (fn : Fn) (f : List (U32 × U8) → List (U32 × U8)) : (s.onFetched fn f).mem = s.mem := by cases fn <;> rfl
@[simp] theorem onFetched_pins (s : State) (fn : Fn) (f : List (U32 × U8) → List (U32 × U8)) : (s.onFetched fn f).pins = s.pins := by cases fn <;> rfl
@[simp] theorem onFetched_ucie (s : State) (fn : Fn) (f : List (U32 × U8) → List (U32 × U8)) : (s.onFetched fn f).ucie = s.ucie := by cases fn <;> rfl
@[simp] theorem onFetched_dies (s : State) (fn : Fn) (f : List (U32 × U8) → List (U32 × U8)) : (s.onFetched fn f).dies = s.dies := by cases fn <;> rfl
@[simp] theorem onFetched_units (s : State) (fn : Fn) (f : List (U32 × U8) → List (U32 × U8)) : (s.onFetched fn f).units = s.units := by cases fn <;> rfl
@[simp] theorem onFetched_clusters (s : State) (fn : Fn) (f : List (U32 × U8) → List (U32 × U8)) : (s.onFetched fn f).clusters = s.clusters := by cases fn <;> rfl
@[simp] theorem onFetched_tx (s : State) (fn : Fn) (f : List (U32 × U8) → List (U32 × U8)) : (s.onFetched fn f).tx = s.tx := by cases fn <;> rfl
@[simp] theorem onFetched_answer (s : State) (fn : Fn) (f : List (U32 × U8) → List (U32 × U8)) : (s.onFetched fn f).answer = s.answer := by cases fn <;> rfl
@[simp] theorem onFetched_answerPoison (s : State) (fn : Fn) (f : List (U32 × U8) → List (U32 × U8)) : (s.onFetched fn f).answerPoison = s.answerPoison := by cases fn <;> rfl
@[simp] theorem onFetched_draws (s : State) (fn : Fn) (f : List (U32 × U8) → List (U32 × U8)) : (s.onFetched fn f).draws = s.draws := by cases fn <;> rfl
@[simp] theorem onFetched_pending (s : State) (fn : Fn) (f : List (U32 × U8) → List (U32 × U8)) : (s.onFetched fn f).pending = s.pending := by cases fn <;> rfl

/-! ### Elements of vectors -/

@[simp] theorem vput_same {α : Type} {n : Nat} (v : Vector α n) (i : Fin n) (x : α) : (vput v i x)[i.val] = x := by
  simp [vput]

theorem vput_other {α : Type} {n : Nat} (v : Vector α n) (i j : Fin n) (x : α) (h : j ≠ i) : (vput v i x)[j] = v[j] := by
  have : i.val ≠ j.val := fun e => h (Fin.ext e.symm)
  simp [vput, this]

@[simp] theorem vupd_same {α : Type} {n : Nat} (v : Vector α n) (i : Fin n) (f : α → α) : (vupd v i f)[i.val] = f v[i.val] := by
  simp [vupd]

theorem vupd_other {α : Type} {n : Nat} (v : Vector α n) (i j : Fin n) (f : α → α) (h : j ≠ i) : (vupd v i f)[j] = v[j] :=
  vput_other v i j _ h

/-! ### Partitions and contexts -/

@[simp] theorem part_onPart (s : State) (p : Part) (f : PartState → PartState) : (s.onPart p f).part p = f (s.part p) := by
  simp [onPart, part]

theorem part_onPart_other (s : State) (p q : Part) (f : PartState → PartState) (h : q ≠ p) : (s.onPart p f).part q = s.part q :=
  vupd_other s.parts p q f h

@[simp] theorem part_onCtx (s : State) (p : Part) (k : Ctx) (f : RoundCtx → RoundCtx) :
    (s.onCtx p k f).part p = { s.part p with ctxs := vupd (s.part p).ctxs k f } := by
  simp [onCtx]

@[simp] theorem ctx_onCtx (s : State) (p : Part) (k : Ctx) (f : RoundCtx → RoundCtx) : (s.onCtx p k f).ctx p k = f (s.ctx p k) := by
  simp [ctx]

theorem ctx_onCtx_other (s : State) (p : Part) (k j : Ctx) (f : RoundCtx → RoundCtx) (h : j ≠ k) :
    (s.onCtx p k f).ctx p j = s.ctx p j := by
  simp only [ctx, part_onCtx]; exact vupd_other _ k j f h

theorem part_onCtx_other (s : State) (p q : Part) (k : Ctx) (f : RoundCtx → RoundCtx) (h : q ≠ p) :
    (s.onCtx p k f).part q = s.part q := part_onPart_other s p q _ h

@[simp] theorem part_onTwin (s : State) (p : Part) (f : TwinState → TwinState) :
    (s.onTwin p f).part p = { s.part p with twin := f (s.part p).twin } := by simp [onTwin]
@[simp] theorem part_onImg (s : State) (p : Part) (f : PartImage → PartImage) :
    (s.onImg p f).part p = { s.part p with img := f (s.part p).img } := by simp [onImg]
@[simp] theorem part_onMem (s : State) (p : Part) (f : PartMem → PartMem) :
    (s.onMem p f).part p = { s.part p with mem := f (s.part p).mem } := by simp [onMem]
@[simp] theorem part_onRx (s : State) (p : Part) (f : PartRxt → PartRxt) :
    (s.onRx p f).part p = { s.part p with rxt := f (s.part p).rxt } := by simp [onRx]

@[simp] theorem hif_onHif (s : State) (fn : Fn) (f : HifSet → HifSet) : (s.onHif fn f).hif fn = f (s.hif fn) := by
  cases fn <;> simp [onHif, hif]

end Sys2Proof.Machine.State
end

