-- ==== Sys2Proof/Laws/Tables.lean ====
section
/-! SUPPORT. The laws of sparse tables: reading after a write, and the other keys. None of them needs the keys to rise. -/

namespace Sys2Proof.Machine

variable {α : Type}

@[simp] theorem tfind_tput_same (t : Tbl α) (k : Nat) (x : α) : tfind (tput t k x) k = some x := by
  induction t with
  | nil => simp [tput, tfind]
  | cons a t ih =>
    obtain ⟨j, v⟩ := a
    by_cases h : j = k
    · simp [tput, tfind, h]
    · by_cases g : k < j
      · simp [tput, tfind, h, g]
      · simp [tput, tfind, h, g, ih]

theorem tfind_tput_other (t : Tbl α) (k m : Nat) (x : α) (h : m ≠ k) : tfind (tput t k x) m = tfind t m := by
  induction t with
  | nil => simp [tput, tfind, Ne.symm h]
  | cons a t ih =>
    obtain ⟨j, v⟩ := a
    by_cases e : j = k
    · subst e; simp [tput, tfind, Ne.symm h]
    · by_cases g : k < j
      · simp [tput, tfind, e, g, Ne.symm h]
      · simp [tput, tfind, e, g, ih]

@[simp] theorem tget_tput_same (t : Tbl α) (k : Nat) (x d : α) : tget (tput t k x) k d = x := by simp [tget]

theorem tget_tput_other (t : Tbl α) (k m : Nat) (x d : α) (h : m ≠ k) : tget (tput t k x) m d = tget t m d := by
  simp [tget, tfind_tput_other t k m x h]

@[simp] theorem tget_tupd_same (t : Tbl α) (k : Nat) (d : α) (f : α → α) : tget (tupd t k d f) k d = f (tget t k d) := by
  simp [tupd]

theorem tget_tupd_other (t : Tbl α) (k m : Nat) (d : α) (f : α → α) (h : m ≠ k) : tget (tupd t k d f) m d = tget t m d :=
  tget_tput_other t k m _ d h

/-! ### Units, clusters and connections -/

theorem unitKey_inj {d e : Die} {c b : Cluster} {u v : UnitIx} (h : State.unitKey d c u = State.unitKey e b v) :
    d = e ∧ c = b ∧ u = v := by
  simp only [State.unitKey] at h
  have := c.isLt; have := b.isLt; have := u.isLt; have := v.isLt
  exact ⟨Fin.ext (by omega), Fin.ext (by omega), Fin.ext (by omega)⟩

theorem clusterKey_inj {d e : Die} {c b : Cluster} (h : State.clusterKey d c = State.clusterKey e b) : d = e ∧ c = b := by
  simp only [State.clusterKey] at h
  have := c.isLt; have := b.isLt
  exact ⟨Fin.ext (by omega), Fin.ext (by omega)⟩

@[simp] theorem unit_onUnit (s : State) (d : Die) (c : Cluster) (u : UnitIx) (f : UnitState → UnitState) :
    (s.onUnit d c u f).unit d c u = f (s.unit d c u) := by simp [State.onUnit, State.unit]

theorem unit_onUnit_other (s : State) (d e : Die) (c b : Cluster) (u v : UnitIx) (f : UnitState → UnitState)
    (h : e ≠ d ∨ b ≠ c ∨ v ≠ u) : (s.onUnit d c u f).unit e b v = s.unit e b v := by
  refine tget_tupd_other _ _ _ _ _ fun g => ?_
  obtain ⟨h1, h2, h3⟩ := unitKey_inj g
  rcases h with h | h | h <;> contradiction

@[simp] theorem cluster_onCluster (s : State) (d : Die) (c : Cluster) (f : ClusterRun → ClusterRun) :
    (s.onCluster d c f).cluster d c = f (s.cluster d c) := by simp [State.onCluster, State.cluster]

theorem cluster_onCluster_other (s : State) (d e : Die) (c b : Cluster) (f : ClusterRun → ClusterRun)
    (h : e ≠ d ∨ b ≠ c) : (s.onCluster d c f).cluster e b = s.cluster e b := by
  refine tget_tupd_other _ _ _ _ _ fun g => ?_
  obtain ⟨h1, h2⟩ := clusterKey_inj g
  rcases h with h | h <;> contradiction

@[simp] theorem conn_onConn (s : State) (n : Nat) (f : Conn → Conn) : (s.onConn n f).conn n = f (s.conn n) :=
  tget_tupd_same s.rxt.conns n {} f

theorem conn_onConn_other (s : State) (n m : Nat) (f : Conn → Conn) (h : m ≠ n) : (s.onConn n f).conn m = s.conn m := by
  simp only [State.onConn, State.conn, State.onRxt]; exact tget_tupd_other _ _ _ _ _ h

end Sys2Proof.Machine
end

