-- ==== Sys2Proof/Laws/Ops.lean ====
section
/-! SUPPORT. What the shared operations can do, once each: a fold over a list, a conditional change, a completion, the general
checks of a command, and an event. -/

namespace Sys2Proof.Machine

/-! ### Folds and conditional changes -/

@[simp] theorem when_true (f : State → State) (s : State) : when true f s = f s := rfl
@[simp] theorem when_false (f : State → State) (s : State) : when false f s = s := rfl
@[simp] theorem forAll_nil {α : Type} (f : α → State → State) (s : State) : forAll [] f s = s := rfl
@[simp] theorem forAll_cons {α : Type} (a : α) (l : List α) (f : α → State → State) (s : State) :
    forAll (a :: l) f s = forAll l f (f a s) := rfl

/-- A property that the start has and every change keeps holds at the end. -/
theorem forAll_keeps {α : Type} (P : State → Prop) (l : List α) (f : α → State → State) (s : State) (h : P s)
    (keep : ∀ a ∈ l, ∀ t, P t → P (f a t)) : P (forAll l f s) := by
  induction l generalizing s with
  | nil => exact h
  | cons a l ih => exact ih (f a s) (keep a (by simp) s h) fun b hb => keep b (List.mem_cons_of_mem _ hb)

theorem when_keeps (P : State → Prop) (b : Bool) (f : State → State) (s : State) (h : P s) (keep : P (f s)) : P (when b f s) := by
  cases b <;> assumption

/-! ### Completions -/

/-- A completion is posted on the command's function, or the command owes none (R267, R352). -/
theorem complete_cases (c : Cmd) (op : Nat) (st : Status) (aux result : Nat) (s : State) :
    complete c op st aux result s = postCompletion c op st aux result s ∨
    (∃ q, c.fn = .f0 q ∧ q ≠ s.hub.managing ∧ complete c op st aux result s = s) ∨
    ∃ p, c.fn = .part p ∧ (s.part p).twin.mute.contains (c.tag, BitVec.ofNat 8 op) = true ∧
      complete c op st aux result s = s.onTwin p fun w => { w with mute := w.mute.erase (c.tag, BitVec.ofNat 8 op) } := by
  obtain ⟨fn, tag⟩ := c
  cases fn with
  | f0 q =>
    by_cases h : q = s.hub.managing
    · exact .inl (by simp [complete, h])
    · exact .inr (.inl ⟨q, rfl, h, by simp [complete, h]⟩)
  | part p =>
    by_cases h : (s.part p).twin.mute.contains (tag, BitVec.ofNat 8 op) = true
    · exact .inr (.inr ⟨p, rfl, h, by simp only [complete, h, if_true]⟩)
    · exact .inl (by simp only [complete, h]; rfl)

/-- The posted completion is the last one that waits for the ring. -/
theorem postCompletion_pending (c : Cmd) (op : Nat) (st : Status) (aux result : Nat) (s : State) :
    ((postCompletion c op st aux result s).hif c.fn).cplPending
      = (s.hif c.fn).cplPending ++ [⟨c.tag, st, BitVec.ofNat 8 op, BitVec.ofNat 16 aux, BitVec.ofNat 64 result⟩] := by
  simp [postCompletion]

theorem complete_mem (c : Cmd) (op : Nat) (st : Status) (aux result : Nat) (s : State) : (complete c op st aux result s).mem = s.mem := by
  rcases complete_cases c op st aux result s with h | ⟨_, _, _, h⟩ | ⟨_, _, _, h⟩ <;> rw [h] <;> simp [postCompletion]

/-! ### The general checks (R358) -/

/-- A command of a partition function: no answer from an ABSENT one, a refusal, or its body. -/
theorem partCommand_body (c : Cmd) (op : Nat) (p : Part) (body : Part → State → State) (s : State) (h : c.fn = .part p)
    (ha : (s.part p).phase ≠ .absent) (hr : (s.part p).phase ≠ .removing) (hf : (s.part p).phase ≠ .fenced) :
    partCommand c op true body s = body p s := by
  simp [partCommand, h, ha, hr, hf]

theorem partCommand_refused (c : Cmd) (op : Nat) (p : Part) (body : Part → State → State) (s : State) (h : c.fn = .part p)
    (ha : (s.part p).phase ≠ .absent) : partCommand c op false body s = done c op .invalidCommand s := by
  simp [partCommand, h, ha]

theorem partCommand_fenced (c : Cmd) (op : Nat) (p : Part) (body : Part → State → State) (s : State) (h : c.fn = .part p)
    (hf : (s.part p).phase = .fenced) : partCommand c op true body s = done c op .fenced s := by
  simp [partCommand, h, hf]

/-- A command of function 0 of the managing port. -/
theorem f0Command_body (c : Cmd) (op : Nat) (body : State → State) (s : State) (h : c.fn = .f0 s.hub.managing) :
    f0Command c op true body s = body s := by
  simp [f0Command, h]

/-! ### Events (R357, R377) -/

/-- An event changes the queue of its function and the recorder, and nothing else. -/
theorem post_frame (fn : Fn) (cls : EventClass) (st : Status) (sev : Severity) (src : Nat) (det : U64) (s : State) :
    (post fn cls st sev src det s).mem = s.mem ∧ (post fn cls st sev src det s).units = s.units
      ∧ (post fn cls st sev src det s).clusters = s.clusters ∧ (post fn cls st sev src det s).sys = s.sys
      ∧ (post fn cls st sev src det s).key = s.key ∧ (post fn cls st sev src det s).rxt = s.rxt
      ∧ (post fn cls st sev src det s).pending = s.pending := by
  simp [post, record]

end Sys2Proof.Machine
end

