-- ==== Sys2Proof/Laws/Units.lean ====
section
/-! SUPPORT. What issuing a beat instruction and starting a cluster operation can do, once each (R182, R183, R190). -/

namespace Sys2Proof.Machine

/-- Issuing either waits, or faults on a word check 8 refuses, or runs the instruction's body and goes on unless it aborted. -/
theorem issue_cases (u : UnitId) (sync valid : Bool) (body : State → State) (s : State) :
    (¬ CanIssue s u sync ∧ issue u sync valid body s = .next s) ∨
    (CanIssue s u sync ∧ valid = false ∧ issue u sync valid body s = .fault .invalidWord) ∨
    (CanIssue s u sync ∧ valid = true ∧ ((body s).clusterOf u).aborted = true ∧ issue u sync valid body s = .next (body s)) ∨
    (CanIssue s u sync ∧ valid = true ∧ ((body s).clusterOf u).aborted = false ∧
      issue u sync valid body s = .next (onUnitOf u UnitState.next (body s))) := by
  by_cases h : CanIssue s u sync
  · have hr : (!unitReady s u || (sync && !(s.unitOf u).asyncs.isEmpty)) = false := by
      obtain ⟨h1, h2⟩ := h
      rw [h1]
      cases sync with
      | false => rfl
      | true => simp [h2 rfl]
    cases valid with
    | false => exact .inr (.inl ⟨h, rfl, by simp [issue, hr]⟩)
    | true =>
      cases ha : ((body s).clusterOf u).aborted with
      | true => exact .inr (.inr (.inl ⟨h, rfl, rfl, by simp [issue, hr, ha]⟩))
      | false => exact .inr (.inr (.inr ⟨h, rfl, rfl, by simp [issue, hr, ha]⟩))
  · refine .inl ⟨h, ?_⟩
    have hr : (!unitReady s u || (sync && !(s.unitOf u).asyncs.isEmpty)) = true := by
      by_cases h1 : unitReady s u = true
      · cases sync with
        | false => exact absurd ⟨h1, by simp⟩ h
        | true =>
          by_cases h2 : (s.unitOf u).asyncs = []
          · exact absurd ⟨h1, fun _ => h2⟩ h
          · simp [h1, h2]
      · simp [h1]
    simp only [issue, hr, if_true]

/-- Issuing changes memory only through the instruction's body. -/
theorem issue_mem {u : UnitId} {sync valid : Bool} {body : State → State} {s t : State} (h : issue u sync valid body s = .next t) :
    t.mem = s.mem ∨ t.mem = (body s).mem := by
  rcases issue_cases u sync valid body s with ⟨_, e⟩ | ⟨_, _, e⟩ | ⟨_, _, _, e⟩ | ⟨_, _, _, e⟩ <;> rw [e] at h
  · exact .inl (by cases h; rfl)
  · cases h
  · exact .inr (by cases h; rfl)
  · exact .inr (by cases h; rfl)

theorem forAll_onUnitOf_mem (l : List UnitId) (f : UnitState → UnitState) (s : State) :
    (forAll l (fun v => onUnitOf v f) s).mem = s.mem :=
  forAll_keeps (fun t => t.mem = s.mem) l _ s rfl fun _ _ _ h => h

/-- A cluster operation changes memory only through its effect, once all eight units have issued it. -/
theorem clusterOp_mem {u : UnitId} {f : OFmt} {valid : Bool} {effect : State → State} {s t : State}
    (h : clusterOp u f valid effect s = .next t) : t.mem = s.mem ∨ t.mem = (effect (started u s)).mem := by
  simp only [clusterOp] at h
  split at h
  · exact .inl (by cases h; rfl)
  · split at h
    · cases h
    · split at h
      · exact .inl (by cases h; rfl)
      · split at h
        · exact .inr (by cases h; rfl)
        · refine .inr ?_
          cases h
          exact forAll_onUnitOf_mem _ _ _

end Sys2Proof.Machine
end

