-- ==== Sys2Proof/Machine/Package.lean ====
section
/-! DEFINITION. The package as the board meets it (chapter 20): the ball map (R401 to R404), the rails with their windows (R406),
and what the rail monitors take for a tamper (R408). What a ball carries changes nothing in the state; events on the pins are
rows. -/

namespace Sys2Proof.Machine

/-- The rails of R406. -/
inductive Rail where
  | vddC (d : Die)
  | vddS | vddM | vddqM | vddaM | vddL | vddaL | vddhL | vddH | vddaPcie | vddio | vbat
  deriving DecidableEq, Repr

/-- A ball of a LPDDR5X site (R402): a pin of a channel, or one of the site's own. -/
inductive SitePin where
  | dq (channel bit : Nat)
  | rdqs (channel pair : Nat) (complement : Bool)
  | wck (channel : Nat) (complement : Bool)
  | ca (channel bit : Nat)
  | cs (channel rank : Nat)
  | ck (channel : Nat) (complement : Bool)
  | dramResetN
  | zq (n : Nat)
  | reserved
  deriving DecidableEq, Repr

/-- A pin of a lane, in the order of R403. -/
inductive LanePin where
  | txP | txN | rxP | rxN
  deriving DecidableEq, Repr

/-- What a ball carries (R401). -/
inductive Ball where
  | site (n : Nat) (pin : SitePin)
  | recel (port lane : Nat) (pin : LanePin)
  | pcie (port lane : Nat) (pin : LanePin)
  | control (signal : String)
  | rail (r : Rail)
  | vss
  | reserved
  deriving DecidableEq, Repr

def sitePins : List (Nat → SitePin) :=
  [(.rdqs · 0 false), (.rdqs · 0 true), (.rdqs · 1 false), (.rdqs · 1 true), (.wck · false), (.wck · true)]
    ++ (List.range 7).map (fun k c => .ca c k) ++ [(.cs · 0), (.cs · 1), (.ck · false), (.ck · true)]

/-- Position `i` of a site's 600 balls (R402). -/
def sitePin (i : Nat) : SitePin :=
  if i < 594 then
    if i % 33 < 16 then .dq (i / 33) (i % 33) else (sitePins.getD (i % 33 - 16) fun _ => .reserved) (i / 33)
  else if i = 594 then .dramResetN
  else if i < 597 then .zq (i - 595)
  else .reserved

def lanePin (k : Nat) : LanePin := [.txP, .txN, .rxP, .rxN].getD k .txP

/-- The control block X77–X78, Y05–Y24, row by row (R404). Balls of a range stand in row order. (DEDUCED, log entry 195) -/
def controlSignals : List String :=
  ["RESET_N", "MGR_SEL", "PCIE_A_PERST_N", "PCIE_B_PERST_N", "PCIE_A_REFCLK_P", "PCIE_A_REFCLK_N", "PCIE_B_REFCLK_P",
    "PCIE_B_REFCLK_N", "XO_IN_P", "XO_IN_N", "XTAL32_IN", "XTAL32_OUT", "I3C_SCL", "I3C_SDA", "AVS0_CLK", "AVS1_CLK",
    "AVS0_MDATA", "AVS1_MDATA", "AVS0_SDATA", "AVS1_SDATA"]
  ++ ["VR_ALERT_N", "FLOW_REQ", "SPI_CLK", "SPI_CS_N", "SPI_IO0", "SPI_IO1", "SPI_IO2", "SPI_IO3", "TCK", "TMS", "TDI", "TDO",
    "TRST_N", "THERMTRIP_N", "TEST_MODE"]

/-- The rail of a row of X57–X76 (R406). -/
def bandRail (y : Nat) : Rail :=
  if y ≤ 22 then .vddS else if y ≤ 34 then .vddM else if y ≤ 48 then .vddqM else if y ≤ 52 then .vddaM else if y ≤ 66 then .vddL
  else if y ≤ 76 then .vddaL else if y ≤ 80 then .vddhL else if y ≤ 88 then .vddH else if y ≤ 92 then .vddaPcie else .vddio

/-- A rail on the balls of a checkerboard whose coordinates add up to an even number, VSS on the others. -/
def checkerboard (r : Rail) (x y : Nat) : Ball := if (x + y) % 2 = 0 then .rail r else .vss

/-- The rows of the lanes at the lower and the upper edge: the order of the pins counts from the edge (R403). -/
def edgePin (y : Nat) : LanePin := lanePin (if y ≤ 4 then y - 1 else 102 - y)

/-- The ball at Xx Yy, coordinates from 1 to 102 (R401). -/
def ballAt (x y : Nat) : Ball :=
  let edge := decide (y ≤ 4 ∨ 99 ≤ y)
  let upper := if y ≤ 4 then 0 else 1
  if x ≤ 24 then (if y ≤ 100 then .site ((y - 1) / 25) (sitePin ((y - 1) % 25 * 24 + (24 - x))) else .vss)
  else if 79 ≤ x then (if y ≤ 100 then .site (4 + (y - 1) / 25) (sitePin ((y - 1) % 25 * 24 + (x - 79))) else .vss)
  else if edge then
    if 27 ≤ x ∧ x ≤ 58 then .recel (4 * upper + (x - 27) / 8) ((x - 27) % 8) (edgePin y)
    else if 61 ≤ x ∧ x ≤ 76 then .pcie upper (x - 61) (edgePin y)
    else .vss
  else if x ≤ 56 then checkerboard (.vddC (Fin.ofNat 8 ((x - 25) / 4))) x y
  else if x ≤ 76 then (if y ≤ 94 then checkerboard (bandRail y) x y else .vss)
  else if y ≤ 24 then match controlSignals[2 * (y - 5) + (x - 77)]? with
    | some n => .control n
    | none => .reserved
  else if y = 98 then .rail .vbat
  else .vss

/-! ### Rails (R406, R408) -/

/-- Ratings of a rail: nominal voltage in mV, the window's half width in parts per thousand of it, the largest current in µA, and
the tamper-high level in mV. -/
structure RailRating where
  nominal : Nat
  window : Nat
  current : Nat
  tamperHigh : Option Nat
  deriving DecidableEq, Repr

/-- R406. A core rail is nominal at the voltage the device has set. -/
def railRating (target : Nat) : Rail → RailRating
  | .vddC _ => ⟨target, 0, 70000000, some 850⟩
  | .vddS => ⟨750, 30, 85000000, some 850⟩
  | .vddM => ⟨750, 30, 55000000, some 850⟩
  | .vddqM => ⟨500, 30, 65000000, some 600⟩
  | .vddaM => ⟨1050, 30, 15000000, some 1180⟩
  | .vddL => ⟨750, 30, 60000000, some 850⟩
  | .vddaL => ⟨900, 20, 45000000, some 1000⟩
  | .vddhL => ⟨1200, 30, 12000000, some 1350⟩
  | .vddH => ⟨750, 30, 30000000, some 850⟩
  | .vddaPcie => ⟨900, 20, 12000000, some 1000⟩
  | .vddio => ⟨1800, 50, 3000000, some 2000⟩
  | .vbat => ⟨3000, 0, 3, none⟩

/-- The window of a rail at the ball, in mV. -/
def railWindow (target : Nat) (r : Rail) : Nat × Nat := match r with
  | .vddC _ => (target - 30, target + 30)
  | .vbat => (2500, 3600)
  | _ =>
    let x := railRating target r
    (x.nominal - x.nominal * x.window / 1000, x.nominal + x.nominal * x.window / 1000)

def railInWindow (target : Nat) (r : Rail) (mv : Nat) : Bool := decide ((railWindow target r).1 ≤ mv ∧ mv ≤ (railWindow target r).2)

/-- R408: a rail above its tamper-high level; or, while RESET_N is high, one that fell below 80% of its window's minimum and is
back above that minimum within 1 ms. -/
def railTamper (target : Nat) (r : Rail) (resetN : Bool) (lowest now : Nat) (within1ms : Bool) : Bool :=
  (match (railRating target r).tamperHigh with
    | some h => decide (h < now)
    | none => false)
  || resetN && within1ms && r != .vbat && decide (10 * lowest < 8 * (railWindow target r).1 ∧ (railWindow target r).1 ≤ now)

end Sys2Proof.Machine
end

