-- ==== Sys2Proof/Machine/Readback.lean ====
section
/-! DEFINITION. What a read of a register returns: the register maps of every chapter (R45, R63, R84, R109, R110, R153, R176, R177,
R214, R215, R247 to R249, R270, R271, R309, R310, R325, R344, R345, R369 to R372, R390, R391). The opcode table has no command for
a plain register read, which changes no state; the registers whose reads do (RNG_RAW, EVR_WINDOW0) have rows of their own. A write-only
register reads zero. -/

namespace Sys2Proof.Machine

/-- A register: its offset in its block, its bytes, and its value. -/
abbrev Reg := Nat × Nat × Nat

def r32 (off v : Nat) : Reg := (off, 4, v % 2 ^ 32)
/-- (DEDUCED, log entry 129) -/
def r64 (off v : Nat) : Reg := (off, 8, v % 2 ^ 64)

def bit (b : Bool) (i : Nat) : Nat := if b then 2 ^ i else 0

/-- A two's-complement field. -/
def signed (w : Nat) (x : Int) : Nat := (BitVec.ofInt w x).toNat

/-- Four registers that hold a digest, bytes 0 to 7 in the first. -/
def digestRegs (off : Nat) (x : U256) : List Reg := (List.range 4).map fun i => r64 (off + 8 * i) (word256 x i).toNat

/-- One bit for each index of a list that satisfies a predicate. -/
def maskOf (n : Nat) (f : Nat → Bool) : Nat := ((List.range n).map fun i => bit (f i) i).sum

def setsIn (v : List Bool) : Nat := maskOf v.length fun i => v.getD i false

/-! ### Configuration space (R2, R11, R346) -/

/-- A capability of a function's configuration space: R346 names these five and no others, so no function has MSI, MSI-X,
function-level reset or ASPM. -/
inductive PciCap where
  | powerManagement | pciExpress | ari | doe | ide
  deriving DecidableEq, Repr

/-- What the PCI Express capability of every function reports. -/
structure PcieCap where
  maxPayload : Nat := 512
  tenBitTags : Bool := true
  relaxedOrdering : Bool := true
  commonClock : Bool := true
  sris : Bool := true
  flr : Bool := false
  aspm : Bool := false
  deriving DecidableEq, Repr

/-- A function's type 0 header and capabilities. -/
structure ConfigSpace where
  vendor : U16 := 0x1EE3
  subsystemVendor : U16 := 0x1EE3
  device : U16
  subsystem : U16 := 0
  revision : U8 := 0
  classCode : BitVec 24 := 0x120000
  headerType : U8
  interruptPin : U8 := 0
  /-- Bytes of BAR0 with BAR1, 64-bit and not prefetchable. -/
  bar0 : Nat
  /-- Bytes of BAR2 with BAR3, 64-bit and prefetchable; none on function 0. -/
  bar2 : Option Nat
  caps : List PciCap
  pcie : PcieCap := {}
  deriving DecidableEq, Repr

/-- Function 0 manages; functions 1 to 8 are partitions 0 to 7 (R346). -/
def configSpace (f : Fin 9) : ConfigSpace :=
  if f.val = 0 then
    { device := 0x0250, headerType := 0x80, bar0 := 64 * 2 ^ 20, bar2 := none, caps := [.powerManagement, .pciExpress, .ari, .doe, .ide] }
  else
    { device := 0x0251, headerType := 0, bar0 := 2 ^ 20, bar2 := some (64 * 2 ^ 30), caps := [.powerManagement, .pciExpress, .ari] }

/-! ### HUB and the host-interface set (R369, R370) -/

/-- Milliseconds a link has been out of L0. -/
def outMillis (s : State) (l : PcieLink) : Nat := if l.inL0 then 0 else min ((s.sys.now - l.outSince) / 1250000) 65535

def linkReg (s : State) (q : PciePort) : Reg :=
  let l := s.hub.links[q]
  r64 (0x10 + 8 * q.val) (l.width % 32 ||| (l.rate % 8) <<< 5 ||| bit l.inL0 8 ||| bit l.sris 9 ||| bit l.ideSecure 10
    ||| outMillis s l <<< 16 ||| (l.capacity % 256) <<< 32)

def hubRegs (s : State) : List Reg :=
  let h := s.hub
  [r64 0 ((configSpace 0).vendor.toNat ||| (configSpace 0).device.toNat <<< 16 ||| bit h.lowLeakage 40),
   r32 8 (h.mgrSel.val ||| h.managing.val <<< 1 ||| h.lastClaim.code <<< 8 ||| (h.lostCpl % 65536) <<< 16), linkReg s 0, linkReg s 1]

def hifRegs (h : HifSet) : List Reg :=
  [r64 0x00 h.cmdqBase.toNat, r32 0x08 h.cmdqSize.toNat, r64 0x10 h.cplqBase.toNat, r32 0x18 h.cplqSize.toNat,
   r64 0x20 h.evqBase.toNat, r32 0x28 h.evqSize.toNat, r64 0x30 h.fltqBase.toNat, r32 0x38 h.fltqSize.toNat, r64 0x40 h.idxBase.toNat,
   r32 0x48 (bit h.enable 0), r32 0x4C (bit h.enabled 0 ||| bit h.fetchError 1 ||| bit h.fetchStalled 2 ||| h.lastStatus.code <<< 8),
   r32 0x50 h.outstanding, r32 0x54 h.evLost, r32 0x58 h.badAccess, r32 0x5C h.dbDiscards]

/-! ### CLK and PWR (R344, R345) -/

def RefState.code : RefState → Nat
  | .freeRun => 0 | .acquiring => 1 | .locked => 2 | .holdover => 3

/-- Seconds in the current holdover. -/
def holdoverTime (s : State) : Nat := if s.clk.ref = .holdover then (s.sys.now - s.clk.holdoverSince) / 1250000000 else 0

def pllStatus (c : ClkState) : Nat :=
  setsIn (c.plls.toList.map (·.onQ)) ||| setsIn (c.plls.toList.map (·.oneFailed)) <<< 8 ||| setsIn (c.plls.toList.map (·.dieFailed)) <<< 16
    ||| setsIn c.memFailed.toList <<< 24 ||| setsIn c.linkFailed.toList <<< 28

def clkRegs (s : State) : List Reg :=
  let c := s.clk
  [r32 0x00 (bit c.recover 0 ||| bit c.forceHoldover 1),
   r32 0x04 (c.ref.code ||| bit c.inputValid 2 ||| bit c.xoFail 3 ||| c.lane.toNat <<< 4), r32 0x08 c.freqOffset.toNat,
   r32 0x0C c.holdoverOffset.toNat, r32 0x10 (holdoverTime s), r32 0x14 c.lockLosses, r32 0x18 (pllStatus c),
   r32 0x1C (setsIn (s.hub.links.toList.map (·.refPresent)))]

/-- PWR_OP of a die. -/
def opReg (s : State) (d : Die) : Reg :=
  let o := s.pwr.ops[d]
  let floor := match s.ownerOf d with
    | some p => floorOf s p
    | none => 0
  let opMax := match s.ownerOf d with
    | some p => (s.part p).opMax
    | none => 7
  r32 (0x10 + 4 * d.val) (o.current ||| o.target <<< 4 ||| floor <<< 8 ||| (o.cap.getD (max opMax floor)) <<< 12 ||| bit o.transition 16
    ||| bit o.cap.isSome 17)

def tjValue (t : TjReading) : Nat := signed 16 t.tj ||| (t.valid % 32) <<< 16

def budgetOf (s : State) (p : Part) : Nat := match (s.part p).img.image with
  | some i => i.powerBudget
  | none => 0

def pwrRegs (s : State) : List Reg :=
  let w := s.pwr
  [r32 0x000 (w.state.code ||| w.stateReq <<< 4 ||| bit w.exiting 8), r32 0x004 w.stateReq, r32 0x008 w.package,
   r32 0x00C (w.tSoft ||| w.ballast <<< 8 ||| bit w.softRefused 16), r32 0x098 (signed 16 w.coolantT ||| bit w.coolantStale 16),
   r32 0x09C w.coolantI3c.toNat, r32 0x0A0 w.flow, r32 0x0A4 w.flowMin, r32 0x0A8 w.thermTarget, r32 0x0B0 w.model0.toNat,
   r32 0x0B4 w.model1.toNat, r32 0x0B8 w.horizon,
   r32 0x0BC (bit w.emThermal 0 ||| bit w.emSupply 1 ||| bit w.emClock 2 ||| w.emDie.toNat <<< 8), r32 0x0C0 w.throttleBeats]
  ++ (List.finRange 8).map (opReg s)
  ++ (List.finRange 8).map (fun p => r32 (0x30 + 4 * p.val) (w.partDraw[p] % 65536 ||| budgetOf s p <<< 16))
  ++ (List.finRange 17).map (fun d => r32 (if d.val < 8 then 0x50 + 4 * d.val else 0x70 + 4 * (d.val - 8)) (tjValue w.tj[d]))

/-! ### RNG, KEY, EVR, TST (R325, R309, R390, R391) -/

/-- The consumer classes of RNG_WAITING: 0 noise, 1 key generation, 2 link set-up. -/
def instClass (i : Fin 13) : Nat := if 5 ≤ i.val then 0 else if i.val = 0 then 1 else 2

def rngRegs (s : State) : List Reg :=
  let r := s.rng
  let live := 32 - ((List.range 32).filter fun c => r.cellMask.getLsbD c).length
  let waits (n : Nat) : Bool := r.waiting.any fun w => instClass w.inst == n
  [r32 0x00 (r.phase.code ||| bit r.ready 2 ||| r.lastFail <<< 8 ||| r.lastCell <<< 11 ||| live <<< 16), r32 0x04 r.readyTime,
   r64 0x08 r.windows, r32 0x10 r.healthyRun, r32 0x14 r.alarms,
   r64 0x18 (r.failRct ||| r.failApt <<< 16 ||| r.failLive <<< 32 ||| r.failLock <<< 48), r32 0x20 r.cellMask.toNat,
   r32 0x24 (bit (waits 0) 0 ||| bit (waits 1) 1 ||| bit (waits 2) 2 ||| bit (r.waiting.any fun w => w.use.isHost) 3),
   r64 0x28 ((List.range 13).map fun i => ((r.insts.toList.getD i {}).phase.toNat) <<< (2 * i)).sum, r64 0x30 r.reseeds,
   r32 0x38 (bit r.rawRead 0 ||| bit r.inject 1 ||| r.testLast.code <<< 8)]

def keyRegs (s : State) : List Reg :=
  let k := s.key
  [r32 0x00 (keyLc s), r64 0x08 k.fuses.uniqueId.toNat, r32 0x10 (keyTamper s).toNat, r32 0x14 (keyBoot s), r64 0x18 k.vbat.bootCount,
   r64 0x40 k.vbat.calTime, r32 0x48 (bit k.vbat.calSet 0 ||| bit k.vbat.oscFail 1),
   r32 0x74 (k.mbxState.toNat ||| k.mbxStatus.code <<< 8 ||| k.mbxLen <<< 16), r64 0x78 (setsIn (k.slots.toList.map (·.valid))),
   r64 0x80 k.slotCorrupt.toNat]
  ++ digestRegs 0x20 k.fwMeasure ++ digestRegs 0x50 (challenge s)

/-- The mailbox window: eight bytes at an offset. -/
def mbxWord (s : State) (off : Nat) : Nat := leNat ((List.range 8).map fun i => tget s.key.mbxData (off + i) 0)

def evrRegs (s : State) (q : PciePort) : List Reg :=
  let e := s.evr
  let x := e.ports[q]
  [r32 0x00 (bit e.compat 0), r32 0x04 (bit e.scanDone 0 ||| bit e.flashFail 1 ||| bit e.keptFull 2), r64 0x08 e.head, r64 0x10 (evrTail e),
   r32 0x18 e.kept.length, r32 0x1C e.dropped, r64 0x20 x.cursor, r64 0x28 x.latchedSeq, r64 0x30 (e.hours % 2 ^ 32 ||| e.powerCycles <<< 32)]
  ++ ((List.range 31).map fun i => r64 (0x108 + 8 * i) (x.window.getD (i + 1) 0).toNat)

def testReg (s : State) (d : Die) (r : Region) : Reg :=
  let t := ((s.dies[d]).regions[r]).test
  r64 (0x100 + 0x20 * d.val + 8 * r.val) (t.underTest.toNat ||| bit t.spareReady 4 ||| t.skipped <<< 8 ||| t.passes <<< 24
    ||| t.fails <<< 40 ||| t.lastFail.toNat <<< 48)

def tstRegs (s : State) : List Reg :=
  let t := s.tst
  let test := match t.running with
    | some r => r.test
    | none => t.last
  [r32 0x00 (bit t.running.isSome 0 ||| test <<< 8 ||| t.lastStatus.code <<< 16), r64 0x08 t.lastResult.toNat]
  ++ (List.finRange 8).flatMap fun d => (List.finRange 4).map fun r => testReg s d r

/-! ### SYS (R176, R270) -/

def sysRegs (s : State) : List Reg :=
  let y := s.sys
  let pend := y.instarPending
  [r32 0x000 y.member, r32 0x004 (bit y.master 0 ||| y.clockPort.val <<< 1 ||| y.clockSub.val <<< 4), r32 0x008 y.instar,
   r32 0x00C ((pend.map (·.value)).getD 0), r64 0x010 ((pend.map (·.beat)).getD 0), r32 0x018 y.chirpPorts.toNat,
   r32 0x01C (y.hops % 32 ||| (y.masterSeen % 1024) <<< 16), r32 0x020 (signed 32 (linkDelay y)),
   r64 0x028 (word128 y.upstreamIp 0).toNat, r64 0x030 (word128 y.upstreamIp 1).toNat, r32 0x100 y.beatPeriod, r64 0x108 y.beat,
   r32 0x110 (beatStatus y), r32 0x114 (if y.master then 0 else signed 32 y.chirpError), r32 0x118 (if y.master then 0 else y.chirpMissed)]
  ++ ((List.finRange 16).flatMap fun i =>
    [r64 (0x200 + 16 * i.val) (word128 y.peerIp[i] 0).toNat, r64 (0x208 + 16 * i.val) (word128 y.peerIp[i] 1).toNat])

/-! ### RXT ports and the device-wide transport registers (R247, R248) -/

def HsState.code : HsState → Nat
  | .idle => 0 | .waiting => 1 | .failed => 2 | .done => 3

def subRegs (x : SubState) : List Reg :=
  [r32 0x04 (bit x.linkUp 0 ||| bit x.assoc.isSome 1 ||| x.hs.code <<< 2), r64 0x08 x.mac.toNat, r64 0x10 x.nexthop.toNat,
   r32 0x18 x.ipv4.toNat, r64 0x20 (word128 x.ipv6 0).toNat, r64 0x28 (word128 x.ipv6 1).toNat, r32 0x30 x.udp.toNat, r32 0x34 x.mtu,
   r32 0x60 x.rekey, r64 0x80 x.rxFrames, r64 0x88 x.txFrames, r32 0x90 x.macsecDrops, r32 0x94 x.nonRxt, r32 0x98 x.noConn,
   r32 0x9C x.missDrops, r32 0xA0 x.instarAhead, r32 0xA4 x.authFail, r32 0xA8 x.ingressDrops, r32 0xAC x.fencedSent]
  ++ digestRegs 0x40 x.peerHash

def shiftRegs (n : Nat) (l : List Reg) : List Reg := l.map fun r => (r.1 + n, r.2)

def rxtWideRegs (s : State) : List Reg :=
  let r := s.rxt
  [r64 0xC000 r.ctxBase.toNat, r32 0xC008 r.ctxCount, r32 0xC010 r.ccParams.toNat, r32 0xC014 r.ccRate.toNat, r32 0xC018 r.ccMark.toNat,
   r32 0xC01C r.retry.toNat, r32 0xC020 r.ack.toNat, r32 0xC024 r.unexpAge, r64 0xC028 r.ctxMisses, r32 0xC030 r.ctxFetchFail,
   r32 0xC034 (pinnedOn s 0 ||| pinnedOn s 1 <<< 11), r32 0xC038 (pinnedOn s 2 ||| pinnedOn s 3 <<< 11)]

def portRegs (s : State) (q : RPort) : List Reg :=
  let x := s.ports[q]
  r32 0 x.mode.toNat :: subRegs x.subs[0] ++ shiftRegs 0x4000 (subRegs x.subs[1]) ++ if q = 0 then rxtWideRegs s else []

/-! ### MEM (R215) -/

def siteRegs (s : State) (n : Site) (x : SiteState) : List Reg :=
  let o := 0x100 + 0x20 * n.val
  [r32 o x.retired.length, r32 (o + 4) x.pending.length, r32 (o + 8) ((s.key.fuses.ppr[n]).min?.getD 0),
   r32 (o + 0xC) (bit x.trained 0 ||| bit x.selfRefresh 1 ||| bit x.failed 2), r64 (o + 0x10) x.patrol]

def memRegs (s : State) : List Reg :=
  let m := s.mem
  [r32 0x00 m.weevilCtrl.toNat, r32 0x04 m.sramPeriodNext, r32 0x08 m.dramPeriodNext, r32 0x0C m.sramCeLimit, r32 0x10 m.dramRowCeLimit,
   r64 0x18 m.sramCeTotal, r32 0x20 m.sramUeTotal, r32 0x24 m.dramUeTotal, r64 0x28 m.dramCeTotal]
  ++ (List.finRange 8).flatMap fun n => siteRegs s n m.sites[n]

/-! ### The PRT block of a partition (R350, R371) -/

def ingestRegs (i : Ingest) : List Reg :=
  [r64 0x00 i.va.toNat, r32 0x08 i.cfg.toNat, r32 0x10 (bit i.enabled 0 ||| i.lastStatus.code <<< 8), r32 0x14 i.consumed.toNat,
   r32 0x18 i.discards, r32 0x1C i.lost]

def stateRegs (x : PartState) : List Reg :=
  [r32 0x80 (x.phase.code ||| x.heldCause.code <<< 4), r32 0x84 x.keyGen, r32 0x88 (setsIn x.drained.toList), r32 0x8C x.gonePages,
   r64 0x90 x.bar2Base.toNat]
  ++ (List.finRange 4).flatMap fun r => shiftRegs (0x100 + 0x20 * r.val) (ingestRegs x.ingest[r])

/-- R214. -/
def prtMemRegs (s : State) (p : Part) : List Reg :=
  let m := (s.part p).mem
  let retired := ((s.diesOf p).map fun d => (s.mem.sites[d]).retired.length + (s.mem.sites[d]).retiring.length).sum
  [r64 0x00 m.ptRoot.toNat, r64 0x08 m.mapVA.toNat, r64 0x10 m.mapEntry.toNat, r32 0x1C (bit m.mapPending.isSome 0 ||| m.mapLast.code <<< 8),
   r32 0x20 m.faultsPosted, r32 0x24 (namedFaults m 0).length, r32 0x28 m.faultsLost, r32 0x2C (s.part p).resv.memBw,
   r32 0x30 (poolSramFree s p), r32 0x34 (poolDramFree s p), r32 0x38 retired, r64 0x40 m.xlatMisses]

/-- R177: a die of the partition shows its maps and its capacity. -/
def clusterMapValue (m : ClusterMap) : Nat :=
  ((List.finRange 8).map fun j => (m.log[j]).toNat <<< (4 * j.val)).sum ||| m.spare.toNat <<< 32 ||| m.retired.toNat <<< 36
    ||| bit m.rotationStopped 45

def prtImgRegs (s : State) (p : Part) : List Reg :=
  let x := (s.part p).img
  let st := if x.load.isSome then 1 else if x.image.isSome then 2 else 0
  let mine (d : Die) (v : Nat) : Nat := if (s.part p).resv.dieMask.getLsbD d.val then v else 0
  [r32 0x00 (st ||| x.minOp <<< 2 ||| x.curJob.val <<< 5 ||| bit (x.kind == .switch) 7 ||| x.lastStatus.code <<< 8),
   r32 0x04 (x.failCheck ||| x.failSection <<< 8), r64 0x28 x.job.step, r32 0x30 x.overruns, r32 0x34 x.stallBeats, r32 0x38 x.switches]
  ++ digestRegs 0x08 x.measure
  ++ ((List.finRange 8).flatMap fun d => r32 (0x200 + 4 * d.val) (mine d (s.dies[d]).capacity.toNat) ::
    (List.finRange 4).map fun r => r64 (0x100 + 0x20 * d.val + 8 * r.val) (mine d (clusterMapValue ((s.dies[d]).regions[r]).map)))

/-- R45; a FREE context reads zero. -/
def roundRegs (c : RoundCtx) : List Reg :=
  [r32 0x00 (c.phase.code ||| c.policy.mode.code <<< 4 ||| bit c.policy.twinRelease 6 ||| bit c.policy.inputLog 7 ||| c.holdCause.code <<< 8
    ||| c.lastStatus.code <<< 12),
   r64 0x08 c.policy.roundId, r64 0x10 c.openBeat, r64 0x18 c.lastBeat, r32 0x20 c.admitted, r32 0x24 c.duplicates, r32 0x28 c.late,
   r32 0x2C c.excluded, r32 0x30 c.included, r64 0x38 (if c.aborting then 0 else c.slotVA)]
  ++ digestRegs 0x40 c.policyHash

/-- R63. -/
def maskedRegs (m : MaskedCtx) : List Reg :=
  [r32 0x00 m.segments, r32 0x04 m.malformed, r32 0x08 m.segLate, r32 0x0C m.segOrder, r32 0x10 m.complete, r32 0x14 m.partialCount,
   r32 0x18 m.dropped, r32 0x20 m.needSelf, r32 0x24 m.needPair, r32 0x28 m.appliedSelf, r32 0x2C m.appliedPair, r64 0x30 m.expandBytes,
   r32 0x38 (m.unmaskStatus.code ||| (if m.unmaskStatus = .ok then 0 else m.failRecord % 65536) <<< 8)]

/-- R84. An index that has both a staged share and a kept PART awaits one decision, and counts once in SHR_PENDING: the rule speaks
of shares or PARTs. (DESIGN CHOICE, log entry 170) -/
def sharedRegs (h : SharedCtx) : List Reg :=
  let waiting := (h.index.filter fun e => e.2.verdict.isNone && (e.2.staged || e.2.partAt.isSome)).length
  [r32 0x00 h.wireLen, r32 0x04 h.proofLen, r32 0x08 h.malformed, r32 0x0C waiting, r32 0x10 h.accepted, r32 0x14 h.rejProof,
   r32 0x18 h.rejTimeout, r32 0x1C h.rejAbsent, r32 0x20 h.xchgDiscard, r32 0x24 h.decideUnadmitted,
   r32 0x28 (h.merged.toNat ||| h.mismatch.toNat <<< 4), r64 0x50 h.expandBytes]
  ++ digestRegs 0x30 h.acceptDigest

/-- R109. -/
def encRegs (e : EncCtx) : List Reg :=
  [r32 0x00 e.ctCount, r32 0x04 e.malformed, r32 0x08 e.segLate, r32 0x0C e.segOrder, r32 0x10 e.complete, r32 0x14 e.partialCount,
   r32 0x18 e.dropped, r32 0x1C (e.nbAcc % 256 ||| (e.budget % 256) <<< 8 ||| (e.nbRelease % 256) <<< 16),
   r32 0x20 (e.firstStatus.code ||| (min e.poisonedOps 0xFFFFFF) <<< 8), r64 0x28 e.combineSet.toNat]

/-- R110. -/
def keysetRegs (x : PartState) (k : KsSlot) : List Reg :=
  let used := x.ctxs.toList.any fun c => c.phase != .free && c.policy.mode == .encrypted && c.policy.keysetId == k.id
  let st := if !k.registered then 0 else if used then 2 else 1
  [r64 0x00 k.id.toNat, r32 0x08 (st ||| k.paramSet <<< 2 ||| k.keys.length <<< 16), r32 0x0C k.blocks, r32 0x10 k.fail, r64 0x38 k.va.toNat]
  ++ digestRegs 0x18 k.digest

/-- R153. -/
def talRegs (t : TalCtx) : List Reg :=
  [r64 0x00 t.payloadLen, r32 0x08 t.nonfinite, r32 0x0C t.saturated, r64 0x10 t.samples, r32 0x18 t.samplerRetry,
   r32 0x1C (t.step ||| bit t.restarted 3 ||| t.lastStatus.code <<< 8)]

/-- R249, without the grant records. -/
def prtRxtRegs (s : State) (p : Part) : List Reg :=
  let r := (s.part p).rxt
  let grants (st : GrantState) : Nat := (r.grants.filter fun g => g.2.state == st).length
  [r32 0x08 (bit (r.accessKey != 0) 0), r32 0x0C (s.part p).resv.portBw.toList.sum, r32 0x10 (grants .active ||| grants .revoking <<< 16),
   r32 0x14 (64 * unexpUsed s p), r32 0x18 r.unexpDrops, r32 0x20 r.revokedNaks, r32 0x24 r.deniedNaks, r32 0x28 r.rnrNaks,
   r32 0x2C r.connErrors, r32 0x40 r.recvPos.toNat, r64 0x48 r.recvTag.toNat, r64 0x50 r.recvMask.toNat, r64 0x58 r.recvVA.toNat,
   r32 0x60 r.recvLen.toNat, r32 0x68 (bit r.recvPending.isSome 0 ||| r.recvLast.code <<< 8)]

def GrantState.code : GrantState → Nat
  | .free => 0 | .active => 1 | .revoking => 2

/-- The grant record of R236. -/
def grantRegs (g : Grant) : List Reg :=
  [r32 0x00 (g.state.code ||| g.perms.toNat <<< 8), r32 0x04 g.inFlight, r64 0x08 g.va, r64 0x10 g.length, r32 0x18 g.conn.toNat, r32 0x1C g.gen]

/-- R271. -/
def twinRegs (w : TwinState) : List Reg :=
  [r32 0x00 (w.phase.code ||| bit w.secondary 3 ||| bit w.actingPrimary 4 ||| w.lastStatus.code <<< 8 ||| (w.peerMember % 1024) <<< 16
    ||| w.peerPart.val <<< 26),
   r32 0x04 w.divergences, r64 0x08 w.matched, r64 0x10 (word128 w.fp 0).toNat, r64 0x18 (word128 w.fp 1).toNat, r64 0x20 w.ckptBeat,
   r32 0x28 (bit w.ckptSlot 0 ||| bit w.copyRunning 1 ||| (w.skipped % 65536) <<< 16), r64 0x30 w.logVA.toNat, r64 0x38 w.logBytes.toNat,
   r64 0x40 w.logHead, r64 0x48 w.logTail, r32 0x50 (w.replayStatus ||| w.replayLast.code <<< 8), r64 0x58 w.replayBeats,
   r64 0x60 w.replayMismatch]

/-- The registers of a partition's block near an offset. -/
def prtRegs (s : State) (p : Part) (off : Nat) : List Reg :=
  let x := s.part p
  let k : Ctx := Fin.ofNat 4 (off % 0x400 / 0x100)
  let c := x.ctxs[k]
  if off < 0x80 then hifRegs x.hif
  else if off < 0x2000 then stateRegs x
  else if off < 0x3000 then shiftRegs 0x2000 (prtMemRegs s p)
  else if off < 0x4000 then shiftRegs 0x3000 (prtImgRegs s p)
  else if off < 0x4400 then shiftRegs (0x4000 + 0x100 * k.val) (roundRegs c)
  else if off < 0x5000 then [r32 0x4400 (ledgerSize - min ledgerSize s.key.vbat.ledger.length)]
  else if off < 0x5400 then shiftRegs (0x5000 + 0x100 * k.val) (maskedRegs c.masked)
  else if off < 0x6000 then []
  else if off < 0x6400 then shiftRegs (0x6000 + 0x100 * k.val) (sharedRegs c.shared)
  else if off < 0x7000 then []
  else if off < 0x7400 then shiftRegs (0x7000 + 0x100 * k.val) (encRegs c.enc)
  else if off < 0x7800 then []
  else if off < 0x7C00 then
    let i : Fin 16 := Fin.ofNat 16 ((off - 0x7800) / 0x40)
    shiftRegs (0x7800 + 0x40 * i.val) (keysetRegs x x.keysets[i])
  else if off < 0x8000 then []
  else if off < 0x8400 then shiftRegs (0x8000 + 0x100 * k.val) (talRegs c.tal)
  else if off < 0x9000 then []
  else if off < 0xA000 then shiftRegs 0x9000 (prtRxtRegs s p)
  else if off < 0xB000 then shiftRegs 0xA000 (twinRegs x.twin)
  else if off < 0xB800 then digestRegs (0xB000 + (off - 0xB000) / 32 * 32) (tget x.peerAllow ((off - 0xB000) / 32) 0)
  else if 0x10000 ≤ off ∧ off < 0x30000 then
    let g := (off - 0x10000) / 32
    shiftRegs (0x10000 + 32 * g) (grantRegs (tget x.rxt.grants g {}))
  else []

/-- The registers of function 0 of a port near an offset; blocks past HUB, KEY and the like need Toxel (R395). -/
def f0Regs (s : State) (q : PciePort) (off : Nat) : List Reg :=
  let late (l : List Reg) : List Reg := if booted s then l else []
  if off < 0x1000 then hubRegs s
  else if off < 0x1080 then shiftRegs 0x1000 (hifRegs s.hub.f0[q])
  else if off < 0x10000 then []
  else if off < 0x20000 then shiftRegs 0x10000 (clkRegs s)
  else if off < 0x30000 then shiftRegs 0x20000 (pwrRegs s)
  else if off < 0x40000 then shiftRegs 0x30000 (rngRegs s)
  else if off < 0x41000 then shiftRegs 0x40000 (keyRegs s)
  else if off < 0x42000 then [r64 (off / 8 * 8) (mbxWord s ((off - 0x41000) / 8 * 8))]
  else if off < 0x50000 then []
  else if off < 0x60000 then shiftRegs 0x50000 (evrRegs s q)
  else if off < 0x70000 then late (shiftRegs 0x60000 (tstRegs s))
  else if off < 0x100000 then []
  else if off < 0x200000 then late (shiftRegs 0x100000 (sysRegs s))
  else if off < 0x280000 then
    let r : RPort := Fin.ofNat 8 ((off - 0x200000) / 0x10000)
    late (shiftRegs (0x200000 + 0x10000 * r.val) (portRegs s r))
  else if off < 0x400000 then []
  else if off < 0x500000 then late (shiftRegs 0x400000 (memRegs s))
  else if 0x800000 ≤ off ∧ off < 0x1000000 then
    let p : Part := Fin.ofNat 8 ((off - 0x800000) / 0x100000)
    late (if s.exists_ p then shiftRegs (0x800000 + 0x100000 * p.val) (prtRegs s p (off % 0x100000)) else [])
  else []

/-- The value of the register that covers an offset, cut to the bytes from the offset on. -/
def regValue (l : List Reg) (off : Nat) : Nat := match l.find? fun r => decide (r.1 ≤ off ∧ off < r.1 + r.2.1) with
  | some r => r.2.2 / 2 ^ (8 * (off - r.1))
  | none => 0

def registersNear (s : State) (fn : Fn) (off : Nat) : List Reg := match fn with
  | .f0 q => f0Regs s q off
  | .part p => prtRegs s p off

/-- What a read of 4 or 8 bytes at an aligned offset returns; none where the function is not reachable (R7 to R9, R282, R348).
(DEDUCED, log entry 131) -/
def readRegister (s : State) (fn : Fn) (off : Nat) (wide : Bool) : Option Nat :=
  let word (o : Nat) : Nat := regValue (registersNear s fn o) o % 2 ^ 32
  if !barOpen s fn then none
  else if (match fn with | .part p => ideHeld s p | .f0 _ => false) then some 0
  else if wide then some (word off ||| word (off + 4) <<< 32) else some (word off)

end Sys2Proof.Machine
end

