-- ==== Sys2Proof/Tests/Slice0.lean ====
section
/-! SUPPORT. Tests of this package: ill-formed terms that WellFormed refuses, words written out from the tables of the spec,
and for every statement with hypotheses a concrete state and operands that meet them together. -/

namespace Sys2Proof.Tests
open Sys2Proof Sys2Proof.Machine
set_option Elab.async false

/-! ### Ill-formed terms, one for each check (R183, R184, R187) -/

def u0 : UnitId := ⟨0, 0, 0, 0⟩
def vf : VFmt := ⟨false, 0, false, 0, 1, 2, 3, 0, 0, 0⟩
def mf : MFmt := ⟨false, 0, false, 0, 1, 1, 0, 0, 0⟩
def xf : XFmt := ⟨false, 3, 1, 2, 2, 5⟩
def of_ : OFmt := ⟨false, 3, 1, 2, 0, 0, 2, 0⟩
def sf : SFmt := ⟨false, 1, 1, 0, 0, 0, 64, 0, 0⟩
def tf : TFmt := ⟨false, 1, 1, 0, false, 0, 16, 0⟩

theorem test_wf_vector_mod : (Instr.vadd u0 { vf with mod := 17 }).wf = false ∧ (Instr.vadd u0 { vf with mod := 16 }).wf = true := by decide
theorem test_wf_vector_steps :
    (Instr.vmul u0 { vf with step := 1, vd := 255, rep := 1 }).wf = false ∧ (Instr.vmul u0 { vf with step := 2, va := 255, rep := 1 }).wf = false
    ∧ (Instr.vmul u0 { vf with step := 4, vb := 255, rep := 1 }).wf = false ∧ (Instr.tmac u0 { vf with step := 8, tile := 63, rep := 1 }).wf = false
    ∧ (Instr.vmul u0 { vf with step := 7, vd := 254, va := 254, vb := 254, rep := 1 }).wf = true := by decide
theorem test_wf_memory : (Instr.tld u0 { mf with mod := 17 }).wf = false ∧ (Instr.ld u0 { mf with mod := 1 }).wf = false
    ∧ (Instr.st u0 { mf with mod := 1 }).wf = false ∧ (Instr.ld u0 { mf with step := 1, vd := 255, rep := 1 }).wf = false
    ∧ (Instr.tst u0 { mf with step := 8, tile := 63, rep := 1 }).wf = false ∧ (Instr.tst u0 { mf with mod := 1 }).wf = true := by decide
theorem test_wf_cluster_op : (Instr.ctAdd u0 { of_ with mod := 17 }).wf = false ∧ (Instr.autol u0 { of_ with p24 := 4 }).wf = false
    ∧ (Instr.autol u0 { of_ with p24 := 5 }).wf = true := by decide
theorem test_wf_loop : (Instr.loop u0 { xf with imm := 0 }).wf = false ∧ (Instr.loop u0 { xf with imm := 0x100000000 }).wf = false
    ∧ (Instr.loop u0 { xf with imm := 0xFFFFFFFF }).wf = true := by decide
theorem test_wf_measurements : (Instr.beatBoundary ⟨[], [], [], 0, [], []⟩).wf = false
    ∧ (Instr.beatBoundary ⟨List.replicate 8 0, List.replicate 7 0, List.replicate 8 0, 0, [], []⟩).wf = false
    ∧ (Instr.entropyWindowEnd ⟨List.replicate 31 0, List.replicate 32 0⟩).wf = false
    ∧ (Instr.energyCalibration ⟨List.replicate 7 0⟩).wf = false := by decide

/-! ### Words of the beat instructions, bit by bit from R183's formats and R184's opcodes -/

/-- XADD: opcode 0x01, X[1] from X[4] and X[2], immediate 7. -/
theorem test_decode_x : decodeBeat u0 0x0000000000000007_0000_000000_02_1901 = some (.xadd u0 ⟨false, 1, 3, 2, 0, 7⟩) := by decide +kernel
/-- TACC, ST, AUTOL, SCOPY, TRED. -/
theorem test_decode_v : decodeBeat u0 0x0000000000000000_1003_0A0908_05_2B18 = some (.tacc u0 ⟨false, 11, true, 5, 8, 9, 10, 3, 1, 0⟩) := by
  decide +kernel
theorem test_decode_m : decodeBeat u0 0x0000000000000040_9001_000211_00_4051 = some (.st u0 ⟨true, 0, false, 0, 0x11, 2, 1, 9, 0x40⟩) := by
  decide +kernel
theorem test_decode_o : decodeBeat u0 0x0000000000000005_0002_000003_0C_0B34 = some (.autol u0 ⟨false, 3, 1, 4, 1, 3, 2, 5⟩) := by
  decide +kernel
theorem test_decode_s : decodeBeat u0 0x00000020_00000010_0000000100_0A_0160 = some (.scopy u0 ⟨false, 1, 0, 2, 1, 0, 0x100, 0x10, 0x20⟩) := by
  decide +kernel
theorem test_decode_t : decodeBeat u0 0x0000000000000400_0000000010_18_0071 = some (.tred u0 ⟨false, 0, 0, 0, true, 1, 0x10, 0x400⟩) := by
  decide +kernel
theorem test_decode_reserved : decodeBeat u0 0x0A = none ∧ decodeBeat u0 0x8000 = none := by decide +kernel

/-! ### The state after reset -/

theorem test_reset_memory : Memory.wf State.reset.mem = true ∧ State.reset.pending = [] := by decide

/-! ### A unit that runs -/

/-- A modulus entry, a ring of degree 4 with its roots, and an image. -/
def e97 : ModEntry := ⟨97, 168, 7, 1⟩
def ring : RingSet := ⟨true, 2, [97, 113], [193], 0, 1, 1, 1, 1, 1, [1000, 2000], [64, 18], [9]⟩
def moltS : MoltSet := ⟨1, 0, 1, 97, 193, 64, 9, 1, 1, 0, 1000, 5, 1, 1⟩
def img : Image := {
  imageBytes := 65536, dieCount := 1, modes := 7, clusterUse := [0xFFFFFFFF], rings := [ring], molts := [moltS],
  groups := [⟨0, 1, 1, 1, [0, 1]⟩], modtab := List.replicate 8 (List.replicate 16 e97), jobs := [⟨1, 1⟩, ⟨1, 3⟩] }

/-- Pages of the partition's memory: three of cluster 0's slice, all permissions, at 0x10_0000_0000 upward, and one of site
0 after them. -/
def leaves : Tbl U64 := [(0x100000, sramLeaf 0 0 0 31), (0x100001, sramLeaf 0 0 1 31), (0x100002, sramLeaf 0 0 2 31),
  (0x100003, dramLeaf 0 1 false 31)]
def va (n : Nat) : Nat := 0x1000000000 + n
def xs : Vector U64 8 := #v[0, 0x1000000000, 0x1000000080, 0x1000010000, 0x1000020000, 1, 2, 3]
def partS : PartState := { phase := .loaded, resv := { dieMask := 1 }, img := { image := some img }, mem := { leaves := leaves } }
def unit0 : UnitState := { x := xs, progCount := 10 }
/-- Partition 0, LOADED on die 0, with cluster 0 running. -/
def runS : State := {
  parts := vput State.reset.parts 0 partS, dies := vput State.reset.dies 0 { owner := some 0 },
  clusters := [(0, { running := true })], units := [(0, unit0)] }

theorem test_unit_control_hypotheses : CanIssue runS u0 xf.sync ∧ 1 ≤ xf.imm.toNat ∧ xf.imm.toNat < 2 ^ 32 ∧ 1 ≤ xf.body.toNat
    ∧ (modEntry runS u0 (xf.imm.toNat % 16)).kind ≠ 0 := by
  unfold CanIssue; decide +kernel

/-- The same state with a change to unit 0. -/
def withUnit (f : UnitState → UnitState) : State := State.onUnit 0 0 0 f runS

theorem test_loopx_hypotheses : CanIssue runS u0 xf.sync ∧ (runS.x u0 5).toNat ≤ 5 ∧ 1 ≤ (runS.x u0 5).toNat ∧ (runS.x u0 0).toNat = 0
    ∧ 5 < (runS.x u0 1).toNat ∧ unitReady State.reset u0 = false := by
  unfold CanIssue; decide +kernel

theorem test_loop_body_hypotheses :
    let s := withUnit fun x => { x with pos := 3, loops := [⟨2, 3, 2⟩, ⟨1, 5, 1⟩] }
    let t := withUnit fun x => { x with pos := 3, loops := [⟨2, 3, 1⟩, ⟨1, 4, 1⟩] }
    (CanIssue s u0 false ∧ (s.unitOf u0).pos = 3 ∧ ((s.unitOf u0).loops.map (·.left)) = [2, 1])
      ∧ (CanIssue t u0 false ∧ (t.unitOf u0).pos = 3 ∧ ((t.unitOf u0).loops.map fun l => (l.last, l.left)) = [(3, 1), (4, 1)]) := by
  unfold CanIssue; decide +kernel

theorem test_barrier_hypotheses : runS.ownerOf 0 = some 0
    ∧ ((withUnit fun x => { x with wait := .barrier }).unit 0 0 0).wait = .barrier
    ∧ ((withUnit fun x => { x with wait := .rbarrier }).unit 0 0 0).wait = .rbarrier := by decide +kernel

theorem test_vector_hypotheses : CanIssue runS u0 vf.sync ∧ vf.wf = true ∧ ModValid runS u0 vf.mod ∧ vf.rep = 0
    ∧ ((withUnit fun x => { x with work := { tiles := [(0, { count := 65536 })] } }).unitOf u0).work.tiles = [(0, { count := 65536 })] := by
  unfold CanIssue ModValid; decide +kernel

theorem test_unit_memory_hypotheses : ownLeaf u0 (sramLeaf 0 0 0 31) = true ∧ CanIssue runS u0 mf.sync ∧ mf.rep = 0 ∧ mf.wf = true
    ∧ mAddr mf runS u0 0 % 128 = 0 ∧ runS.leafAt 0 (mAddr mf runS u0 0) = some (sramLeaf 0 0 0 31)
    ∧ interlocked runS u0 (mAddr mf runS u0 0) 128 = false ∧ (linesOf 0 128).any (raced runS u0) = false ∧ runS.translate 0 (mAddr mf runS u0 0) 0 = .ok 0
    ∧ runS.translate 0 (mAddr mf runS u0 0) 1 = .ok 0 ∧ mf.mod = 0 ∧ ModValid runS u0 mf.mod ∧ Memory.wf runS.mem = true
    ∧ (runS.clusterOf u0).journalLines.length + 2 ≤ 16384 := by
  unfold CanIssue ModValid; decide +kernel

theorem test_xld_hypotheses : let f : XFmt := ⟨false, 3, 1, 0, 0, 8⟩
    CanIssue runS u0 f.sync ∧ addr (runS.x u0 f.xa) f.imm.toNat = 0x1000000008 ∧ runS.leafAt 0 0x1000000008 = some (sramLeaf 0 0 0 31)
      ∧ interlocked runS u0 0x1000000008 8 = false ∧ (linesOf 8 8).any (raced runS u0) = false ∧ runS.translate 0 0x1000000008 0 = .ok 8 := by
  unfold CanIssue; decide +kernel

/-- A release instance that can draw, in context 0. -/
def drawS : State := { State.onCtx 0 0 (fun c => { c with phase := .finalizing, release := { key := some 1 } }) runS with
  rng := { phase := .healthy } }

theorem test_stream_hypotheses : CanIssue runS u0 sf.sync ∧ CanIssue runS u0 tf.sync ∧ CanIssue runS u0 xf.sync
    ∧ (runS.ctx 0 tf.ctx.toFin).policy.stepNoise = false ∧ sf.len ≠ 0 ∧ (runS.ctx 0 0).phase = .free
    ∧ drawsServed drawS 0 0 = true ∧ CanIssue drawS u0 sf.sync ∧ (drawS.ctx 0 0).phase ≠ .free
    ∧ drawsServed { drawS with rng := {} } 0 0 = false ∧ ({ sf with len := 0 } : SFmt).len = 0 := by
  unfold CanIssue; decide +kernel

def asyncS (e : Engine) (i : Instr) : State := withUnit fun x => { x with asyncs := [⟨e, i, 0, xs, 0⟩] }
def sg : SFmt := ⟨false, 3, 1, 0, 0, 0, 64, 0, 0⟩

/-- A copy behind a PRG that still writes the same line. -/
def behindS : State := withUnit fun x => { x with asyncs := [⟨.aes, .prg u0 sg, 0, xs, 0⟩, ⟨.crossbar, .scopy u0 sg, 1, xs, 0⟩] }

theorem test_async_order_hypotheses : ((behindS.unitOf u0).asyncs.find? fun o => o.engine == .crossbar) = some ⟨.crossbar, .scopy u0 sg, 1, xs, 0⟩
    ∧ behindWrite behindS u0 ⟨.crossbar, .scopy u0 sg, 1, xs, 0⟩ = true ∧ clusterRuns behindS u0 = true := by decide +kernel
theorem test_async_hypotheses : let o (e : Engine) (i : Instr) : AsyncOp := ⟨e, i, 0, xs, 0⟩
    let s := asyncS .crossbar (.scopy u0 sg)
    clusterRuns s u0 = true ∧ Memory.wf s.mem = true ∧ ((s.unitOf u0).asyncs.find? fun o => o.engine == .aes) = none
      ∧ ((s.unitOf u0).asyncs.find? fun o => o.engine == .crossbar) = some (o .crossbar (.scopy u0 sg))
      ∧ Readable (asIssued u0 (o .crossbar (.scopy u0 sg)) s) u0 (srcOf (o .crossbar (.scopy u0 sg)) sg) 64 0 ∧ Writable (asIssued u0 (o .crossbar (.scopy u0 sg)) s) u0 (dstOf (o .crossbar (.scopy u0 sg)) sg) 64 65536
      ∧ Writable (asIssued u0 (o .crossbar (.szero u0 sg)) (asyncS .crossbar (.szero u0 sg))) u0 (dstOf (o .crossbar (.szero u0 sg)) sg) 64 65536
      ∧ Writable (asIssued u0 (o .fingerprint (.hash u0 sg)) (asyncS .fingerprint (.hash u0 sg))) u0
        (dstOf (o .fingerprint (.hash u0 sg)) sg) 32 65536
      ∧ (asyncS .fingerprint (.hash u0 sg)).poisonedAt 65536 32 = false ∧ behindWrite s u0 (o .crossbar (.scopy u0 sg)) = false
      ∧ stickyLines s 0 (dstOf (o .crossbar (.scopy u0 sg)) sg) 65536 64 = [] ∧ 65536 % 64 = 0 ∧ sg.len.toNat % 64 = 0 := by
  unfold Readable Writable; decide +kernel

/-! ### Lines two units touch in one step (R191) -/

/-- Units 0 and 1 of a cluster; unit 0 has written line 5. -/
def raceS : State := { runS with units := [(0, { unit0 with written := [⟨5, []⟩] }), (1, unit0)] }
def u1 : UnitId := { u0 with unit := 1 }

theorem test_race_until_barrier : raced raceS u1 5 = true ∧ raced raceS u0 5 = false ∧ raced raceS u1 6 = false
    ∧ raced (meet [0, 1] raceS) u1 5 = false ∧ raced (meet [0, 2] raceS) u1 5 = true
    ∧ raced (asIssued u1 ⟨.crossbar, .nop u1 xf, 0, xs, 0⟩ (meet [0, 1] raceS)) u1 5 = true := by decide +kernel
theorem test_race_write_spreads : raced (unitStore u1 320 [1] false raceS) u0 5 = true
    ∧ (unitBytes u1 320 1 raceS).1.draws = raceS.draws + 1 ∧ (unitBytes u0 320 1 raceS).1.draws = raceS.draws := by decide +kernel

/-! ### Cluster operations -/

/-- The other seven units have issued the operation. -/
def waiting : UnitState := { unit0 with wait := .clusterOp, clusterOps := 1 }
def cltS : State := { runS with units := (0, unit0) :: (List.range 7).map fun n => (n + 1, waiting) }

theorem test_limb_hypotheses : CanIssue runS u0 of_.sync ∧ clusterOpReady (entered u0 runS) u0 = false ∧ StartsClusterOp cltS u0 of_
    ∧ of_.wf = true ∧ ModValid cltS u0 of_.mod ∧ Memory.wf cltS.mem = true ∧ Readable (started u0 cltS) u0 (cltS.x u0 1).toNat 16 0
    ∧ Writable (started u0 cltS) u0 (cltS.x u0 1).toNat 16 0 ∧ nttRoot (cltS.imageOf 0) 2 (modEntry cltS u0 0).modulus = some 64
    ∧ (modEntry cltS u0 0).kind = 1 ∧ of_.p24.toNat % 32 < of_.p8.toNat ∧ Writable (started u0 cltS) u0 (cltS.x u0 3).toNat 16 65536
    ∧ ({ of_ with p24 := 5 } : OFmt).p24.getLsbD 0 = true := by
  unfold StartsClusterOp CanIssue ModValid Readable Writable; decide +kernel

/-- A shared policy of two elements and two parties. -/
def sharedPol : Policy := { mode := .shared, roundId := 7, stretchLen := 2, minCohort := 1, maxCohort := 2, deadlineBeats := 9,
                            recoveryBeats := 4, finalizeBeats := 9, modeParams := [2, 0, 3, 0, 8, 0, 0, 0] }
def ofV : OFmt := { of_ with p8 := 0 }
def verS : State := State.onCtx 0 0 (fun c => { c with phase := .opened, policy := sharedPol }) cltS

theorem test_verifier_hypotheses : StartsClusterOp verS u0 ofV ∧ ofV.wf = true ∧ Memory.wf verS.mem = true
    ∧ (verS.ctx 0 (opCtx ofV)).phase ≠ .free ∧ 8 * (sharedPol.wireLen + sharedPol.proofLen) = 96
    ∧ Readable (started u0 verS) u0 (verS.x u0 1).toNat 96 0 ∧ Readable (started u0 verS) u0 (verS.x u0 2).toNat 32 128
    ∧ Writable (started u0 verS) u0 (verS.x u0 3).toNat 32 65536 ∧ Readable (started u0 verS) u0 (verS.x u0 1).toNat 64 0
    ∧ Writable (started u0 verS) u0 (verS.x u0 3).toNat 1 65536 := by
  unfold StartsClusterOp CanIssue Readable Writable; decide +kernel

/-- A ciphertext at X[1], a plaintext at X[2], and a key-set with a block for each key. -/
def keyRecs : List KeyRec := [⟨1, 0, 1, 0, 0, 0, 1⟩, ⟨4, 0, 0, 0, 0, 1, 1⟩, ⟨5, 0, 0, 0, 0, 2, 1⟩, ⟨6, 0, 1, 0, 0, 3, 1⟩, ⟨3, 0, 1, 0, 7, 4, 1⟩,
  ⟨2, 0, 1, 0, 5, 5, 1⟩]
def keySlot : KsSlot := { id := 5, registered := true, blocks := 6, va := 0x1000030000, keys := keyRecs }
def encPol : Policy := { mode := .encrypted, roundId := 8, stretchLen := 2, minCohort := 1, maxCohort := 2, deadlineBeats := 9,
                         recoveryBeats := 4, finalizeBeats := 9, modeParams := [0, 0, 1, 1, 20, 1, 0, 0, 5, 0, 0, 0, 0, 0, 0, 0, 1] }
/-- The two headers with their CHECK, and the tags of the six blocks. -/
def objCells : List Host.Cell :=
  [(0, 1), (1, 1), (2, 2), (3, 1), (4, 2), (5, 10), (6, 3), (8, 5), (16, 1), (24, 64), (60, 70), (61, 185), (62, 206), (63, 197),
    (128, 2), (129, 1), (130, 2), (131, 1), (132, 1), (134, 3), (136, 5), (144, 1), (152, 32), (188, 55), (189, 222), (190, 205),
    (191, 41)]
    ++ keyRecs.flatMap fun r => let k := dramKey 0 (65536 + 4096 * r.firstBlock)
      (k, 5) :: (k + 8, BitVec.ofNat 8 r.kind) :: if r.levelHi = 1 then [(k + 10, 1)] else []
def objS : State := { State.onPart 0 (fun x => { x with keysets := vput x.keysets 0 keySlot }) (State.onCtx 0 0 (fun c =>
    { c with phase := .finalizing, policy := encPol, release := { key := some 1 } }) cltS) with
  mem := { cells := objCells }
  rng := { phase := .healthy } }

/-- Operands read, their checks pass and their keys stream (R104). -/
def objectRuns (s : State) (vas : List Nat) (plan : Image → List Operand → ObjectOp) : Bool :=
  match readObjects u0 vas (started u0 s) with
  | (s1, some l) =>
    let o := plan (s1.imageOf 0) l
    let keys := o.keys.map (findKey s1 0 (opNth l 0).h.keyset (opNth l 0).h.paramSet)
    operandStatus s1 0 l o keys == .ok && match streamKeys u0 (keys.filterMap id) s1 with
      | (_, some (.ok _)) => true
      | _ => false
  | _ => false

theorem test_object_hypotheses : StartsClusterOp objS u0 ofV ∧ ofV.wf = true ∧ Memory.wf objS.mem = true := by
  unfold StartsClusterOp CanIssue; decide +kernel
theorem test_object_sums_run : objectRuns objS [va 0, va 0] (addPlan 0x38 addQ) = true ∧ objectRuns objS [va 0, va 0] (addPlan 0x39 subQ) = true
    ∧ objectRuns objS [va 0, va 128] addPlainPlan = true := by decide +kernel
theorem test_object_products_run : objectRuns objS [va 0, va 128] mulPlainPlan = true ∧ objectRuns objS [va 0, va 0] mulPlan = true := by
  decide +kernel
theorem test_object_rotations_run : objectRuns objS [va 0] (fun i l => galoisPlan 2 (galoisOf (opNth l 0).h.logN 1) i l) = true
    ∧ objectRuns objS [va 0] (fun i l => galoisPlan 3 (2 * 2 ^ (opNth l 0).h.logN - 1) i l) = true
    ∧ objectRuns objS [va 0] slotSumPlan = true := by decide +kernel
theorem test_object_forms_run : objectRuns objS [va 0] rescalePlan = true ∧ objectRuns objS [va 0] (dropPlan 0) = true
    ∧ objectRuns objS [va 0] (formPlan 0x41 true) = true ∧ objectRuns objS [va 0] (formPlan 0x42 false) = true := by decide +kernel

/-- A poisoned operand: checks give POISONED_INPUT. -/
theorem test_object_poisoned_hypotheses :
    (match readObjects u0 [va 256] (started u0 objS) with
      | (s1, some l) => operandStatus s1 0 l (rescalePlan (s1.imageOf 0) l) [] == .poisonedInput
      | _ => false) = true := by decide +kernel

theorem test_molt_hypotheses :
    (match readObject u0 (va 0) (started u0 objS) with
      | (s1, some o) =>
        let keys := moltKeys.map (findKey s1 0 o.h.keyset o.h.paramSet)
        img.groups[0]?.isSome && moltInputOk img o && moltFits img ⟨0, 1, 1, 1, [0, 1]⟩ moltS 0 o && !keys.any Option.isNone
          && decide (o.h.noise ≤ moltS.inMax) && match streamKeys u0 (keys.filterMap id) s1 with
            | (s2, some (.ok _)) => !storeBad s2 u0
            | _ => false
      | _ => false) = true := by decide +kernel

/-- The same ciphertext in a ring of degree 16, room for a batch of one sample. -/
def exHead : ObjHeader := { headerFields (objS.bytesAt 0 64) with logN := 4, bodyBytes := 256 }
def exS : State := { State.onImg 0 (fun x => { x with image := some { img with rings := [{ ring with logN := 4 }] } }) objS with
  mem := { cells := ((exHead.bytes.zipIdx.filter (·.1 != 0)).map fun x => (x.2, x.1)) ++ objCells.filter fun c => 2 ^ 40 ≤ c.1 } }
theorem test_molt_ex_starts : StartsClusterOp exS u0 { ofV with p8 := 0, p24 := 0 } ∧ (ofV.p8.toNat ≤ 4 ∧ ofV.p8.toNat ≤ 17) := by
  unfold StartsClusterOp CanIssue; decide +kernel
theorem test_molt_ex_hypotheses :
    (match readObject u0 (va 0) (started u0 exS) with
      | (s1, some o) =>
        let keys := [findKey s1 0 o.h.keyset o.h.paramSet ⟨5, 0, 0⟩]
        (img.molts.findIdx? fun m => m.outerSet == o.h.paramSet) == some 0 && o.clean && o.shape && o.h.fmt == 1
          && decide (16 * 2 ^ min 0 (0 % 32) ≤ 2 ^ o.h.logN) && !keys.any Option.isNone && decide (o.h.noise ≤ moltS.inMax)
          && match streamKeys u0 (keys.filterMap id) s1 with
            | (_, some (.ok _)) => true
            | _ => false
      | _ => false) = true := by decide +kernel

def ofF : OFmt := { ofV with xd := 1, p24 := 0 }

/-- The round is in step 2 of its finalize. -/
def floodS : State := State.onCtx 0 0 (fun c => { c with finStep := .pipeline }) objS

theorem test_flood_hypotheses : StartsClusterOp objS u0 ofF ∧ ofF.wf = true ∧ (objS.ctx 0 (opCtx ofF)).phase ≠ .free
    ∧ drawsServed objS 0 (opCtx ofF) = true ∧ (objS.ctx 0 (opCtx ofF)).inStepTwo = false ∧ StartsClusterOp floodS u0 ofF
    ∧ drawsServed floodS 0 (opCtx ofF) = true ∧ (floodS.ctx 0 (opCtx ofF)).inStepTwo = true := by
  unfold StartsClusterOp CanIssue; decide +kernel
theorem test_flood_runs :
    (match readObjects u0 [va 0] (started u0 floodS) with
      | (s1, some [a]) =>
        let r := setOf (s1.imageOf 0) a.h
        let z := floodDraws (floodS.ctx 0 0) r 0
        let out : ObjHeader := { a.h with noise := noiseAdd (noiseAdd a.h.noise (4 * encPol.floodBits)) r.incEnc }
        let o : ObjectOp := ⟨a.h.fmt == 1, [⟨6, 0, a.h.level⟩], out, fun kb => ctBytes r a.h.level a.h.ntt
          (ctAdd (r.basis a.h.level) (ctOf r a) (encryptUnder r a.h.level (keyNth kb 0)
            (encodeNoise r a.h encPol.decodeF z.1.1) z.1.2.1 z.1.2.2.1 z.1.2.2.2))⟩
        let keys := o.keys.map (findKey s1 0 a.h.keyset a.h.paramSet)
        operandStatus s1 0 [a] o keys == .ok && match streamKeys u0 (keys.filterMap id) s1 with
          | (s2, some (.ok kb)) =>
            let b := { out with poisoned := false }.bytes ++ o.body kb
            let t0 := opWriteMem u0 (va 0) b false s2
            clusterRuns t0 u0 && clusterRuns (unitStore u0 (stageKey 0 0 (0 * b.length)) b false t0) u0
          | _ => false
      | _ => false) = true := by decide +kernel

def encS : State := State.onCtx 0 0 (fun c => { c with phase := .closed }) objS

theorem test_combine_hypotheses : StartsClusterOp encS u0 ofV ∧ ofV.wf = true ∧ (encS.ctx 0 (opCtx ofV)).phase ≠ .free := by
  unfold StartsClusterOp CanIssue; decide +kernel
theorem test_combine_runs :
    (match readObject u0 (va 0) (started u0 encS) with
      | (s1, some a) =>
        a.clean && a.shape && a.h.fmt == 1 && a.h.level == encPol.level && a.h.paramSet == encPol.paramSet
          && a.h.keyset == encPol.keysetId
          && match unitRead u0 false (s1.x u0 2).toNat (Policy.bodyBytes (setOf (s1.imageOf 0) a.h) 1 a.h.level) s1 with
            | (s2, some (sh, false)) =>
              let r := setOf (s1.imageOf 0) a.h
              let q := r.basis a.h.level
              let d := cutLimbs r.logN (wordsOf sh)
              let slot := decodedSlots r a.h.scale a.h.level
                (zipLimbs q addQ (partCoef r a 0) (if encPol.encNtt then toCoef r.logN q d else d))
              clusterRuns (opWriteMem u0 (s1.x u0 3).toNat ((List.range (min (Policy.slotsOf r) (encPol.stretchLen - 0 * Policy.slotsOf r))).flatMap
                fun i => leBytes 8 (slot i)) false s2) u0
            | _ => false
      | _ => false) = true := by decide +kernel

/-! ### Partitions, images and rounds -/

def c0 : Cmd := ⟨.f0 0, 7⟩
def cp : Cmd := ⟨.part 0, 9⟩

/-- A creation block: partition 0 on die 3, with 8 GB/s of PCIe (R274). -/
def creation : Bytes :=
  [67, 80, 82, 84, 0, 1] ++ zeroBytes 6 ++ [8, 0, 0, 0, 4, 31, 224, 186, 113, 34, 29, 211, 237, 219, 45, 213, 61, 248,
  159, 128, 214, 25, 138, 110, 196, 243, 81, 1, 83, 184, 107, 248, 177, 49, 208, 89] ++ zeroBytes 80
def bits : FnConfig := ⟨true, true, false, false⟩
/-- A DEPLOYED device after start-up: link 0 in L0, the sites trained, entropy at hand. -/
def devS : State := {
  hub := { toxel := true, links := vput State.reset.hub.links 0 { inL0 := true, width := 16, rate := 5, capacity := linkCapacity 16 5 },
           fnConfig := Vector.replicate 2 (Vector.replicate 9 bits) }
  key := { fuses := { lifeCycle := .deployed }, vbat := { root := some 77 }, stage := .running, tagKey := 5 }
  rng := { phase := .healthy, ready := true, start := .done, pool := (List.range 6).map (BitVec.ofNat 256),
           insts := Vector.replicate 13 { phase := 1 } }
  ports := Vector.replicate 8 { mode := 1 }
  pins := { resetN := true }
  ucie := Vector.replicate 56 { trained := true }
  mem := { sites := Vector.replicate 8 { trained := true }, cells := (creation.zipIdx.filter (·.1 != 0)).map fun x => (hostKey 0 0x1000 + x.2, x.1) } }

theorem test_create_hypotheses : FromF0 devS c0
    ∧ (match createChecks (devS.onKey fun k => { k with scanOpen := false }) 0x1000 with
      | .ok (p, r) => p == 0 && r.memBw != 0
      | .error _ => false) = true := by
  unfold FromF0; decide +kernel

def removingS (z : Bool) : State := State.onPart 0 (fun x => { x with
  phase := .removing, removeZeroing := z, drainedAt := some 0, removeCmd := some c0, resv := { dieMask := 1 } })
  { devS with sys := { beat := 2 } }

theorem test_remove_hypotheses : FromF0 runS c0 ∧ (0 : U8).toNat = (0 : Part).val ∧ (runS.part 0).phase ≠ .absent
    ∧ (runS.part 0).phase ≠ .removing ∧ ((removingS false).part 0).phase = .removing ∧ ((removingS false).part 0).removeZeroing = false
    ∧ ((removingS false).part 0).drainedAt = some 0 ∧ 0 + 2 ≤ (removingS false).sys.beat
    ∧ ((removingS true).part 0).removeZeroing = true ∧ ((removingS true).part 0).removeCmd = some c0 ∧ FromF0 (removingS true) c0 := by
  unfold FromF0; decide +kernel

/-- A signed image without rings, maps or words: one job of one entry, one program of no words (R163 to R168). -/
def signer : U512 :=
  0x26efcebd0ee9e34a669187e18b3a9122b2f733945b649cc9f9f921e9f9dad81290238bde9cc7bb330d150c67704dd25ae7055205744b6f31bf4070745872d0e6
def imageSig : U512 :=
  0x0da275885628883424335080e985244a9524ac1c16b172259b988561039174edeea568e73685c08e4991d6a0fa86d865bdc59aee58580d68e161e33fe0c5246d
def sectionRow (t d j o n : Nat) : Bytes :=
  leBytes 2 t ++ leBytes 1 d ++ leBytes 1 j ++ zeroBytes 4 ++ leBytes 8 o ++ leBytes 8 n ++ zeroBytes 8
def imageBytes : Bytes :=
  leBytes 4 0x4E544843 ++ leBytes 2 1 ++ leBytes 2 256 ++ leBytes 8 3008 ++ [1, 0, 1, 1] ++ zeroBytes 4 ++ leBytes 2 100 ++ leBytes 2 6
    ++ leBytes 4 1024 ++ zeroBytes 16 ++ leBytes 4 1 ++ zeroBytes 204 ++ sectionRow 4 255 255 448 2048
    ++ sectionRow 5 255 255 2496 0 ++ sectionRow 6 255 255 2496 0 ++ sectionRow 7 255 255 2496 16 ++ sectionRow 8 0 255 2560 128
    ++ sectionRow 9 0 0 2688 144
    ++ ((List.range 8).flatMap fun _ => zeroBytes 164 ++ [1, 0, 0, 0, 0, 0, 0, 0, 0, 32, 2, 0] ++ zeroBytes 80)
    ++ (leBytes 4 1 ++ zeroBytes 60) ++ (leBytes 4 1 ++ zeroBytes 124)
    ++ (leBytes 4 1000 ++ zeroBytes 16 ++ (List.range 31).flatMap (fun _ => [255, 255, 15, 0]) ++ zeroBytes 48)
    ++ Crypto.bytes512 signer ++ Crypto.bytes512 imageSig
/-- An IDLE partition whose PART_LOAD reads `b` (a re-enacted command takes its operand from the log, R268). -/
def idleS (b : Bytes) : State := State.onPart 0 (fun x => { x with
  phase := .idle, twin := { operand := some b },
  resv := { dieMask := 1, memBw := 330, imageSignerHash := 0xcbc1cf36f3dc5fe3a7ac195890c4cbb0f81792c3b3d2ae85096d84decf1a8031 } }) devS

theorem test_load_hypotheses : FromPart (idleS []) cp 0 0x08 ∧ 1 ≤ (3008 : U64).toNat ∧ (3008 : U64).toNat ≤ 2 ^ 30
    ∧ testHolds (idleS []) 0 = false ∧ ((idleS []).part 0).allFree = true ∧ ((idleS []).part 0).img.load = none := by
  unfold FromPart; decide +kernel
/-- The state after the operand is read. -/
def readS : State := (readOperand 0 0 3008 (idleS imageBytes)).1
theorem test_load_operand : (readOperand 0 0 3008 (idleS imageBytes)).2 = .ok imageBytes := by decide +kernel
/-- The checks of R170 that an image passes once it is parsed and its signature verified. -/
def passes (s : State) (p : Part) (i : Image) : Bool :=
  decide (i.dieCount = (s.diesOf p).length) && jobsPreempt i && (check7 i).2 == .ok && (check8 i s.sys.beatPeriod s.pwr.tSoft).isNone
    && (s.diesOf p).zipIdx.all (fun (d, n) => (i.clusterUse.getD n 0) &&& ~~~(s.dies[d]).capacity == 0)
    && decide (i.powerBudget + otherBudgets s p ≤ 4 * powerLimit) && floorReachable s p i && mapFits s p i
    && trafficFits i (s.part p).resv.memBw s.sys.beatPeriod && entropyStatus s == .ok
theorem test_load_checks {s : State} {p : Part} {b : Bytes} {i : Image} {key sig : U512} (e : parseImage b = .ok i)
    (hk : Crypto.of512 (fieldB (b.drop (b.length - 128)) 0 64) = key) (hg : Crypto.of512 (fieldB (b.drop (b.length - 128)) 64 64) = sig)
    (hh : Crypto.keyHash key = (s.part p).resv.imageSignerHash) (hv : Crypto.verifyMsg key (b.take (b.length - 64)) sig = true)
    (rest : passes s p i = true) : loadChecks s p b = .ok i := by
  simp only [passes, Bool.and_eq_true, decide_eq_true_eq, beq_iff_eq, Option.isNone_iff_eq_none] at rest
  obtain ⟨⟨⟨⟨⟨⟨⟨⟨⟨d, j⟩, c7⟩, c8⟩, use⟩, power⟩, floor⟩, map⟩, traffic⟩, src⟩ := rest
  unfold loadChecks
  rw [e]
  simp only [hk, hg]
  rw [if_neg (by rw [hh]; simp), if_neg (by rw [hv]; simp), if_neg (by rw [d, j]; simp), if_neg (by rw [c7]; simp)]
  rw [c8]
  simp only [use, floor, map, traffic, src]
  rw [if_neg (Nat.not_lt.mpr power)]
  simp
theorem test_load_fields : Crypto.of512 (fieldB (imageBytes.drop (imageBytes.length - 128)) 0 64) = signer
    ∧ Crypto.of512 (fieldB (imageBytes.drop (imageBytes.length - 128)) 64 64) = imageSig
    ∧ Crypto.keyHash signer = (readS.part 0).resv.imageSignerHash := by decide +kernel
def padded (m : Bytes) : Bytes := m ++ [0x80] ++ zeroBytes ((119 - m.length % 64) % 64) ++ beBytes 8 (8 * m.length)
theorem test_sha_padded (m : Bytes) :
    Crypto.sha256 m = BitVec.ofNat 256 (Crypto.shaBlocks ((padded m).length / 64) Crypto.shaStart (padded m)) := rfl
/-- The signed bytes with their padding. -/
def signedBlocks : Bytes := padded (imageBytes.take (imageBytes.length - 64))
theorem test_sha_split (m n v : Nat) (b : Bytes) :
    Crypto.shaBlocks (m + n) v b = Crypto.shaBlocks n (Crypto.shaBlocks m v b) (b.drop (64 * m)) := by
  induction m generalizing v b with
  | zero => simp [Crypto.shaBlocks]
  | succ m ih => rw [Nat.succ_add]; simp only [Crypto.shaBlocks, ih, List.drop_drop]; congr 2; omega
theorem test_sha_1 : Crypto.shaBlocks 16 Crypto.shaStart signedBlocks
    = 47434006916971665056306030511702680029253617046577146650065846557181393517394 := by decide +kernel
theorem test_sha_2 : Crypto.shaBlocks 16 47434006916971665056306030511702680029253617046577146650065846557181393517394 (signedBlocks.drop 1024)
    = 18933458631907903606663517038985917472944785472955742030603464928696958620871 := by decide +kernel
theorem test_sha_3 : Crypto.verify signer (BitVec.ofNat 256 (Crypto.shaBlocks 15
    18933458631907903606663517038985917472944785472955742030603464928696958620871 (signedBlocks.drop 2048))) imageSig = true := by decide +kernel
theorem test_load_signature : Crypto.verifyMsg signer (imageBytes.take (imageBytes.length - 64)) imageSig = true := by
  have n : signedBlocks.length / 64 = 16 + (16 + 15) := by decide +kernel
  have p : padded (imageBytes.take (imageBytes.length - 64)) = signedBlocks := by unfold signedBlocks; rfl
  rw [Crypto.verifyMsg, test_sha_padded, p, n, test_sha_split, test_sha_1, test_sha_split 16 15, test_sha_2, List.drop_drop]
  exact test_sha_3
theorem test_load_parses : (match parseImage imageBytes with
    | .ok i => passes readS 0 i
    | .error _ => false) = true := by decide +kernel
theorem test_load_accepts : ∃ i, loadChecks readS 0 imageBytes = .ok i := by
  obtain ⟨key, sig, hash⟩ := test_load_fields
  have rest := test_load_parses
  cases e : parseImage imageBytes with
  | error => rw [e] at rest; cases rest
  | ok i => rw [e] at rest; exact ⟨i, test_load_checks e key sig hash test_load_signature rest⟩
theorem test_load_refuses :
    (match readOperand 0 0 1 (idleS [0]) with
      | (s1, .ok b) => match loadChecks s1 0 b with
        | .ok _ => false
        | .error (n, sec, st) => n == 3 && sec == noSection && st == .invalidCommand
      | _ => false) = true := by decide +kernel

def loadingS (checked : Bool) : State := State.onImg 0 (fun x => { x with load := some ⟨cp, img, checked, some []⟩ }) (idleS [])
def faultRec : FaultRec := ⟨4, 0x100000, .cluster 0 0, true, 0⟩
def faultS : State := State.onMem 0 (fun m => { m with faults := [faultRec] }) runS

theorem test_load_progress_hypotheses : ((loadingS false).part 0).img.load = some ⟨cp, img, false, some []⟩
    ∧ ((loadingS false).part 0).allFree = true ∧ canGenerate devS 0 = true ∧ canGenerate { devS with rng := {} } 0 = false ∧ diesReady (loadingS true) 0 img.minOp = true := by decide +kernel
theorem test_load_answers : Answers (loadingS true) cp 0x08 := by change List.contains _ _ = false; decide +kernel
theorem test_resume_hypotheses : FromPart faultS cp 0 0x34 ∧ namedFaults (faultS.part 0).mem (4 : U32).toNat = [faultRec]
    ∧ (∀ g ∈ (faultS.part 0).mem.faults, g.waits = true → g.agent = .cluster 0 0 → g.id = faultRec.id) := by
  unfold FromPart; decide +kernel

/-- The cluster's entry is not done, and it runs again. -/
def resumeS : State := { (State.onImg 0 (fun x => { x with image := some { img with schedules := [[[⟨1000, 0, 0, false, [some 0]⟩]]] } }) faultS) with
  clusters := [] }
theorem test_resume_run_hypotheses : FromPart resumeS cp 0 0x34 ∧ namedFaults (resumeS.part 0).mem (4 : U32).toNat = [faultRec]
    ∧ (resumeS.part 0).img.kind = .run ∧ (resumeS.part 0).img.image.isSome = true ∧ (resumeS.cluster 0 0).running = false
    ∧ (imageDies resumeS 0).find? (fun x => x.2 == 0) = some (0, 0) ∧ refOf resumeS 0 0 0 = some 0 ∧ isDone resumeS 0 0 0 = false
    ∧ clockOff resumeS 0 = false := by
  unfold FromPart; decide +kernel

/-- The device's instance waits for input. -/
def dryS : State := devS.onRng fun r => { r with pool := [] }
theorem test_dry_hypotheses : canGenerate devS 0 = true ∧ entropyStatus devS = .ok ∧ canGenerate dryS 0 = false ∧ entropyStatus dryS = .ok
    ∧ FromF0 dryS c0 ∧ (match createChecks (dryS.onKey fun k => { k with scanOpen := false }) 0x1000 with
      | .ok (p, r) => p == 0 && r.memBw != 0
      | .error _ => false) = true := by
  unfold FromF0; decide +kernel

/-! ### Rounds -/

/-- A signed policy of a masked round (R28): round 0x0A31 of 32 elements, cohort 3 to 6. -/
def policyBlock : Bytes :=
  [87, 78, 88, 80, 1, 0, 0, 0, 49, 10] ++ zeroBytes 6 ++ [1] ++ zeroBytes 15 ++ [32] ++ zeroBytes 7 ++ [3, 0, 0, 0, 6,
  0, 0, 0, 20, 0, 0, 0, 50, 0, 0, 0, 40] ++ zeroBytes 7 ++ [1, 2, 3, 4, 5, 6, 7, 8, 9, 10, 11, 12, 13, 14, 15, 16, 17,
  18, 19, 20, 21, 22, 23, 24, 25, 26, 27, 28, 29, 30, 31, 32, 10, 1, 2, 0, 6, 0, 0, 0, 1] ++ zeroBytes 55 ++ [1] ++
  zeroBytes 37 ++ [240, 63] ++ zeroBytes 88 ++ [14, 145, 199, 35, 156, 38, 64, 215, 210, 138, 62, 57, 212, 88, 63,
  166, 60, 11, 192, 165, 223, 100, 164, 254, 103, 46, 87, 48, 69, 202, 120, 150, 93, 246, 92, 59, 85, 13, 186, 34, 26,
  34, 115, 59, 184, 224, 189, 109, 126, 104, 131, 53, 117, 231, 165, 174, 19, 128, 70, 84, 49, 64, 173, 85, 195, 163,
  217, 121, 249, 205, 60, 75, 104, 232, 255, 162, 202, 229, 142, 204, 38, 6, 34, 84, 21, 147, 86, 128, 43, 164, 70, 0,
  172, 214, 57, 122, 41, 96, 64, 142, 204, 240, 204, 78, 92, 165, 99, 203, 132, 78, 37, 240, 12, 59, 7, 172, 21, 232,
  184, 96, 204, 190, 193, 58, 96, 140, 83, 42]
def imgR : Image := { img with
  policySignerHash := 0x764ce325b1320a28a105e0135d2f42bd6e5e1a47b2f6b91ca3f79dd6b12b6d82, measurement := 0x102030405060708090a0b0c0d0e0f101112131415161718191a1b1c1d1e1f20,
  layouts := [⟨.masked, 1, 0, 0, 1024, 0x1000100000, 0x1000200000, 65536, 65536, 16⟩] }
/-- The running partition in beat 100, with `imgR` loaded and context 0 changed. -/
def roundS (f : RoundCtx → RoundCtx) : State :=
  State.onCtx 0 0 f (State.onImg 0 (fun x => { x with image := some imgR }) { runS with sys := { beat := 100 } })
def openS : State := State.onTwin 0 (fun w => { w with operand := some policyBlock }) (roundS id)

theorem test_open_hypotheses : FromPart openS cp 0 0x10 ∧ NotReplaying openS 0 ∧ (openS.part 0).phase = .loaded
    ∧ (openS.part 0).img.image ≠ none ∧ testHolds openS 0 = false := by
  unfold FromPart NotReplaying; decide +kernel
theorem test_open_accepts :
    (match readOperand 0 0 policyBytes openS with
      | (s1, .ok b) => (slotFault s1 0 (va 65536) 256).isNone && match openChecks (judgeSigner 0 b s1) 0 cp b (va 65536) 256 0 with
        | .ok (k, o) => k == 0 && o.openBeat == 101
        | .error _ => false
      | _ => false) = true := by decide +kernel

def maskedPol : Policy := { roundId := 0x0A31, stretchLen := 32, minCohort := 3, maxCohort := 6, deadlineBeats := 20, recoveryBeats := 50,
                            finalizeBeats := 40, modeParams := [10, 1, 2, 0, 6, 0, 0, 0, 1] }
def ref : RoundRef := ⟨0, 0x0A31⟩
/-- Context 0 in a phase. -/
def inPhase (ph : RoundPhase) (f : RoundCtx → RoundCtx := id) : State := roundS fun c => f { c with
  phase := ph, policy := maskedPol, openBeat := 80, lastBeat := 99, slotVA := va 65536, slotBytes := 256,
  header := { roundId := 0x0A31, format := 1 }, tal := { payloadLen := 128 } }
def claim : OpenClaim := ⟨cp, 100, 99, maskedPol, 0, 0, va 65536, 256, true⟩
def claimS : State := roundS fun c => { c with claim := some claim }

theorem test_open_effect_hypotheses : (claimS.ctx 0 0).claim = some claim ∧ claim.openBeat ≤ claimS.beatOf 0
    ∧ (claimS.part 0).phase = .loaded ∧ HeaderAt claimS 0 0 claim.slotVA 65536 ∧ claim.cmd.fn = .part 0 := by
  unfold HeaderAt; decide +kernel
theorem test_open_effect_answers : Answers claimS claim.cmd 0x10 := by change List.contains _ _ = false; decide +kernel

theorem test_close_hypotheses : let s := inPhase .opened fun c => { c with admitted := 6 }
    FromPart s cp 0 0x11 ∧ NotReplaying s 0 ∧ NamesRound s 0 0 ref ∧ (s.ctx 0 0).phase = .opened ∧ (s.ctx 0 0).lastBeat < s.beatOf 0
      ∧ (s.ctx 0 0).policy.maxCohort ≤ (s.ctx 0 0).admitted := by
  unfold FromPart NotReplaying NamesRound; decide +kernel
theorem test_close_work_hypotheses :
    let s := inPhase .closing fun c => { c with stampsDone := true, finalRun := true, masked := { classified := true, merged := [0] } }
    closeReady s 0 0 = true := by decide +kernel
theorem test_recovery_hypotheses : let s := inPhase .closing fun c =>
      { c with lastBeat := 49, masked := { queue := [⟨cp, [], 0, 0⟩] } }
    (s.ctx 0 0).phase = .closing ∧ (s.ctx 0 0).lastBeat + (s.ctx 0 0).policy.recoveryBeats < s.beatOf 0
      ∧ closeReady s 0 0 = false ∧ ∀ j ∈ (s.ctx 0 0).masked.queue, j.cmd.fn = .part 0 := by decide +kernel

theorem test_finalize_hypotheses : let s := inPhase .closed fun c => { c with included := 3 }
    FromPart s cp 0 0x13 ∧ NotReplaying s 0 ∧ NamesRound s 0 0 ref ∧ (s.ctx 0 0).phase = .closed
      ∧ ledgerUsable (judgeEntry 0 0 (s.ctx 0 0).policy.signer s) (s.ctx 0 0).policy.signer (s.ctx 0 0).policy.roundId = true ∧ (s.ctx 0 0).policy.minCohort ≤ (s.ctx 0 0).included
      ∧ roundPoisoned s 0 0 = false ∧ (s.ctx 0 0).policy.draws = false ∧ HeaderAt s 0 0 (s.ctx 0 0).slotVA 65536
      ∧ Memory.wf s.mem = true := by
  unfold FromPart NotReplaying NamesRound HeaderAt; decide +kernel
theorem test_finalize_draws : let s : State := { inPhase .closed with rng := devS.rng, clk := devS.clk }
    (s.part 0).paired = false ∧ (s.ctx 0 0).ownNoise = none ∧ canGenerate s (partInst 0) = true := by decide +kernel
theorem test_finalize_small_cohort : (((inPhase .closed fun c => { c with included := 2 }).ctx 0 0).included
    < ((inPhase .closed).ctx 0 0).policy.minCohort) := by decide +kernel

def finS (step : FinStep) (f : RoundCtx → RoundCtx := id) : State :=
  inPhase .finalizing fun c => f { c with finStep := step, finCmd := some cp, finDeadline := 99, included := 3 }

theorem test_pipeline_hypotheses : let s := finS .pipeline fun c => { c with tal := { c.tal with step := 6 } }
    (s.ctx 0 0).phase = .finalizing ∧ (s.ctx 0 0).finStep = .pipeline ∧ (s.ctx 0 0).tal.step = 6 ∧ countNonfinite s 0 0 = 0
      ∧ (s.ctx 0 0).policy.twinRelease = false ∧ NotReplaying s 0
      ∧ ledgerUsable (judgeEntry 0 0 (s.ctx 0 0).policy.signer s) (s.ctx 0 0).policy.signer (s.ctx 0 0).policy.roundId = true := by
  unfold NotReplaying; decide +kernel
/-- An INT32 aggregate one of whose values was not finite before conversion (R148). -/
theorem test_nonfinite_hypotheses : let s := finS .pipeline fun c => { c with
      policy := { maskedPol with releaseParams := [5] }, tal := { c.tal with step := 6, cover := [(8, 0, 0)] } }
    (s.ctx 0 0).finStep = .pipeline ∧ (s.ctx 0 0).tal.step = 6 ∧ 0 < countNonfinite s 0 0 ∧ (s.ctx 0 0).policy.nonfiniteRelease = false
      ∧ (s.ctx 0 0).finCmd = some cp ∧ HeaderAt s 0 0 (s.ctx 0 0).slotVA 65536 := by
  unfold HeaderAt; decide +kernel
theorem test_slot_write_hypotheses : let s := finS .writing
    (s.ctx 0 0).phase = .finalizing ∧ (s.ctx 0 0).finStep = .writing ∧ (s.ctx 0 0).headerWait = .none ∧ (s.ctx 0 0).finCmd = some cp
      ∧ cp.fn = .part 0 ∧ HeaderAt s 0 0 (s.ctx 0 0).slotVA 65536 ∧ Memory.wf s.mem = true
      ∧ firstFault s 0 ((s.ctx 0 0).slotVA + 64) (s.ctx 0 0).tal.payloadLen 4 = none := by
  unfold HeaderAt; decide +kernel
theorem test_finalize_answers : Answers (finS .writing) cp 0x13 := by change List.contains _ _ = false; decide +kernel
theorem test_staging_error_hypotheses : let s := finS .pipeline
    (s.ctx 0 0).phase = .finalizing ∧ (s.ctx 0 0).finStep = .pipeline ∧ (s.ctx 0 0).headerWait ≠ .readyHeader
      ∧ (s.ctx 0 0).tal.errors = 0 ∧ (s.ctx 0 0).policy.draws = false := by decide +kernel

theorem test_deadline_hypotheses : let s := { finS .pipeline (fun c => { c with finStalled := true }) with rng := { phase := .alarm } }
    (s.ctx 0 0).phase = .finalizing ∧ (s.ctx 0 0).finCmd = some cp ∧ (s.ctx 0 0).finDeadline < s.beatOf 0
      ∧ entropyStalled s 0 0 = true ∧ HeaderAt s 0 0 (s.ctx 0 0).slotVA 65536 := by
  unfold HeaderAt; decide +kernel
theorem test_twin_timeouts_hypotheses :
    (let s := finS .waitTwin fun c => { c with fpSentAt := some 36 }
     (s.ctx 0 0).finStep = .waitTwin ∧ (s.ctx 0 0).fpSentAt = some 36 ∧ 36 + 64 ≤ s.sys.beat) ∧
    (let s := finS .waitNoise fun c => { c with noiseSentAt := some 36 }
     (s.ctx 0 0).finStep = .waitNoise ∧ (s.ctx 0 0).noiseSentAt = some 36 ∧ 36 + 64 ≤ s.sys.beat) := by decide +kernel
theorem test_abort_hypotheses : ∀ ph ∈ [RoundPhase.opened, .closing, .closed, .held],
    FromPart (inPhase ph) cp 0 0x14 ∧ NotReplaying (inPhase ph) 0 ∧ NamesRound (inPhase ph) 0 0 ref ∧ ((inPhase ph).ctx 0 0).phase = ph
      ∧ HeaderAt (inPhase ph) 0 0 ((inPhase ph).ctx 0 0).slotVA 65536 := by
  unfold FromPart NotReplaying NamesRound HeaderAt; decide +kernel
theorem test_abort_end_hypotheses : let s := inPhase .free fun c => { c with aborting := true, abortCmd := some cp }
    (s.ctx 0 0).aborting = true ∧ (s.ctx 0 0).headerWait = .none ∧ (s.ctx 0 0).abortCmd = some cp ∧ cp.fn = .part 0 := by decide +kernel
theorem test_ack_hypotheses : let s := inPhase .released fun c => { c with header := { c.header with length := 128 } }
    FromPart s cp 0 0x15 ∧ NotReplaying s 0 ∧ NamesRound s 0 0 ref ∧ (s.ctx 0 0).phase = .released ∧ (s.ctx 0 0).acking = false
      ∧ agentWaitsAny (s.part 0).mem (.slot 0) = false ∧ firstFault s 0 ((s.ctx 0 0).slotVA + 64) (s.ctx 0 0).header.length 4 = none
      ∧ writeFrom (s.ctx 0 0) ((s.ctx 0 0).slotVA + 64) (s.ctx 0 0).header.length = (s.ctx 0 0).slotVA + 64
      ∧ s.translate 0 ((s.ctx 0 0).slotVA + 64 + 127) 4 = .ok (65536 + 191) := by
  unfold FromPart NotReplaying NamesRound; decide +kernel
theorem test_ack_end_hypotheses : let s := inPhase .released fun c => { c with acking := true, ackCmd := some cp }
    (s.ctx 0 0).phase = .released ∧ (s.ctx 0 0).acking = true ∧ (s.ctx 0 0).headerWait = .none ∧ (s.ctx 0 0).ackCmd = some cp
      ∧ HeaderAt s 0 0 (s.ctx 0 0).slotVA 65536 := by
  unfold HeaderAt; decide +kernel

def seed0 : SeedRec := ⟨false, 0, 0, 5⟩
/-- A list of one self seed, of contributor 0. -/
def seedList : Bytes := zeroBytes 16 ++ List.replicate 32 7
def unmaskS : State := State.onTwin 0 (fun w => { w with operand := some seedList }) (inPhase .closing fun c =>
  { c with bitmap := [0, 1, 2], admitted := 3, masked := { classified := true, segments := 1, needSelf := 3, counts := [(0, 1), (1, 1), (2, 1)] } })

theorem test_unmask_hypotheses : FromPart unmaskS cp 0 0x12 ∧ NotReplaying unmaskS 0 ∧ NamesRound unmaskS 0 0 ref
    ∧ (unmaskS.ctx 0 0).phase = .closing ∧ (unmaskS.ctx 0 0).policy.mode = .masked ∧ (unmaskS.ctx 0 0).policy.groupRank = 0
    ∧ (unmaskS.ctx 0 0).masked.classified = true := by
  unfold FromPart NotReplaying NamesRound; decide +kernel
theorem test_unmask_accepts :
    (match readOperand 0 0 48 unmaskS with
      | (_, .ok b) => match checkSeeds (unmaskS.ctx 0 0) b ((unmaskS.ctx 0 0).masked.queue.flatMap (·.records)) 1 0 [] with
        | .ok l => l.length == 1
        | .error _ => false
      | _ => false) = true := by decide +kernel
theorem test_expansion_hypotheses : let s := inPhase .closing fun c => { c with masked := { segments := 1, counts := [(0, 1)], queue := [⟨cp, [seed0, seed0], 0, 1⟩] } }
    (s.ctx 0 0).phase = .closing ∧ (s.part 0).img.kind = .run ∧ (s.ctx 0 0).masked.queue = [⟨cp, [seed0, seed0], 0, 1⟩]
      ∧ 1 < seedBlocks (s.ctx 0 0) seed0 ∧ ([seed0, seed0] : List SeedRec)[0]? = some seed0 ∧ ([seed0] : List SeedRec)[0]? = some seed0
      ∧ 0 + 1 = ([seed0] : List SeedRec).length := by decide +kernel
theorem test_expansion_answers : Answers (inPhase .closing) cp 0x12 := by change List.contains _ _ = false; decide +kernel

def memberPol : Policy := { maskedPol with modeParams := [10, 1, 2, 0, 6, 0, 0, 0, 2, 1] }
theorem test_member_hypotheses : let s := inPhase .closing fun c =>
      { c with policy := memberPol, finalRun := true, stampsDone := true, masked := { classified := true } }
    memberClosing (s.ctx 0 0) = true ∧ (s.ctx 0 0).finalRun = true ∧ (s.ctx 0 0).masked.handedOff = false := by decide +kernel
theorem test_member_ack_hypotheses : let s := inPhase .closing fun c => { c with policy := memberPol, masked := { handedOff := true } }
    memberClosing (s.ctx 0 0) = true ∧ (s.ctx 0 0).masked.handedOff = true := by decide +kernel
def leaderPol : Policy := { maskedPol with modeParams := [10, 1, 2, 0, 6, 0, 0, 0, 2, 0] }
theorem test_transfer_hypotheses : let s := inPhase .opened fun c => { c with policy := leaderPol }
    let m : MemberTransfer := ⟨1, [(1, 1)], [5], 1⟩
    (s.part 0).bound = false ∧ (s.ctx 0 0).phase = .opened ∧ (s.ctx 0 0).policy.mode = .masked ∧ (s.ctx 0 0).policy.groupRank = 0
      ∧ m.rank.val ≠ 0 ∧ m.rank.val < (s.ctx 0 0).policy.groupSize ∧ m.rank.val ∉ (s.ctx 0 0).masked.merged := by decide +kernel

/-! ### The verifier exchange -/

def fabC : Conn := { state := .ready, fabric := true, remoteConn := 6, txMsg := 4 }
def shS (f : RoundCtx → RoundCtx) : State := { roundS (fun c => f { c with phase := .opened, policy := { sharedPol with
  stretchId := 3, modeParams := [2, 0, 3, 0, 8, 0, 0, 0, 0, 0, 0, 0, 0, 0, 0, 0, 4] } }) with rxt := { conns := [(4, fabC), (5, fabC)] } }
def xh : XchgHead := ⟨5, 1, 2, 7, 3⟩

theorem test_exchange_hypotheses : ((shS id).part 0).paired = false ∧ xchgCtx (shS id) 0 xh = some 0 ∧ fabricConn (shS id) 0 xh.conn = true
    ∧ xchgFrom ((shS id).ctx 0 0).policy xh (.seed 5) = false ∧ xchgFrom ((shS id).ctx 0 0).policy xh (.part 5) = true
    ∧ xchgFrom ((shS id).ctx 0 0).policy { xh with sender := 0 } (.part 5) = false
    ∧ xchgFrom ((shS id).ctx 0 0).policy xh (.share ⟨1, 2, 3, 4⟩) = true ∧ xchgFrom ((shS id).ctx 0 0).policy xh (.done 2 5) = true
    ∧ xchgFrom { sharedPol with modeParams := [2, 1, 3, 0, 8, 0, 0, 0, 0, 0, 0, 0, 0, 0, 0, 0, 4] } { xh with sender := 0, conn := 4 } (.seed 5) = true
    ∧ xchgFrom { sharedPol with modeParams := [2, 1, 3, 0, 8, 0, 0, 0, 0, 0, 0, 0, 0, 0, 0, 0, 4] } { xh with sender := 0, conn := 4 } (.decide .accept) = true
    ∧ Verdict.ofCode (0 : U8).toNat = some .accept := by
  decide +kernel
theorem test_verify_timeout_hypotheses :
    (let s := shS fun c => { c with shared := { index := [(2, { admittedAt := some 91 })] } }
     leads (s.ctx 0 0) = true ∧ (shareOf s 0 0 2).verdict = none ∧ (shareOf s 0 0 2).admittedAt = some 91
       ∧ 91 + (s.ctx 0 0).policy.verifyBeats < s.beatOf 0) ∧
    (let s := shS fun c => { c with shared := { index := [(2, { partAt := some 91 })] } }
     leads (s.ctx 0 0) = true ∧ (shareOf s 0 0 2).verdict = none ∧ (shareOf s 0 0 2).admittedAt = none
       ∧ (shareOf s 0 0 2).partAt = some 91 ∧ 91 + (s.ctx 0 0).policy.verifyBeats < s.beatOf 0) := by decide +kernel
def helperPol : Policy := { sharedPol with modeParams := [2, 1, 3, 0, 8, 0, 0, 0, 0, 0, 0, 0, 0, 0, 0, 0, 4] }
theorem test_helper_hypotheses :
    (let s := shS fun c => { c with phase := .closing, policy := helperPol, stampsDone := true, finalRun := true }
     helperClosing (s.ctx 0 0) = true ∧ (s.ctx 0 0).stampsDone = true ∧ (s.ctx 0 0).finalRun = true ∧ noneStaged s 0 0 = true
       ∧ (s.ctx 0 0).shared.closeSent = false) ∧
    (let s := shS fun c => { c with phase := .closing, policy := helperPol, shared := { closeSent := true } }
     helperClosing (s.ctx 0 0) = true ∧ (s.ctx 0 0).shared.closeSent = true) := by decide +kernel
theorem test_aggregate_hypotheses : ((shS id).part 0).bound = false ∧ leads ((shS id).ctx 0 0) = true ∧ (1 : Fin 4) ≠ 0
    ∧ (1 : Fin 4).val < ((shS id).ctx 0 0).policy.parties ∧ ((shS id).ctx 0 0).shared.merged.getLsbD 1 = false := by decide +kernel

/-! ### Key-sets, grants and connections -/

/-- One block of a set 9: a MULT key, levels 0 to 1 (R98). -/
def keyBlock : Bytes := leBytes 8 9 ++ [1, 0, 1, 0] ++ zeroBytes 4 ++ leBytes 4 0 ++ leBytes 4 1 ++ zeroBytes 4072
def ksS : State := State.onTwin 0 (fun w => { w with operand := some keyBlock }) runS

theorem test_keyset_hypotheses : FromPart ksS cp 0 0x30 ∧ (2 : U8).toNat = (2 : Fin 16).val
    ∧ (((ksS.part 0).keysets[(2 : Fin 16)]).registered && keysetUsed (ksS.part 0) ((ksS.part 0).keysets[(2 : Fin 16)]).id.toNat) = false := by
  unfold FromPart; decide +kernel
theorem test_keyset_loads :
    (match readOperand 0 0x1000030000 (4096 * 1) ksS with
      | (s1, .ok b) => allDram s1 0 0x1000030000 (4096 * 1) && !((s1.part 0).keysets.toList.any fun k => k.registered)
          && match scanKeyset (s1.imageOf 0) 1 b with
            | .ok keys => keys.length == 1
            | .error _ => false
      | _ => false) = true := by decide +kernel
def combPol : Policy := { encPol with modeParams := [1, 0, 1, 1, 0, 0, 1, 0, 5, 0, 0, 0, 0, 0, 0, 0, 1, 0, 0, 0, 0, 0, 0, 0, 0, 0, 0, 0, 16] }
theorem test_combine_source_hypotheses : let s := roundS fun c => { c with phase := .closing, policy := combPol, enc := { headersSet := true } }
    (s.ctx 0 0).phase = .closing ∧ (s.ctx 0 0).policy.mode = .encrypted ∧ (s.ctx 0 0).policy.combine = true
      ∧ (s.ctx 0 0).enc.sourceRead = false ∧ (s.ctx 0 0).enc.headersSet = true
      ∧ (s.imageOf 0).rings[(s.ctx 0 0).policy.paramSet]? = some ring ∧ s.leadDie 0 = some 0
      ∧ agentWaitsAny (s.part 0).mem (.cluster 0 0) = false
      ∧ firstFault s 0 (s.ctx 0 0).policy.sourceVA ((s.ctx 0 0).policy.ctCount * (64 + Policy.bodyBytes ring 2 (s.ctx 0 0).policy.level)) 0
        = none := by decide +kernel
/-- The source's bytes, and a policy that names them. -/
def sourceHead : ObjHeader := { headerFields (objS.bytesAt 0 64) with fmt := 1, level := 1, ntt := combPol.encNtt, poisoned := false }
def sourceBytes : Bytes := sourceHead.bytes ++ zeroBytes (Policy.bodyBytes ring 2 1)
def namedPol : Policy := { combPol with
  modeParams := (combPol.modeParams ++ zeroBytes (32 - combPol.modeParams.length)) ++ Crypto.bytes256 (Crypto.sha256 sourceBytes) }
theorem test_combine_source_good : let s := State.onTwin 0 (fun w => { w with operand := some sourceBytes }) (roundS fun c => { c with
      phase := .closing, policy := namedPol, enc := { headersSet := true } })
    (s.ctx 0 0).policy.mode = .encrypted ∧ (s.ctx 0 0).policy.combine = true ∧ (s.imageOf 0).rings[(s.ctx 0 0).policy.paramSet]? = some ring
      ∧ (s.ctx 0 0).policy.ctCount = 1 ∧ (s.ctx 0 0).policy.level = 1 ∧ (s.ctx 0 0).policy.shamir = false
      ∧ (match readOperand 0 namedPol.sourceVA (1 * (64 + Policy.bodyBytes ring 2 1)) s with
        | (s1, .ok b) => Crypto.sha256 b == namedPol.sourceDigest && !poisonVA s1 0 namedPol.sourceVA (1 * (64 + Policy.bodyBytes ring 2 1)) 0
            && sourceOk namedPol ring ((b.drop 0).take 64)
        | _ => false) = true := by decide +kernel
theorem test_repair_hypotheses : runS.ownerOf 0 = some 0 ∧ (runS.part 0).img.image = some img ∧ (runS.cluster 0 0).running = true := by
  decide +kernel

def grantS (g : Grant) (l : List Placement) : State :=
  State.onRx 0 (fun r => { r with accessKey := 7, grants := [(3, g)], inFlight := l }) (roundS id)
def active : Grant := { state := .active, perms := 3, inFlight := 1, va := va 65536, length := 1024, conn := 5 }
def placement : Placement := ⟨3, 0, 5, 10, 2, 0, 3, va 65536, [1, 2, 3, 4]⟩

theorem test_grant_hypotheses :
    (FromPart (roundS id) cp 0 0x20 ∧ grantFieldsOk 3 5 0x1000010000 1024 = true ∧ freeGrant (roundS id) 0 = some 0) ∧
    (let s := grantS active [placement]
     Memory.wf s.mem = true ∧ (s.part 0).rxt.inFlight.find? (·.grant == (3 : Fin 4096).val) = some placement
       ∧ Placeable s 0 placement.va placement.data.length 65536) ∧
    (FromPart (grantS active []) cp 0 0x21 ∧ (3 : U16).toNat < 4096 ∧ (grantOf (grantS active []) 0 3).state = .active) ∧
    (let s := grantS { active with state := .revoking, inFlight := 0, revokeCmd := some cp } []
     (s.part 0).phase ≠ .removing ∧ (grantOf s 0 3).state = .revoking ∧ (grantOf s 0 3).inFlight = 0
       ∧ (grantOf s 0 3).revokeCmd = some cp ∧ cp.fn = .part 0) := by
  unfold FromPart Placeable; decide +kernel

/-- Connection numbers 5 (user) and 0xF00005 (fabric) of partition 0, on sub-port 0 of port 0. -/
def userSpec : ConnSpec := ⟨5, 0, 0, 1, 10, 6, 4, 0, 0, 0, 0⟩
def fabSpec : ConnSpec := ⟨BitVec.ofNat 32 (fabricBase + 5), 1, 0, 1, 11, BitVec.ofNat 32 (fabricBase + 6), 4, 0, 0, 0, 0⟩
def netS (conns : Tbl Conn) : State := { devS with
  parts := (State.onPart 0 (fun x => { x with resv := { x.resv with portBw := Vector.replicate 16 100 } }) (roundS id)).parts
  dies := runS.dies, sys := { beat := 100 }, rxt := { ctxCount := 16, conns := conns, cache := Vector.replicate 4 [5] } }

theorem test_conn_create_hypotheses : FromPart (netS []) cp 0 0x22 ∧ connFieldsOk userSpec = true ∧ connFieldsOk fabSpec = true
    ∧ reserved (netS []) 0 (homeOf userSpec.ports) = true ∧ failoverOf userSpec.ports = homeOf userSpec.ports
    ∧ ((netS []).conn userSpec.conn.toNat).state = .free ∧ isFabric userSpec = false
    ∧ userSpec.conn.toNat < (netS []).rxt.ctxCount ∧ Memory.wf (netS []).mem = true ∧ isFabric fabSpec = true
    ∧ pinnedOn (netS []) ((homeOf fabSpec.ports).1.val / 2) < 1024 ∧ entropyStatus (netS []) = .ok := by
  unfold FromPart; decide +kernel

def connS (c : Conn) : State := netS [(5, c)]
def fabN : Nat := fabricBase + 5
def fabS (c : Conn) : State := netS [(fabN, { c with fabric := true })]

theorem test_connecting_hypotheses :
    (let s := fabS { state := .connecting, createCmd := some cp, agreed := true }
     (s.conn fabN).state = .connecting ∧ (s.conn fabN).createCmd = some cp ∧ (s.conn fabN).agreed = true) ∧
    (let s := fabS { state := .connecting, createCmd := some cp }
     (s.conn fabN).agreed = false ∧ (s.conn fabN).fabric = true ∧ ConnsRise s) ∧
    (FromPart (connS { state := .ready }) cp 0 0x23 ∧ ((connS { state := .ready }).conn 5).part = 0
      ∧ ((connS { state := .ready }).conn 5).state = .ready ∧ ((connS { state := .ready }).conn 5).createCmd = none) ∧
    (let s := fabS { state := .draining, destroyCmd := some cp }
     (s.conn fabN).state = .draining ∧ (s.conn fabN).inFlight = 0 ∧ ConnsRise s ∧ (s.part (s.conn fabN).part).phase ≠ .removing
       ∧ (s.conn fabN).destroyCmd = some cp ∧ (s.conn fabN).fabric = true) := by
  unfold FromPart ConnsRise; decide +kernel
theorem test_conn_answers : Answers (connS {}) cp 0x22 := by change List.contains _ _ = false; decide +kernel

def offer : ConnectBody := ⟨1, 0, 3, 0, 6, 1, 4, 0, 0, 0, 0, 0, 0, 0, 0, 0, 0⟩
theorem test_agreement_hypotheses : let s := fabS { state := .connecting, createCmd := some cp, remoteConn := 6 }
    ForConnecting s fabN offer ∧ (s.conn fabN).fabric = true ∧ ConnsRise s ∧ (s.conn fabN).createCmd = some cp := by
  unfold ForConnecting ConnsRise; decide +kernel
/-- A peer that no entry of the allow-list names is refused; one that passes cannot be written out, as its signature covers a
free value (R296, R310). -/
theorem test_agreement_refuses : let s := fabS { state := .connecting, remoteConn := 6 }
    peerRefused s (s.conn fabN) offer ≠ none := by
  intro s; unfold peerRefused
  have h : ((s.part (s.conn fabN).part).peerAllow.any fun e => e.2 != 0 &&
      e.2 == Crypto.sha256 (Crypto.bytes512 offer.deviceId ++ Crypto.bytes256 offer.fwMeasure ++ Crypto.bytes256 offer.chitin)) = false := by
    decide +kernel
  split
  · simp
  · rw [if_pos (by rw [h]; rfl)]; simp

/-! ### Packets -/

def subUp : SubState := { linkUp := true, hs := .done, ipv4 := 0x0A000001, assoc := some ⟨1, 2, 0, 0⟩, oldAssoc := none }
def onLink0 (s : State) : State := s.onSub 0 0 fun _ => subUp
/-- A user connection, its grant, and a whole WRITE of four bytes. -/
def rxC : Conn := { state := .ready, remoteIp := 0x0A000002, remoteConn := 6, txPsn := 20, ports := 0 }
def rxS (c : Conn) : State := onLink0 (State.onRx 0 (fun r => { r with accessKey := 7, grants := [(3, active)] }) (connS c))
def sec0 : SecTag := ⟨true, true, 0⟩
def frame (grant : U16) (key : U64) (flags : U8) (b : Bytes) : RxtFrame :=
  ⟨0, 0, sec0, 0x0A000001, 0x1C7A, 0x0A000002, 1, 0, flags, 0, 5, 0, 0, 0, BitVec.ofNat 16 b.length, grant, 0, 0, key, b, 0, false, 0⟩

theorem test_frame_hypotheses : FrameAccepted (rxS rxC) (frame 3 7 3 [1, 2, 3, 4]) := by unfold FrameAccepted FrameAdmitted CacheFits; decide +kernel
theorem test_write_hypotheses : InSequence (rxS rxC) opWrite (frame 3 7 3 [1, 2, 3, 4])
    ∧ grantCheck (rxS rxC) 5 (frame 3 7 3 [1, 2, 3, 4]) = .ok := by unfold InSequence psnOf; decide +kernel

def entry : RecvEntry := ⟨9, 0xFFFFFFFFFFFFFFFF, va 131072, 4096, false⟩
def recvS : State := State.onRx 0 (fun r => { r with receive := [(4, entry)] }) (rxS rxC)
theorem test_tagged_hypotheses : let f := frame 0 9 3 [1, 2, 3, 4]
    FrameAccepted recvS f ∧ InSequence recvS opTagged f ∧ tfind (recvS.conn 5).msgs f.msgId.toNat = none ∧ Memory.wf recvS.mem = true
      ∧ bindTagged recvS 0 f.keyOrTag = some (.entry 4 (va 131072) 4096) ∧ f.offset.toNat + f.payload.length ≤ 4096
      ∧ Placeable recvS 0 (va 131072 + f.offset.toNat) f.payload.length 131072 := by
  unfold FrameAccepted FrameAdmitted CacheFits InSequence psnOf Placeable; decide +kernel
def poolImg : Image := { img with layouts := [⟨.masked, 1, 0, 0, 1024, va 0, va 65536, 64, 256, 6⟩] }
def fullS (used : List Nat) : State := State.onRx 0 (fun r => { r with poolSlots := [(0, used)] })
  (State.onImg 0 (fun x => { x with image := some poolImg }) (State.onCtx 0 0 (fun c => { c with phase := .opened, policy := maskedPol }) (rxS rxC)))
theorem test_pool_hypotheses : let f := frame 0 (tagOf 1 0 0 0x0A31) 3 [1, 2, 3, 4]
    (∃ x a, bindTagged (fullS []) 0 f.keyOrTag = some (.pool 0 a x)) ∧ FrameAccepted (fullS []) f ∧ InSequence (fullS []) opTagged f := by
  refine ⟨⟨_, _, rfl⟩, ?_, ?_⟩
  · unfold FrameAccepted FrameAdmitted CacheFits; decide +kernel
  · unfold InSequence psnOf; decide +kernel

/-- XFER and CANCEL on a fabric connection, sealed under the peer's transfer key. -/
def fabX : Conn := { state := .ready, fabric := true, remoteIp := 0x0A000002, remoteConn := 6, txPsn := 20, ports := 0, peerKey := some 7,
                     landingVA := va 65536, landingLen := 4096 }
def fabRx : State := onLink0 (netS [(fabN, fabX)])
/-- A frame to it, with its seal. -/
def fabFrame (op : U8) (fl : U8) (b : Bytes) : RxtFrame :=
  let head := rxtHeader op.toNat 0 (fl.toNat % 8) 0 fabN 0 0 0 b.length 0 0 0
  ⟨0, 0, sec0, 0x0A000001, 0x1C7A, 0x0A000002, 1, 0, fl, 0, BitVec.ofNat 24 fabN, 0, 0, 0, BitVec.ofNat 16 b.length, 0, 0, 0, 0, b,
    Crypto.gcmTag 7 (sealNonce 0 6 0) head b, false, 0⟩

theorem test_xfer_hypotheses : let f := fabFrame opXfer 7 [1, 2]
    FrameAccepted fabRx f ∧ InSequence fabRx opXfer f ∧ f.offset.toNat + (unsealed fabX 0 f).length ≤ fabX.landingLen
      ∧ psnOf fabRx f = 0 ∧ Memory.wf fabRx.mem = true ∧ Placeable fabRx 0 (fabX.landingVA + f.offset.toNat) (unsealed fabX 0 f).length 65536 := by
  unfold FrameAccepted FrameAdmitted CacheFits InSequence psnOf Placeable; decide +kernel
theorem test_cancel_hypotheses : let f := fabFrame opCancel 4 []
    FrameAccepted fabRx f ∧ InSequence fabRx opCancel f ∧ ((fabRx.conn fabN).msgs.map (·.1)).Pairwise (· < ·) := by
  unfold FrameAccepted FrameAdmitted CacheFits InSequence psnOf; decide +kernel

/-- A CONNECT packet to a CONNECTING context (R296). -/
def connectS : State := onLink0 (fabS { state := .connecting, createCmd := some cp, remoteConn := 6, remoteIp := 0x0A000002 })
def connectFrame : RxtFrame :=
  ⟨0, 0, sec0, 0x0A000001, 0x1C7A, 0x0A000002, 1, 0, 0, 0, BitVec.ofNat 24 fabN, 0, 0, 0, 480, 0, 0, 0, 0, zeroBytes 480, 0, false, 0⟩
theorem test_connect_hypotheses : ConnectAccepted connectS connectFrame offer
    ∧ ForConnecting connectS connectFrame.destConn.toNat offer ∧ ConnsRise connectS
    ∧ (connectS.conn connectFrame.destConn.toNat).createCmd = some cp := by
  unfold ConnectAccepted FrameAdmitted ForConnecting ConnsRise; decide +kernel
theorem test_connect_answers : Answers connectS cp 0x22 := by change List.contains _ _ = false; decide +kernel

/-! ### Acknowledgements, and frames that are none -/

def kept : TxPacket := ⟨10, 1, opXfer, 0, 7, [1, 2], 3, 0, 0⟩
def ackS : State := rxS { rxC with unacked := [kept], pathMisses := Vector.replicate 16 3, retries := 16 }
def ackFrame (tag : U64) : RxtFrame := ⟨0, 0, sec0, 0x0A000001, 0x1C7A, 0x0A000002, 1, 0, 0, 0, 5, 0, 10, 0, 0, 0, 0, 0, tag, [], 0, false, 0⟩
theorem test_ack_frame_hypotheses : FrameAccepted ackS (ackFrame 0) ∧ (ackFrame 0).echo = 0 ∧ formOk (ackS.conn 5) opAck (ackFrame 0) = true
    ∧ FrameAccepted ackS (ackFrame 0x0C) ∧ formOk (ackS.conn 5) opNak (ackFrame 0x0C) = true
    ∧ (ackS.conn 5).unacked.any (·.psn == widen (ackS.conn 5).txPsn 10) = true := by unfold FrameAccepted FrameAdmitted CacheFits; decide +kernel
theorem test_nak_codes : Status.notReady.code < 256 ∧ Status.accessDenied.code < 256
    ∧ formOk (ackS.conn 5) opNak (ackFrame (BitVec.ofNat 64 Status.notReady.code)) = true
    ∧ formOk (ackS.conn 5) opNak (ackFrame (BitVec.ofNat 64 Status.accessDenied.code)) = true := by decide +kernel

/-- The context table at host address 0 with one context, its CHECK right, and a fetch of it under way. -/
def tabS : State :=
  let s : State := { fabRx with mem := {}, ports := (onLink0 (netS [(5, rxC)])).ports }
  let s := s.onPort 0 fun x => { x with fetching := [5], waiting := [(opWrite, frame 3 7 3 [1, 2, 3, 4])] }
  let k := ctxKey s 5
  { s with mem := { s.mem with cells :=
      ((ctxCheck s 5 (zeroBytes 248)).zipIdx.map fun b => (k + 248 + b.2, b.1)).filter fun c => c.2 != 0 } }
theorem test_context_fetch_hypotheses : (tabS.ports[(0 : RPort)]).fetching.contains 5 = true
    ∧ tabS.bytesAt (ctxKey tabS 5 + 248) 8 = ctxCheck tabS 5 (tabS.bytesAt (ctxKey tabS 5) 248) := by decide +kernel
theorem test_context_dma : canDma tabS tabS.f0 = true := by decide +kernel
theorem test_cache_hypotheses : pinnedOn tabS 0 < 4096 ∧ (tabS.sub 0 0).linkUp = true := by decide +kernel

/-! ### Messages -/

def wholeMsg (b : MsgBuffer) : OpenMsg := ⟨opTagged, 0, 9, some 0, some 4, [(0, 4)], b, [1, 2, 3, 4], false, [(0, 4)], 0⟩
def msgS : State := rxS { rxC with msgs := [(0, wholeMsg .unexpected)] }
theorem test_message_hypotheses : (msgS.conn 5).state = .ready ∧ (msgS.conn 5).msgs = [((msgS.conn 5).rxMsgBase.toNat, wholeMsg .unexpected)]
    ∧ (wholeMsg .unexpected).whole = true ∧ (wholeMsg .unexpected).passed = false := by decide +kernel
def unexpS (used : List (Nat × RecvEntry)) (tag : U64) : State :=
  State.onRx 0 (fun r => { r with receive := used, unexp := [⟨5, 0, tag, [1, 2, 3, 4], 1⟩] }) (fullS [])
theorem test_unexpected_hypotheses :
    (let s := unexpS [(4, entry)] 9
     oldestMatch s 0 = some (⟨5, 0, 9, [1, 2, 3, 4], 1⟩, .entry 4 (va 131072) 4096) ∧ Memory.wf s.mem = true
       ∧ s.translate 0 (va 131072) 2 = .ok 131072)
    ∧ (∃ m k a z, oldestMatch (unexpS [] (tagOf 1 0 0 0x0A31)) 0 = some (m, .pool k a z) ∧ 0 < m.payload.length
       ∧ ∃ key, (unexpS [] (tagOf 1 0 0 0x0A31)).translate 0 a 2 = .ok key) := by
  refine ⟨by decide +kernel, _, _, _, _, rfl, by decide +kernel, _, rfl⟩

/-! ### Packets sent again -/

theorem test_resend_hypotheses : let c := ackS.conn 5
    c.state = .ready ∧ c.unacked.find? (·.psn == (10 : U64).toNat) = some kept ∧ pathFailLimit ackS ≤ c.pathMisses[(0 : Fin 16)]
      ∧ retryLimit ackS ≤ c.retries ∧ c.fabric = false ∧ Carries ackS (connSub c).1 (connSub c).2 := by unfold Carries; decide +kernel
def sentC : Conn := { rxC with unacked := [kept], rnr := [10], pathFailed := 1, sinceAck := 2, retries := 16, ports := 0x10, cancelDue := [4], keyGen := 1 }
/-- Its transfer key sits in slot 20. -/
def sentS (c : Conn) : State := (onSlot (transferSlot 0) (fun k => { k with
  valid := true, masters := 0xFFFF, usage := 0x1F, lcAllowed := 0x1F, tagOk := true, parent := 0xFF }) (rxS c))
theorem test_waiting_hypotheses : let s := sentS sentC
    (10 : U64).toNat ∈ (s.conn 5).rnr ∧ (s.conn 5).pathFailed.getLsbD 0 = true ∧ 0 < (s.conn 5).sinceAck ∧ (4 : U32) ∈ (s.conn 5).cancelDue
      ∧ sealable s 5 = true ∧ (s.part (s.conn 5).part).silent = false := by decide +kernel
theorem test_failover_hypotheses : let s := rxS { sentC with fabric := true }
    (s.conn 5).state = .ready ∧ retryLimit s ≤ (s.conn 5).retries ∧ (s.conn 5).fabric = true ∧ (s.conn 5).failedOver = false
      ∧ failoverOf (s.conn 5).ports ≠ homeOf (s.conn 5).ports := by decide +kernel

/-! ### Links -/

theorem test_mode_hypotheses : booted devS = true ∧ barOpen devS (.f0 0) = true ∧ devS.hub.managing = 0 ∧ (1 : U32).extractLsb' 0 2 ≠ 3
    ∧ subExists devS 0 0 = true ∧ (devS.sub 0 0).linkUp = false ∧ ((onLink0 devS).sub 0 0).linkUp = true := by decide +kernel
/-- HELLO of a peer with the static key of the private key 12345 and the ephemeral key of 777, signed. -/
def peerHello : HelloFrame := ⟨
  841056686163868639210885909103580895039308639841659596823513061562682878857829815018710533407122560229811072228626772932323696631700774649117257950617274,
  2039282980530190011928875552650979180300691654861827518588299213779223227091203184670556717219343751565287795909820403524573476517664875631392417679331558,
  12766685383837065918496663804779490195003737543394956121295143781188929513789998857247468021409253622699093347655279801485307859429663065946546617428976632⟩
def helloS : SubState := { subUp with
  hs := .waiting, peerHash := 92161939888917754402472601974806062355431687464899864236505624226098411372593
  handshake := { eph := some 99, ownHello := some ⟨1, 2, 3⟩ } }
theorem test_hello_hypotheses : let s := devS.onSub 0 0 fun _ => helloS
    helloOk (s.sub 0 0) peerHello = true ∧ (s.sub 0 0).handshake.eph = some 99 ∧ (s.sub 0 0).handshake.ownHello = some ⟨1, 2, 3⟩ := by
  decide +kernel
theorem test_hello_secret : Crypto.ecdh (99 : U256).toNat peerHello.eph
    = some 85407448368909058748227124809846312153496095757496237599544923162339300565592 := by decide +kernel
theorem test_hello_refused : helloOk helloS ⟨1, 2, 3⟩ = false := by decide +kernel
theorem test_confirm_hypotheses :
    let s := devS.onSub 0 0 fun _ => { helloS with handshake := ⟨none, some ⟨1, 2, 3⟩, some peerHello, some (5, 6), true⟩ }
    (s.sub 0 0).handshake.keys = some (5, 6) ∧ (s.sub 0 0).handshake.ownHello = some ⟨1, 2, 3⟩
      ∧ (s.sub 0 0).handshake.peerHello = some peerHello ∧ confirmMac 6 peerHello ⟨1, 2, 3⟩ ≠ 0 := by decide +kernel
/-- The alias key of slot 3. -/
def aliasS : State := onSlot 3 (fun k => { k with valid := true, value := 12345, masters := 0xFFFF, usage := 0x1F, lcAllowed := 0x1F, tagOk := true, parent := 0xFF })
  (onLink0 devS)
theorem test_rekey_hypotheses : (aliasS.sub 0 0).linkUp = true ∧ entropyStatus aliasS = .ok ∧ hasAlias aliasS = true
    ∧ canGenerate aliasS (linkInst 0) = true ∧ (slotValue 3 mLink uSign aliasS).isSome = true ∧ (aliasS.sub 0 0).assoc.isSome = true := by
  decide +kernel
theorem test_retry_hypotheses : ((aliasS.onSub 0 0 fun x => { x with hs := .failed }).sub 0 0).hs ≠ .done := by decide +kernel
theorem test_address_hypotheses : let x : SubState := { subUp with ipv6 := 5 }
    x.assoc.isSome = true ∧ x.ipv4 = 0x0A000001 ∧ x.ipv4 ≠ 0 ∧ x.ipv6 = 5 := by decide
theorem test_waiting_draw_hypotheses : let s := devS.onRng fun r => { r with waiting := [⟨9, .instantiate⟩, ⟨5, .instantiate⟩] }
    s.rng.phase = .healthy ∧ 2 ≤ s.rng.pool.length ∧ nextWaiting s.rng.waiting = some ⟨5, .instantiate⟩ := by decide +kernel

/-! ### The beat and the clocks -/

def sysS (f : SysState → SysState) : State := (onLink0 devS).onSys f
theorem test_instar_hypotheses : FromF0 devS c0 ∧ devS.sys.instarPending = none ∧ devS.sys.instar < (1 : U32).toNat
    ∧ devS.sys.beat + 1 ≤ (1 : U64).toNat
    ∧ (sysS fun y => { y with instarPending := some ⟨1, 0, c0⟩ }).sys.instarPending = some ⟨1, 0, c0⟩ ∧ 0 ≤ devS.sys.beat := by
  unfold FromF0; decide +kernel
theorem test_instar_answers : Answers devS c0 0x03 := by show (0 : PciePort) = devS.hub.managing; decide
def chirp0 : ChirpFrame := ⟨⟨0, 0, sec0, 0x0A000001, 0x1C7A, 9, 1, 0, 0, 0, 0, 0, 0, 0, 0, 0, 0, 0, 0, [], 0, false, 0⟩, 3, 0, 0, 312500, 1, 2, 0, 0, 40⟩
theorem test_chirp_hypotheses : let s := sysS fun y => { y with upstreamIp := 9, running := true }
    (s.sub 0 0).linkUp = true ∧ (macsec (s.sub 0 0) chirp0.sec).isSome = true ∧ forUs (s.sub 0 0) chirp0.toRxtFrame = true
      ∧ chirpFormed chirp0 = true ∧ s.sys.master = false ∧ s.sys.clockPort = 0
      ∧ s.sys.clockSub = 0 ∧ chirp0.srcIp = s.sys.upstreamIp ∧ chirp0.hops.toNat < 31 ∧ chirp0.period.toNat = s.sys.beatPeriod := by
  decide +kernel
theorem test_chirp_missed_hypotheses : let s := sysS fun y => { y with chirpMissed := 64 }
    s.sys.master = false ∧ s.sys.drift = false ∧ 64 ≤ s.sys.chirpMissed := by decide +kernel
theorem test_period_hypotheses : anyPartition devS = false ∧ 12500 ≤ (12500 : U32).toNat ∧ (12500 : U32).toNat ≤ 12500000
    ∧ anyPartition (roundS id) = true ∧ booted (netS []) = true ∧ barOpen (netS []) (.f0 0) = true ∧ anyPartition (netS []) = true := by
  decide +kernel

def clkS (f : ClkState → ClkState) : State := { runS with clk := f {} }
theorem test_clock_hypotheses : (clkS fun c => { c with ref := .locked }).clk.ref = .locked ∧ (clkS id).clk.xoFail = false
    ∧ (clkS fun c => { c with ref := .acquiring, inputValid := true }).clk.ref = .acquiring
    ∧ (clkS fun c => { c with ref := .holdover, inputValid := true }).clk.inputValid = true
    ∧ xoBad ⟨true, true, false, false, false, false, 0, 0⟩ true = true ∧ xoBad ⟨false, true, true, false, true, false, 0, 0⟩ true = false
    ∧ (clkS id).pwr.emClock = false ∧ (clkS id).clk.ref ≠ .locked ∧ ((clkS id).clk.plls[(0 : Die)]).dieFailed = false := by decide +kernel
theorem test_failover_pll_hypotheses : let s := clkS fun c => { c with plls := vput c.plls 0 { lost := true } }
    (s.clk.plls[(0 : Die)]).lost = true ∧ s.ownerOf 0 = some 0 ∧ (s.part 0).phase = .loaded := by decide +kernel

/-! ### Power, heat and entropy -/

def pwrS (f : PwrState → PwrState) : State := { devS with pwr := f {} }
theorem test_op_hypotheses : FromPart (roundS id) cp 0 0x09 ∧ (7 : U8).toNat ≤ 7 := by unfold FromPart; decide +kernel
theorem test_readback_hypotheses :
    let s (n : Nat) := pwrS fun w => { w with ops := vput w.ops 0 { raiseDue := true, target := 1, avsFails := n } }
    ((s 0).pwr.ops[(0 : Die)]).raiseDue = true ∧ voltageAt (opMillivolt 1) 1 = true ∧ voltageAt 0 1 = false
      ∧ 2 ≤ ((s 2).pwr.ops[(0 : Die)]).avsFails ∧ ((s 1).pwr.ops[(0 : Die)]).avsFails < 2 := by decide +kernel
theorem test_soft_start_hypotheses : (20 : U32).extractLsb' 0 7 = 20 ∧ softFits devS 20 = true
    ∧ softFits { (State.onImg 0 (fun x => { x with image := some { img with minOp := 7, schedules := [[[⟨10000000, 0, 0, false, []⟩]]] } }) runS) with
        sys := { beatPeriod := 12500 } } 80 = false
    ∧ (0x20000 : U32).getLsbD 17 = true ∧ ((4 : U32).extractLsb' 0 3).toNat ≤ 4 := by decide +kernel
theorem test_wake_hypotheses : (roundS id).exists_ 0 = true ∧ (pwrS fun w => { w with exiting := true }).pwr.exiting = true := by decide +kernel
theorem test_heat_hypotheses : (sortInts ([100, 104, 420, 108].filter (readingValid [100, 104, 420, 108]))).getLast? = some 108
    ∧ (sortInts ([420, 424, 428].filter (readingValid [420, 424, 428]))).getLast? = some 428
    ∧ 2 ≤ (pwrS fun w => { w with coolantFails := 2 }).pwr.coolantFails ∧ devS.pwr.flow ≤ 255
    ∧ (pwrS fun w => { w with emThermal := true }).pwr.emThermal = true
    ∧ (∀ d : AnyDie, (devS.pwr.tj[d]).valid = 0 ∨ (devS.pwr.tj[d]).tj ≤ 380)
    ∧ ((pwrS fun w => { w with tj := vput w.tj 3 ⟨381, 8⟩ }).pwr.tj[(3 : AnyDie)]).valid ≠ 0 := by decide +kernel

/-- Two words of 1,024 samples that pass every health test. -/
def wA : BitVec 1024 := BitVec.ofNat 1024 (3 ^ 1200 / 2 ^ 300)
def wB : BitVec 1024 := BitVec.ofNat 1024 (7 ^ 700 / 2 ^ 300)
theorem test_words_pass : (rctFails wA || rctFails wB || aptFails wA || aptFails wB || lagFails wA || lagFails wB || pairFails wA wB
    || pairFails wB wA) = false := by decide +kernel
def window : WindowSample := ⟨(List.replicate 16 [wA, wB]).flatten, List.replicate 32 32⟩
theorem test_window_cells (c : Nat) (hc : c < 32) : window.bits.getD c 0 = if c % 2 = 0 then wA else wB := by
  match c with
  | 0 | 1 | 2 | 3 | 4 | 5 | 6 | 7 | 8 | 9 | 10 | 11 | 12 | 13 | 14 | 15 | 16 | 17 | 18 | 19 | 20 | 21 | 22 | 23 | 24 | 25 | 26 | 27 | 28
  | 29 | 30 | 31 => rfl
  | _ + 32 => omega
theorem test_window_passes : windowFails devS.rng window.bits window.trims = [] ∧ 24 ≤ countBelow 32 (liveCell devS.rng) := by
  refine ⟨?_, by decide +kernel⟩
  have h := test_words_pass
  simp only [Bool.or_eq_false_iff] at h
  obtain ⟨⟨⟨⟨⟨⟨⟨h1, h2⟩, h3⟩, h4⟩, h5⟩, h6⟩, h7⟩, h8⟩ := h
  have l : (List.range 32).filter (liveCell devS.rng) = List.range 32 := by decide +kernel
  have t : ((List.range 32).filter fun c => liveFails (window.trims.getD c 32)) = [] := by decide +kernel
  have no (f : Nat → Bool) (hf : ∀ c, c < 32 → f c = false) : (List.range 32).filter f = [] :=
    List.filter_eq_nil_iff.mpr fun c hc => by simp [hf c (List.mem_range.mp hc)]
  have e1 := no (rctFails ∘ fun c => window.bits.getD c 0) fun c hc => by
    rw [Function.comp_apply, test_window_cells c hc]
    by_cases e : c % 2 = 0
    · rw [if_pos e, h1]
    · rw [if_neg e, h2]
  have e2 := no (aptFails ∘ fun c => window.bits.getD c 0) fun c hc => by
    rw [Function.comp_apply, test_window_cells c hc]
    by_cases e : c % 2 = 0
    · rw [if_pos e, h3]
    · rw [if_neg e, h4]
  simp only [windowFails, l, t, e1, e2]
  rw [no _ fun c hc => ?_]
  · rfl
  · rw [test_window_cells c hc, test_window_cells ((c + 1) % 32) (by omega), test_window_cells ((c + 31) % 32) (by omega)]
    by_cases e : c % 2 = 0
    · rw [if_pos e, if_neg (by omega), if_neg (by omega), h5, h7, h8, Bool.and_false, Bool.and_false]; rfl
    · rw [if_neg e, if_pos (by omega), if_pos (by omega), h6, h7, h8, Bool.and_false, Bool.and_false]; rfl
theorem test_window_fails : windowFails devS.rng [] [] ≠ [] := by decide +kernel
theorem test_entropy_hypotheses : devS.rng.phase = .healthy ∧ devS.rng.inject = false ∧ devS.rng.rawRead = false ∧ devS.rng.ready = true
    ∧ State.reset.rng.start = .settling ∧ State.reset.rng.phase = .startup ∧ State.reset.rng.ready = false
    ∧ ({ phase := .alarm, healthyRun := 1024 } : RngState).phase = .alarm ∧ barOpen devS (.f0 0) = true ∧ testsAllowed devS = false
    ∧ testsAllowed (devS.onKey fun k => { k with fuses := { lifeCycle := .factory } }) = true ∧ (3 : U32).getLsbD 0 = true := by decide +kernel

/-! ### Resets and links -/

theorem test_reset_hypotheses : booted devS = true ∧ booted State.reset = false ∧ devS.pins.resetN = true
    ∧ (State.reset.mem.sites[(0 : Site)]).trained = false ∧ (State.reset.mem.sites[(0 : Site)]).failed = false
    ∧ ({ State.reset with mem := { sites := Vector.replicate 8 { zeroing := true } } }.mem.sites[(0 : Site)]).zeroing = true := by decide +kernel
theorem test_links_hypotheses : (devS.hub.links[(0 : PciePort)]).inL0 = true ∧ (devS.ucie[(0 : UcieModule)]).trained = true
    ∧ (devS.ucie[(0 : UcieModule)]).retired = false ∧ 0 < (devS.ucie[(0 : UcieModule)]).spareLanes
    ∧ ({ devS.ucie[(0 : UcieModule)] with spareLanes := 0 } : UcieState).spareLanes = 0
    ∧ ({ State.reset with pins := { mainPower := false } }.pins.mainPower) = false ∧ dbgNow devS = 0
    ∧ dbgNow { State.reset with key := { dbg := 2 } } = 2 := by decide +kernel

/-! ### The mailbox and SPDM -/

/-- A device whose mailbox holds these bytes. -/
def mbxS (data : Tbl Byte) (f : KeyState → KeyState) : State := devS.onKey fun k => f { k with mbxData := data }
def stageIn (l : LifeCycle) (k : KeyState) : KeyState := { k with fuses := { k.fuses with lifeCycle := l } }

theorem test_mailbox_hypotheses : MailboxOpen devS 0 ∧ F0Open devS 0 ∧ devS.key.mbxState ≠ 1 := by
  unfold MailboxOpen F0Open; decide +kernel
theorem test_life_cycle_hypotheses :
    (let s := mbxS [] (stageIn .blank)
     s.key.fuses.lifeCycle = .blank ∧ mbxBytes s 0 = []) ∧ devS.key.fuses.lifeCycle ≠ .blank
    ∧ (let s := mbxS [] (stageIn .factory)
       s.key.fuses.lifeCycle = .factory ∧ (mbxBytes s 96).length = 96 ∧ anyPartition s = false ∧ s.key.fuses.identityGen < 32
         ∧ entropyStatus s = .ok ∧ MailboxOpen s 0)
    ∧ (let s := mbxS [(1, 3)] (stageIn .enrolled)
       fieldLE (mbxBytes s 2) 1 1 = 3 ∧ s.key.fuses.lifeCycle = .enrolled ∧ anyPartition s = false)
    ∧ (let s := mbxS [(48, 1)] id
       fieldLE (mbxBytes s 49) 48 1 = 1 ∧ s.key.fuses.lifeCycle = .deployed ∧ anyPartition s = false) := by
  unfold MailboxOpen F0Open; decide +kernel
/-- A chain of one certificate with the public key of the private key 12345. -/
def certBytes : Bytes := [0x30, 91] ++ spkiHead ++ Crypto.bytes512 peerHello.static
theorem test_cert_hypotheses :
    let s := onSlot 1 (fun x => { x with value := 12345 }) (mbxS (certBytes.zipIdx.map fun x => (x.2, x.1)) id)
    (s.key.fuses.lifeCycle = .enrolled ∨ s.key.fuses.lifeCycle = .deployed) ∧ tampered s = false ∧ anyPartition s = false
      ∧ certKey (lastCert 64 (mbxBytes s 93)) = some (Crypto.publicKey (slotAt s 1).value.toNat) := by decide +kernel
theorem test_staging_hypotheses : devS.key.runningSvn ≤ 255
    ∧ (mbxBytes devS 1).length = 1 ∧ fieldLE (mbxBytes devS 1) 0 1 ≤ 63
    ∧ (let b := mbxBytes (mbxS [(8, 4), (64, 9)] id) 68
       64 ≤ b.length ∧ zerosAt b 12 52 = true ∧ b.length = 64 + fieldLE b 8 4 ∧ fieldLE b 0 8 + fieldLE b 8 4 ≤ 8388608)
    ∧ (devS.onKey fun k => { k with stage := .recovery }).key.stage = .recovery := by decide +kernel

/-- A firmware image without sections, signed by the key of 12345 (R299). -/
def fwHead : Bytes := leBytes 4 0x57465A47 ++ [1, 0] ++ zeroBytes 10 ++ leBytes 8 384 ++ leBytes 4 0x100 ++ zeroBytes 4 ++ leBytes 4 0x100
  ++ zeroBytes 220 ++ Crypto.bytes512 peerHello.static
def fwImage : Bytes := fwHead ++ Crypto.bytes512
  8029156078658946829470859250652800277977982457907387950425909360871775918338867697625527918464572389649164430399551771850890303739215479099777181464093853
def fwS (st : BootStage) : State := mbxS [] fun k => { k with
  stage := st, staged := fwImage.zipIdx.map fun x => (x.2, x.1), fuses := { k.fuses with fwSigner0 := Crypto.keyHash peerHello.static } }
theorem test_firmware_bytes : stagedImage (fwS .running).key = fwImage := by decide +kernel
theorem test_firmware_hypotheses : MailboxOpen (fwS .running) 0 ∧ fwCheck (fwS .running).key.fuses fwImage = .ok
    ∧ (fwS .recovery).key.stage = .recovery ∧ F0Open (fwS .recovery) 0 ∧ (fwS .recovery).key.mbxState ≠ 1 := by
  unfold MailboxOpen F0Open; decide +kernel

def spdmS (x : Option SpdmSession) : State :=
  { onDoe 0 (fun _ => { busy := false, version := true, capabilities := true, algorithms := true, session := x }) aliasS with
    spi := { certs := [1, 2, 3] } }
theorem test_spdm_hypotheses : let s := spdmS none
    SpdmOpen s 0 ∧ (0 : U16).toNat < (certChain s).length ∧ measurementsFor s (1 : U8).toNat ≠ none ∧ measurementsFor s 0 ≠ none
      ∧ (match slotUse 3 mSecurity uSign s with
        | (_, .ok x) => x.value == 12345
        | _ => false) = true := by
  refine ⟨by unfold SpdmOpen; decide +kernel, by decide +kernel, by simp [measurementsFor, measurementBlock], by decide +kernel, by decide +kernel⟩
theorem test_key_exchange_hypotheses : let s := spdmS none
    Crypto.onCurve peerHello.eph = true ∧ entropyStatus s = .ok ∧ (s.hub.doe[(0 : PciePort)]).session = none
      ∧ (Crypto.ecdh ((generate 0 s).1.toNat % (Crypto.pN - 1) + 1) peerHello.eph).isSome = true := by decide +kernel
theorem test_session_hypotheses : ((spdmS (some ⟨1, false, 2, 0⟩)).hub.doe[(0 : PciePort)]).session = some ⟨1, false, 2, 0⟩
    ∧ ((spdmS (some ⟨1, true, 2, 0⟩)).hub.doe[(0 : PciePort)]).session = some ⟨1, true, 2, 0⟩
    ∧ ((spdmS none).hub.links[(0 : PciePort)]).inL0 = true ∧ 16384 < 16385 := by decide +kernel

/-! ### The recorder -/

def bufRec : BufRec := ⟨.event, .info, 0, leBytes 8 5⟩
def recS : State := devS.onEvr fun e => { e with scanDone := true, buffer := [bufRec] }
theorem test_recorder_hypotheses : recS.evr.scanDone = true ∧ recS.evr.droppedDue = 0 ∧ recS.evr.buffer = [bufRec]
    ∧ recS.evr.keptFull = false ∧ placeAt recS.evr.keptEnd bufRec.full + bufRec.full ≤ circStart
    ∧ (let s := recS.onEvr fun e => { e with kept := [makeRecord e bufRec 0] }
       barOpen s (.f0 0) = true ∧ ((s.evr.kept ++ s.evr.circ).find? fun x => x.seq == (s.evr.ports[(0 : PciePort)]).cursor)
         = some (makeRecord recS.evr bufRec 0)) := by decide +kernel

/-! ### Registers -/

theorem test_ring_register_hypotheses :
    (let s := devS.onHif (.f0 0) fun h => { h with enabled := true, cmdqSize := 6 }
     let h := s.hif (.f0 0)
     FnOpen s (.f0 0) ∧ h.enabled = true ∧ doorbellOk h.cmdqDb h.cmdConsumed 5 h.cmdqSize.toNat = true
       ∧ doorbellOk h.cmdqDb h.cmdConsumed 0x80000000 h.cmdqSize.toNat = false ∧ headOk h.cplqHead h.cplProduced 0 = true
       ∧ headOk h.cplqHead h.cplProduced 1 = false ∧ headOk h.evqHead h.evProduced 0 = true ∧ headOk h.evqHead h.evProduced 1 = false)
    ∧ (let s := (netS []).onHif (.part 0) fun h => { h with enabled := true }
       FnOpen s (.part 0) ∧ (s.hif (.part 0)).enabled = true ∧ headOk (s.hif (.part 0)).fltqHead (s.hif (.part 0)).fltProduced 0 = true
         ∧ headOk (s.hif (.part 0)).fltqHead (s.hif (.part 0)).fltProduced 1 = false) := by
  unfold FnOpen; decide +kernel
/-- A partition whose BAR2 begins at its first page. -/
def regS (f : PartState → PartState) : State := State.onPart 0 (fun x => f { x with bar2Base := 0x1000000000 }) (netS [])
theorem test_ingest_register_hypotheses : FnOpen (regS id) (.part 0) ∧ (((regS id).part 0).ingest[(0 : Fin 4)]).enabled = false
    ∧ (0x10000 : U32).getLsbD 16 = true
    ∧ (let x := (regS fun x => { x with ingest := vput x.ingest 0 { enabled := true, cfg := 0x10606 } }).part 0
       (x.ingest[(0 : Fin 4)]).enabled = true
         ∧ doorbellOk (x.ingest[(0 : Fin 4)]).db (x.ingest[(0 : Fin 4)]).consumed 1 (x.ingest[(0 : Fin 4)]).logEntries = true
         ∧ doorbellOk (x.ingest[(0 : Fin 4)]).db (x.ingest[(0 : Fin 4)]).consumed 0x80000000 (x.ingest[(0 : Fin 4)]).logEntries = false) := by
  unfold FnOpen; decide +kernel
theorem test_bar2_hypotheses : let s := regS id
    barVA s 0 0 % 65536 + 8 ≤ 65536 ∧ s.translate 0 (barVA s 0 0) 3 = .ok 0 ∧ (∀ i, i < 8 → viewPoison s 0 (0 + i) = false ∧ unreadySlot s 0 (barVA s 0 0 + i) = false)
      ∧ keysetPage s 0 (barVA s 0 0) = false := by decide +kernel
theorem test_latch_hypotheses : (1 : U32).getLsbD 0 = true ∧ ((regS id).part 0).mem.mapPending = none ∧ ((regS id).part 0).rxt.recvPending = none
    ∧ ((regS fun x => { x with mem := { x.mem with mapPending := some ⟨1, 0, 0⟩ } }).part 0).mem.mapPending.isSome = true
    ∧ ((regS fun x => { x with rxt := { x.rxt with recvPending := some ⟨1, 0, 0, 0, 0, 0⟩ } }).part 0).rxt.recvPending.isSome = true
    ∧ ((regS fun x => { x with twin := {}, ctxs := Vector.replicate 4 {} }).part 0).twin.phase = .unbound
    ∧ ((regS fun x => { x with twin := {}, ctxs := Vector.replicate 4 {} }).part 0).allFree = true
    ∧ ((regS fun x => { x with twin := { phase := .bound } }).part 0).twin.phase ≠ .unbound := by decide +kernel
def flt0 : FaultEntry := ⟨0, 0, 0, 0, 0, .ok, 0, 0⟩
theorem test_held_fault_hypotheses : let s := regS fun x => { x with mem := { x.mem with heldFaults := [flt0] }, hif := { x.hif with enabled := true, fltqSize := 6 } }
    (s.part 0).mem.heldFaults = [flt0] ∧ 0 < fltRoom (s.part 0).hif := by decide +kernel
theorem test_register_access_hypotheses : barOpen devS (.f0 0) = true ∧ (4 % (if true then 8 else 4)) ≠ 0
    ∧ (∃ u, exec (.registerWrite (.f0 0) 0x10000 false 5) devS = .next u)
    ∧ (devS.onHub fun h => { h with links := vput h.links 0 {} }).hub.managing = 0
    ∧ ((devS.onHub fun h => { h with links := vput h.links 0 {} }).hub.links[(0 : PciePort)]).inL0 = false
    ∧ (State.reset.hub.links[(0 : PciePort)]).outSince + claimWait ≤ claimWait
    ∧ ((1 : PciePort) ≠ devS.hub.managing) ∧ (devS.hub.links[devS.hub.managing]).inL0 = true ∧ barOpen devS (.f0 1) = true := by
  refine ⟨by decide +kernel, by decide, ⟨_, rfl⟩, by decide +kernel, by decide +kernel, by decide +kernel, by decide +kernel,
    by decide +kernel, by decide +kernel⟩

/-! ### Repairs and tests -/

def swapImg : Image := { img with swapPeriod := 4, swapPhase := 2 }
/-- Die 0 of a partition in a fallow beat; region 0 as given. -/
def swapS (r : RegionState) : State := { (State.onImg 0 (fun x => { x with image := some swapImg, kind := .fallow }) runS) with
  sys := { beat := 2 }
  dies := vput State.reset.dies 0 { owner := some 0, regions := vput (Vector.replicate 4 {}) 0 r } }
theorem test_swap_hypotheses :
    (let s := swapS { test := { spareReady := true } }
     (s.part 0).img.image = some swapImg ∧ fallowBeat swapImg s.sys.beat = true ∧ (s.part 0).img.kind = .fallow ∧ 0 ∈ s.diesOf 0
       ∧ ((s.dies[(0 : Die)]).regions[(0 : Region)]).swap.repair = none ∧ ((s.dies[(0 : Die)]).regions[(0 : Region)]).map.rotationStopped = false
       ∧ ((s.dies[(0 : Die)]).regions[(0 : Region)]).map.spare.toNat ≤ 8 ∧ ((s.dies[(0 : Die)]).regions[(0 : Region)]).test.underTest = 0xF)
    ∧ ((((swapS {}).dies[(0 : Die)]).regions[(0 : Region)]).test.spareReady = false) := by decide +kernel
/-- Step 6 of R25 in region 0: a copy that is done, a lost role, a tested spare, a failed spare (R172, R173, R387). -/
theorem test_map_hypotheses :
    (let s := swapS { swap := { copying := some 3, mapDue := true, owed := some 5 } }
     let x := (s.dies[(0 : Die)]).regions[(0 : Region)]
     0 ∈ s.diesOf 0 ∧ x.swap.copying = some 3 ∧ x.swap = { copying := some 3, mapDue := true, abandoned := x.swap.abandoned, owed := x.swap.owed }
       ∧ sliceBad s 0 (9 * (0 : Region).val + (x.map.log[(3 : Fin 8)]).toNat) = false ∧ Memory.wf s.mem = true) ∧
    (let x := ((swapS { swap := { lost := [3] } }).dies[(0 : Die)]).regions[(0 : Region)]
     x.swap = { lost := [3] } ∧ (x.map.log[(3 : Fin 8)]).toNat ≤ 8 ∧ x.map.spare.toNat ≤ 8) ∧
    (let x := ((swapS { swap := { spareNew := some 8 }, map := { spare := 0xF } }).dies[(0 : Die)]).regions[(0 : Region)]
     x.swap = { spareNew := some 8 } ∧ roleOf x.map (8 : Fin 9).val = none ∧ x.map.retired.getLsbD (8 : Fin 9).val = false) ∧
    (let x := ((swapS { swap := { out := [8] }, map := { spare := 0xF } }).dies[(0 : Die)]).regions[(0 : Region)]
     x.swap = { out := [8] } ∧ x.map.spare.toNat ≠ (8 : Fin 9).val) := by decide +kernel
theorem test_spare_hypotheses : let x := ((swapS { map := { spare := 0xF }, test := { underTest := 8 } }).dies[(0 : Die)]).regions[(0 : Region)]
    x.test.underTest.toNat = (8 : Fin 9).val ∧ roleOf x.map (8 : Fin 9).val = none := by decide +kernel
theorem test_retire_hypotheses : let m := runS.mapOf 0 (regionOfLogical 5)
    (m.log[roleOfLogical 5]).toNat ≤ 8 ∧ m.spare.toNat ≤ 8 ∧ 8 < ((swapS { map := { spare := 0xF } }).mapOf 0 0).spare.toNat
      ∧ runS.ownerOf 0 = some 0 ∧ (runS.part 0).phase = .loaded := by decide +kernel
theorem test_test_run_hypotheses : FromF0 devS c0 ∧ testRanges 5 0 8 0 = true ∧ devS.tst.running = none
    ∧ (∀ p ∈ testUsers devS 5 0 8, (devS.part p).idleForTests = true) ∧ inService devS 0 8 = false ∧ devS.clk.xoFail = false
    ∧ testRanges 2 0 7 0 = true ∧ ({ devS with tst := { running := some ⟨c0, 5, 0, 8, 0⟩ } } : State).tst.running = some ⟨c0, 5, 0, 8, 0⟩ := by
  unfold FromF0; decide +kernel
theorem test_test_answers : Answers devS c0 0x04 := by show (0 : PciePort) = devS.hub.managing; decide
theorem test_patrol_hypotheses : devS.pwr.state.code < 2 ∧ devS.mem.weevilCtrl.getLsbD 0 = true ∧ devS.mem.weevilCtrl.getLsbD 1 = true
    ∧ lineOf (sramKey 0 0 0) ∉ devS.mem.poison ∧ lineOf (sramKey 0 0 0) ∉ devS.mem.bad ∧ lineOf (dramKey 0 64) ∉ devS.mem.poison
    ∧ lineOf (dramKey 0 64) ∉ devS.mem.bad ∧ lineOf (dramKey 0 64) ∉ devS.mem.soft
    ∧ (let s : State := { devS with mem := { devS.mem with bad := [lineOf (sramKey 0 0 0)] } }
       s.pwr.state.code < 2 ∧ lineOf (sramKey 0 0 0) ∉ s.mem.poison ∧ lineOf (sramKey 0 0 0) ∈ s.mem.bad) := by decide +kernel
def rowS (n : Nat) : State := { devS with mem := { devS.mem with sites := vput devS.mem.sites 0 { trained := true, pending := [7, 9], ppr := List.replicate 4 n } } }
theorem test_row_hypotheses : 7 ∈ ((rowS 2).mem.sites[(0 : Site)]).pending ∧ 7 ∈ ((rowS 0).mem.sites[(0 : Site)]).pending
    ∧ 8 ∉ ((rowS 2).mem.sites[(0 : Site)]).pending := by decide +kernel
theorem test_row_resources (n : Nat) : repairAllowed (rowS n) 0 = true ∧ pprFor (rowS n) 0 7 = n ∧ (rowS n).ownerOf 0 = none := by
  have h : ((rowS n).mem.sites[(0 : Site)]).ppr = List.replicate 4 n := rfl
  refine ⟨rfl, ?_, rfl⟩
  unfold pprFor
  rw [h, List.length_replicate, List.getD_eq_getElem?_getD, List.getElem?_replicate, if_pos]
  · rfl
  · exact Nat.mod_lt _ (by decide)
def moveS : State := { runS with mem := { sites := vput (Vector.replicate 8 { trained := true }) 0 { trained := true, retiring := [1] } } }
theorem test_migration_hypotheses : moveS.ownerOf 0 = some 0 ∧ mapsFrame moveS 0 (0 : Site).val 1 = some 0x100003
    ∧ 1 ∈ (moveS.mem.sites[(0 : Site)]).retiring ∧ Memory.wf moveS.mem = true
    ∧ ((0 : Site).val, 1) ∈ usedPages (moveS.part 0).mem ∧ poolPage moveS 0 = some (0, 0)
    ∧ (∀ x ∈ (moveS.part 0).mem.tablePages, x.1 < 8 ∧ x.2 < 2 ^ 21) := by decide +kernel
/-- A table page to be retired; and, with the site failed, no page in the pool. -/
theorem test_table_migration_hypotheses :
    (let s := State.onMem 0 (fun m => { m with tablePages := [(0, 1)], leaves := [] }) moveS
     mapsFrame s 0 (0 : Site).val 1 = none ∧ ((0 : Site).val, 1) ∈ usedPages (s.part 0).mem ∧ poolPage s 0 = some (0, 0)) ∧
    (let s : State := { moveS with mem := { sites := vput (Vector.replicate 8 {}) 0 { failed := true, retiring := [1] } } }
     s.ownerOf 0 = some 0 ∧ 1 ∈ (s.mem.sites[(0 : Site)]).retiring ∧ ((0 : Site).val, 1) ∈ usedPages (s.part 0).mem ∧ poolPage s 0 = none) := by
  decide +kernel
theorem test_rebuild_hypotheses :
    let bad (level k : Nat) := State.onMem 0 (fun m => { m with
      badTables := [(level, k)], tableNums := [2048], tablePages := [(0, 6), (0, 7)] }) runS
    (∃ i off, ((bad 3 2048).part 0).mem.badTables = [(3, 2048)] ∧ ((bad 3 2048).part 0).mem.tableSlot 3 2048 = some (i, off)
      ∧ ((bad 3 2048).part 0).mem.tablePages[i]? = some (0, 7) ∧ poolPage (bad 3 2048) 0 = some (0, 0)) ∧
    (∃ i off, ((bad 0 0).part 0).mem.tableSlot 0 0 = some (i, off) ∧ ((bad 0 0).part 0).mem.tablePages[i]? = some (0, 6)) := by
  refine ⟨⟨1, 0, by decide +kernel, by decide +kernel, by decide +kernel, by decide +kernel⟩, 0, 0, by decide +kernel, by decide +kernel⟩

/-! ### Boundaries and jobs -/

theorem test_boundary_hypotheses : State.reset.sys.running = false
    ∧ (let s : State := { devS with sys := { running := true } }
       s.sys.running = true ∧ (∀ p, (s.part p).phase = .absent) ∧ s.sys.adopt = none ∧ s.sys.periodPending = none ∧ s.pwr.stateReq = 0
         ∧ (∀ (d : Die) (r : Region), ((s.dies[d]).regions[r]).swap.mapDue = false ∧ ((s.dies[d]).regions[r]).swap.lost = [])) := by
  decide +kernel
theorem test_commit_hypotheses : (0, 0, 0) ∈ (clustersOf runS 0).map (fun x => (x.1, x.2.1.val, x.2.2.val)) ∧ (runS.cluster 0 0).running = true
    ∧ (runS.cluster 0 0).aborted = false ∧ (∃ u, (runS.unit 0 0 u).ended = false) ∧ (∀ u, (runS.unit 0 0 u).wait ≠ .entropy)
    ∧ (∃ u, ((withUnit fun x => { x with wait := .entropy }).unit 0 0 u).wait = .entropy) := by
  refine ⟨by decide +kernel, by decide +kernel, by decide +kernel, ⟨0, by decide +kernel⟩, by decide +kernel, ⟨0, by decide +kernel⟩⟩
theorem test_commit_ended_hypotheses : ∀ x ∈ clustersOf (roundS id) 1, ((roundS id).cluster x.2.1 x.2.2).running = false := by decide +kernel
def jobS (f : PartImage → PartImage) : State := { (State.onImg 0 f runS) with sys := { beat := 5 } }
theorem test_quantum_hypotheses : ((jobS id).part 0).phase = .loaded ∧ ((jobS id).part 0).img.image ≠ none ∧ quantumOf (jobS id) 0 = some 1
    ∧ ((jobS id).part 0).img.quantumStart + 1 ≤ (jobS id).sys.beat + 1
    ∧ (jobS id).sys.beat + 1 < ((jobS fun x => { x with quantumStart := 6 }).part 0).img.quantumStart + 1 := by decide +kernel
def switchS : State := jobS fun x => { x with switching := true, kind := .switch, switchTo := some 1 }
theorem test_switch_hypotheses : (switchS.part 0).img.switching = true ∧ (switchS.part 0).img.kind = .switch
    ∧ (switchS.part 0).img.switchTo = some 1 ∧ Memory.wf switchS.mem = true ∧ (1 : Fin 4) ≠ (switchS.part 0).img.curJob
    ∧ (0, 0, 0) ∈ (clustersOf switchS 0).map (fun x => (x.1, x.2.1.val, x.2.2.val))
    ∧ (saveKey switchS 0 0 1 0).isSome = true ∧ (saveKey switchS 0 0 (switchS.part 0).img.curJob 0).isSome = true
    ∧ (∀ d c c', switchS.physOf d c = switchS.physOf d c' → c = c')
    ∧ (∀ x ∈ switchS.units, x.2.base.tiles = []) := by decide +kernel

/-! ### Twins -/

def twinS (f : TwinState → TwinState) : State := State.onTwin 0 f (connS {})
def bind0 : BindSpec := ⟨0, 0, 0, 0, 5, 0, 9, 0, 0, 0, 0⟩
theorem test_bind_hypotheses : FromPart (twinS id) cp 0 0x31 ∧ bindFormed bind0 = true ∧ bind0.role ≠ 2
    ∧ bindFormed ⟨2, 0, 0, 0, 0, 0, 0, 0, 0, 0, 0⟩ = true ∧ ((twinS id).part 0).twin.phase = .unbound
    ∧ ((twinS fun w => { w with phase := .bound }).part 0).twin.phase ≠ .unbound := by unfold FromPart; decide +kernel
def askedS : State := twinS fun w => { w with bindReq := some bind0, bindCmd := some cp }
theorem test_bind_answer_hypotheses : (askedS.part 0).twin.bindReq = some bind0 ∧ (askedS.part 0).twin.answered = false
    ∧ (askedS.part 0).twin.bindCmd = some cp ∧ cp.fn = .part 0
    ∧ answerFits { askedS with sys := {} } 0 bind0 ⟨1, (askedS.part 0).img.measure, (askedS.diesOf 0).length, 4, 4000⟩ = true
    ∧ answerFits askedS 0 bind0 ⟨0, 0, 0, 0, 0⟩ = false := by decide +kernel
theorem test_twin_answers : Answers askedS cp 0x31 ∧ Answers askedS cp 0x32 := by
  constructor <;> (change List.contains _ _ = false; decide +kernel)
theorem test_bind_beat_hypotheses : let s := twinS fun w => { w with bindReq := some bind0, answered := true }
    (s.part 0).twin.bindReq = some bind0 ∧ (s.part 0).twin.answered = true ∧ bind0.bindBeat.toNat < s.sys.beat := by decide +kernel
theorem test_catch_up_hypotheses : let s := twinS fun w => { w with bindCmd := some cp, phase := .binding }
    (s.part 0).twin.bindCmd = some cp ∧ (s.part 0).twin.bindReq = none ∧ (s.part 0).twin.phase = .binding := by decide +kernel
def ckpt0 : Checkpoint := ⟨7, 4, 1, [], [], [], [], [], [], [], 0, 0⟩
theorem test_checkpoint_hypotheses : FromPart (twinS fun w => { w with phase := .bound, ckptCmd := some cp }) cp 0 0x32
    ∧ ((twinS id).part 0).img.image ≠ none ∧ ((twinS fun w => { w with phase := .bound }).part 0).bound = true
    ∧ ((twinS fun w => { w with ckptPoint := some 99 }).part 0).twin.ckptPoint = some 99 ∧ 99 + 1 = (twinS id).sys.beat
    ∧ (let s := twinS fun w => { w with phase := .bound, ckptPending := some ckpt0, copyRunning := true }
       (s.part 0).twin.ckptPending = some ckpt0 ∧ (s.part 0).twin.copyRunning = true ∧ (s.part 0).twin.phase = .bound
         ∧ (s.part 0).twin.peerCkpt ≠ some ckpt0.beat)
    ∧ (let s := twinS fun w => { w with phase := .bound, ckptPending := some ckpt0, matched := 8 }
       (s.part 0).bound = true ∧ (s.part 0).twin.copyRunning = false ∧ ckpt0.beat = (7 : U64).toNat ∧ ckpt0.beat ≤ (s.part 0).twin.matched) := by
  unfold FromPart; decide +kernel
/-- A partition without dies, with 1,024 pages of host memory: room for any checkpoint of it. -/
def storeS : State :=
  State.onMem 0 (fun m => { m with leaves := (List.range 1024).map fun k => (k, 1002#64) })
    (State.onPart 0 (fun x => { x with resv := { dieMask := 0 } }) (twinS id))
theorem test_replay_hypotheses : FromPart (twinS id) cp 0 0x33 ∧ ((twinS id).part 0).phase = .loaded
    ∧ ((State.onPart 0 (fun x => { x with ctxs := Vector.replicate 4 {} }) (twinS id)).part 0).allFree = true
    ∧ ((twinS id).part 0).twin.replayStatus ≠ 1 ∧ tfind ((twinS id).part 0).twin.slots 0 = none
    ∧ (let s := twinS fun w => { w with slots := [(0, ckpt0)] }
       tfind (s.part 0).twin.slots 0 = some ckpt0 ∧ ckpt0.measure = (s.part 0).img.measure ∧ ckpt0.beat < (8 : U64).toNat
         ∧ (7 : U64).toNat ≤ ckpt0.beat)
    ∧ (let s := twinS fun w => { w with replayStatus := 1, replayAt := 3, replayStop := 4 }
       (s.part 0).twin.replayStatus = 1 ∧ (s.part 0).twin.replayAt ≤ (s.part 0).twin.replayStop)
    ∧ (let s := twinS fun w => { w with phase := .replaying, replayAt := 3 }
       (s.part 0).twin.replayStatus ≠ 1 ∧ (s.part 0).twin.phase = .replaying ∧ (s.part 0).twin.replayAt ≤ s.sys.beat) := by
  unfold FromPart; decide +kernel

theorem test_reserved_bytes : ([] : Bytes).all (· == 0) = true ∧ ([1] : Bytes).all (· == 0) = false := by decide
def order0 : OrderEntry := ⟨1, 5, 2, 4⟩
def secondS (f : TwinState → TwinState) : State :=
  State.onTwin 0 (fun w => f { w with phase := .bound, secondary := true }) (State.onTwin 0 f (fullS []))
theorem test_twin_messages_hypotheses : ((secondS id).part 0).silent = true
    ∧ (let s := secondS fun w => { w with lastPeerFp := 36 }
       (s.part 0).twin.phase = .bound ∧ (s.part 0).twin.lastPeerFp + 64 ≤ s.sys.beat)
    ∧ (let s := secondS fun w => { w with lastPeerFp := 37 }
       s.sys.beat < (s.part 0).twin.lastPeerFp + 64)
    ∧ hasEntry ((secondS fun w => { w with seenFabric := [order0] }).part 0).twin order0 = true
    ∧ hasEntry ((secondS id).part 0).twin order0 = false ∧ order0.source ≠ 3
    ∧ (poolCtx (secondS id) 0 (tagOf 1 0 0 0x0A31)).isSome = true ∧ (freeStage (secondS id) 0 0).isSome = true
    ∧ (let s := secondS fun w => { w with orders := [((3 : U64).toNat, [order0])] }
       (s.part 0).twin.orders.find? (fun o => o.1 == (3 : U64).toNat) = some ((3 : U64).toNat, [order0])
         ∧ (3 : U64).toNat + (s.part 0).twin.orderDelay < s.sys.beat ∧ hasEntry (s.part 0).twin order0 = false) := by decide +kernel
def stamp0 : Stamp := ⟨0, 0, 0, 0, 0, va 0, 4, 0, .conn 5 2⟩
def needS : State := State.onPart 0 (fun x => { x with stamps := [stamp0], twin := { phase := .bound, conn := 5 } }) (sentS sentC)
theorem test_need_hypotheses : (needS.part 0).paired = true ∧ (needS.part 0).silent = false ∧ (needS.part 0).phase ≠ .fenced
    ∧ (∃ x, stampedBytes needS 0 (orderEntry stamp0.source stamp0.length) = some x)
    ∧ (needS.conn (needS.part 0).twin.conn).state = .ready ∧ sealable needS (needS.part 0).twin.conn = true := by
  refine ⟨by decide +kernel, by decide +kernel, by decide +kernel, ⟨[0, 0, 0, 0], by decide +kernel⟩, by decide +kernel, by decide +kernel⟩
def finNoise (f : RoundCtx → RoundCtx) : State := roundS fun c => f { c with phase := .finalizing }
theorem test_noise_hypotheses :
    (let s := finNoise fun c => { c with finStep := .waitNoise, ownNoise := some 3 }
     roundCtx s 0 (s.ctx 0 0).policy.roundId = some 0 ∧ roundCtx s 0 99999 = none ∧ (s.ctx 0 0).phase = .finalizing
       ∧ (s.ctx 0 0).finStep = .waitNoise ∧ (s.ctx 0 0).ownNoise ≠ none)
    ∧ (let s := finNoise fun c => { c with finStep := .waitTwin, releaseFp := some 5 }
       (s.ctx 0 0).finStep = .waitTwin ∧ (s.ctx 0 0).releaseFp = some 5 ∧ (s.part 0).twin.replaying = false
         ∧ ledgerUsable (judgeEntry 0 0 (s.ctx 0 0).policy.signer s) (s.ctx 0 0).policy.signer (s.ctx 0 0).policy.roundId = true) := by decide +kernel

/-! ### Whole rules -/

theorem test_beat_word_hypotheses : encodeBeat (.xadd u0 ⟨false, 1, 3, 2, 0, 7⟩) = some 0x0000000000000007_0000_000000_02_1901
    ∧ decodeBeat u0 0x0000000000000007_0000_000000_02_1901 = some (.xadd u0 ⟨false, 1, 3, 2, 0, 7⟩) := by decide +kernel
theorem test_step_hypotheses : let s := { runS with pending := [.st u0 mf] }
    (encodeBeat (.st u0 mf)).isSome = true ∧ Memory.wf s.mem = true
      ∧ (match step s with
        | .next t => Memory.wf t.mem && t.pending.isEmpty
        | _ => false) = true := by decide +kernel
theorem test_round_names_hypotheses : let s := roundS fun c => { c with phase := .free, keptSigner := some 3 }
    (s.ctx 0 0).phase = .free ∧ NotReplaying s 0 ∧ FromPart s cp 0 0x13 ∧ (s.ctx 0 0).aborting = false ∧ (s.ctx 0 0).keptSigner = some 3
      ∧ ledgerRecorded (judgeEntry 0 0 3 (ledgerMark 3 0x0A31 s)) 3 0x0A31 = true ∧ ((ledgerMark 3 0x0A31 s).ctx 0 0).keptSigner = some 3
      ∧ 1 ≤ (65536 : U32).toNat ∧ (65536 : U32).toNat ≤ 65536 := by unfold FromPart NotReplaying; decide +kernel
theorem test_allow_list_hypotheses : FnOpen (regS id) (.part 0) ∧ (∀ e ∈ ((regS id).part 0).peerAllow, e.2 = 0) := by
  unfold FnOpen; decide +kernel
theorem test_checkpoint_outcomes_hypotheses : FromPart storeS cp 0 0x32
    ∧ ((State.onImg 0 (fun x => { x with image := none }) storeS).part 0).img.image = none ∧ (storeS.part 0).bound = false
    ∧ (storeS.part 0).img.image ≠ none ∧ (storeS.part 0).twin.ckptCmd = none ∧ slotFault storeS 0 (2 ^ 40) 1 ≠ none := by
  unfold FromPart; decide +kernel
/-- A checkpoint of `storeS` is as large as the free part of it, which is below 2^26 bytes. -/
theorem test_checkpoint_size : ckptSize storeS 0 ≤ (2 ^ 26 : U64).toNat := by
  have h : ckptSize storeS 0 = 0 + Config.ckptState.toNat := by
    unfold ckptSize
    exact Nat.add_right_cancel_iff.mpr (by decide +kernel)
  have := Config.ckptState.isLt
  have : (2 ^ 26 : U64).toNat = 2 ^ 26 := by decide
  omega
theorem test_checkpoint_small : slotFault (twinS id) 0 (va 196608) 1 = none ∧ (1 : U64).toNat < ckptSize (twinS id) 0 := by
  refine ⟨by decide +kernel, ?_⟩
  have h : ckptSize (twinS id) 0 = (2 ^ 16 * 4 + 32 * (2 ^ 19 + 2 ^ 21)) + Config.ckptState.toNat := by
    unfold ckptSize
    congr 1
  have : (1 : U64).toNat = 1 := rfl
  omega
theorem test_range_find (e : U64) (m k n : Nat) (h : k ≤ n) (g : n < k + m) :
    tfind ((List.range' k m).map fun i => (i, e)) n = some e := by
  induction m generalizing k with
  | zero => omega
  | succ m ih =>
    rw [List.range'_succ, List.map_cons, tfind]
    by_cases x : k = n
    · rw [if_pos x]
    · rw [if_neg x]; exact ih (k + 1) (by omega) (by omega)
theorem test_checkpoint_store : slotFault storeS 0 0 (2 ^ 26) = none := by
  rw [slotFault, List.findSome?_eq_none_iff]
  intro n hn
  have hn : n < 1024 := by
    have e : pagesOf 0 (boundLen 0 (2 ^ 26)) = (List.range 1024).map (· + 0) := by decide +kernel
    rw [e] at hn; simpa using hn
  have h1 : (storeS.part 0).mem.largeLeaves = [] := by decide +kernel
  have h2 : (storeS.part 0).mem.leaves = (List.range' 0 1024).map fun i => (i, 1002#64) := by decide +kernel
  have h3 : storeS.mem.bad = [] := by decide +kernel
  have l : storeS.leafAt 0 (n * 2 ^ 16) = some 1002#64 := by
    unfold State.leafAt
    simp only [h1, h2, tfind]
    rw [Nat.mul_div_cancel _ (by decide), test_range_find _ _ _ _ (Nat.zero_le n) (by omega)]
  have b : storeS.entryBad 0 (n * 2 ^ 16) = false := by unfold State.entryBad State.badLevel; rw [h3]; rfl
  simp only [Nat.zero_max, l, b]
  rw [if_neg (by omega)]
  rfl
theorem test_checkpoint_due_hypotheses : let s := twinS fun w => { w with ckptDue := true, ckptPoint := some 99, ckptCmd := some cp }
    (s.part 0).twin.ckptDue = true ∧ (s.part 0).twin.copyRunning = false ∧ (s.part 0).twin.ckptPoint = some 99 ∧ 99 + 1 = s.sys.beat
      ∧ (s.part 0).twin.ckptCmd = some cp ∧ (s.part 0).bound = false := by decide +kernel
theorem test_ledger_hypotheses : entryUsable ⟨3, 100, 0, false, true⟩ 37 = true ∧ entryUsable ⟨3, 100, 0, false, true⟩ 36 = false
    ∧ entryUsable ⟨3, 0, 0, false, true⟩ 1 = true ∧ ledgerUsable State.reset 3 1 = true := by decide +kernel

end Sys2Proof.Tests
end

section
/-! PROOFS. The host-interface sets and the register writes of BAR0 (R9, R348, R352 to R357). -/

namespace Sys2Proof.Machine

/-! ### The host-interface sets -/

theorem hif_onHif_other (s : State) (fn g : Fn) (f : HifSet → HifSet) (h : g ≠ fn) : (s.onHif fn f).hif g = s.hif g := by
  cases fn with
  | f0 q => cases g with
    | f0 r => exact State.vupd_other _ q r f fun e => h (by rw [e])
    | part p => rfl
  | part p => cases g with
    | f0 r => rfl
    | part r =>
      have hr : r ≠ p := fun e => h (by rw [e])
      simp only [State.onHif, State.hif, State.part_onPart_other _ _ _ _ hr]

theorem onlyHif_onHif (s : State) (fn : Fn) (f : HifSet → HifSet) : OnlyHif fn s (s.onHif fn f) :=
  ⟨fun g h => hif_onHif_other s fn g f h, State.onHif_mem s fn f⟩

/-- A write that the function takes runs its change (R281, R282, R348). -/
theorem hifWrite_open {s : State} {fn : Fn} (h : FnOpen s fn) (f : State → State) : hifWrite fn f s = f s := by
  obtain ⟨hbar, hide⟩ := h
  cases fn with
  | f0 q => simp [hifWrite, hbar]
  | part p =>
    have hheld : ideHeld s p = false := hide
    simp [hifWrite, partWrite, hbar, hheld]

/-- What the gates of a function's registers read. -/
theorem fnOpen_of_eq {s t : State} {fn : Fn} (hhub : t.hub = s.hub) (hparts : t.parts = s.parts) (h : FnOpen s fn) :
    FnOpen t fn := by
  cases fn <;>
    simpa only [FnOpen, barOpen, State.configOf, State.exists_, ideHeld, State.part, hhub, hparts] using h

theorem hif_of_eq {s t : State} (fn : Fn) (hhub : t.hub = s.hub) (hparts : t.parts = s.parts) : t.hif fn = s.hif fn := by
  cases fn <;> simp only [State.hif, State.part, hhub, hparts]

/-- A discarded doorbell or HEAD value leaves everything but its counter. -/
theorem dbDiscard_spec (fn : Fn) (s : State) :
    OnlyHif fn s (dbDiscard fn s) ∧ (dbDiscard fn s).hif fn = { s.hif fn with dbDiscards := sat32 (s.hif fn).dbDiscards } :=
  ⟨onlyHif_onHif s fn _, State.hif_onHif s fn _⟩

/-- A refused access leaves everything but its counter (R9). -/
theorem badAccess_spec (fn : Fn) (s : State) :
    OnlyHif fn s (badAccess fn s) ∧ (badAccess fn s).hif fn = { s.hif fn with badAccess := sat32 (s.hif fn).badAccess } :=
  ⟨onlyHif_onHif s fn _, State.hif_onHif s fn _⟩

/-! ### Bytes the host wrote to its own memory -/

theorem byteAt_store_outside (s : State) (k a : Nat) (b : Bytes) (x : Bool) (h : a < k ∨ k + b.length ≤ a) :
    (s.store k b x).byteAt a = s.byteAt a := by
  by_cases hk : 2 ^ 64 ≤ k
  · have hlen : (if x then zeroBytes b.length else b).length = b.length := by cases x <;> simp [zeroBytes]
    simp only [State.store, State.byteAt, State.onStore_mem, if_pos hk]
    exact cellGet_cellsPut_outside k a _ (by rw [hlen]; exact h)
  · simp only [State.store, State.byteAt, State.onStore_mem, if_neg hk]
    exact cellGet_cellsPut_outside k a b h

theorem le_hostKey (q pa : Nat) : 2 ^ 64 ≤ hostKey q pa := by unfold hostKey; omega

/-- The host's writes to its own memory change nothing that the device owns. -/
theorem hostWrites_frame (fn : Fn) (l : List HostWrite) (s : State) :
    hostWrites fn l s = { s with mem := (hostWrites fn l s).mem }
      ∧ ∀ a, a < 2 ^ 64 → (hostWrites fn l s).byteAt a = s.byteAt a := by
  refine forAll_keeps (fun t => t = { s with mem := t.mem } ∧ ∀ a, a < 2 ^ 64 → t.byteAt a = s.byteAt a) l _ s
    ⟨rfl, fun _ _ => rfl⟩ fun w _ t ht => ⟨?_, fun a ha => ?_⟩
  · rw [State.store, State.onStore, ht.1]
  · rw [byteAt_store_outside _ _ _ _ _ (.inl (Nat.lt_of_lt_of_le ha (le_hostKey _ _))), ht.2 a ha]

/-! ### Doorbells and HEAD registers (R355) -/

section
variable {s : State} {fn : Fn} {v : U32}

theorem execHifCmdqDb_open (h : FnOpen s fn) (l : List HostWrite) :
    execHifCmdqDb fn v l s = .next (writeCmdqDb fn v (hostWrites fn l s)) := by
  have hf := (hostWrites_frame fn l s).1
  rw [execHifCmdqDb, hifWrite_open (fnOpen_of_eq (by rw [hf]) (by rw [hf]) h)]

/-- The doorbell's state before its value is judged: the host's writes made, and a wake event noted (R339). -/
theorem rung_spec (fn : Fn) (l : List HostWrite) (s : State) :
    let u := wake (hostWrites fn l s)
    (∀ g, u.hif g = s.hif g) ∧ (∀ a, a < 2 ^ 64 → u.byteAt a = s.byteAt a) ∧ u.pwr.wakeSeen = true := by
  have hf := hostWrites_frame fn l s
  exact ⟨fun g => hif_of_eq g (by rw [wake, hf.1]; rfl) (by rw [wake, hf.1]; rfl), hf.2, rfl⟩

theorem writeCmdqDb_taken (l : List HostWrite) (he : (s.hif fn).enabled = true)
    (h : doorbellOk (s.hif fn).cmdqDb (s.hif fn).cmdConsumed v (s.hif fn).cmdqSize.toNat = true) :
    writeCmdqDb fn v (hostWrites fn l s) = (wake (hostWrites fn l s)).onHif fn fun h => { h with cmdqDb := v } := by
  simp [writeCmdqDb, (rung_spec fn l s).1, he, h]

theorem writeCmdqDb_counted (l : List HostWrite)
    (h : doorbellOk (s.hif fn).cmdqDb (s.hif fn).cmdConsumed v (s.hif fn).cmdqSize.toNat = false) :
    writeCmdqDb fn v (hostWrites fn l s) = dbDiscard fn (wake (hostWrites fn l s)) := by
  simp [writeCmdqDb, (rung_spec fn l s).1, h]

theorem writeCplqHead_taken (he : (s.hif fn).enabled = true) (h : headOk (s.hif fn).cplqHead (s.hif fn).cplProduced v = true) :
    writeCplqHead fn v s = s.onHif fn fun h => { h with cplqHead := v } := by simp [writeCplqHead, he, h]

theorem writeCplqHead_counted (h : headOk (s.hif fn).cplqHead (s.hif fn).cplProduced v = false) :
    writeCplqHead fn v s = dbDiscard fn s := by simp [writeCplqHead, h]

theorem writeEvqHead_taken (he : (s.hif fn).enabled = true) (h : headOk (s.hif fn).evqHead (s.hif fn).evProduced v = true) :
    writeEvqHead fn v s = s.onHif fn fun h => evRoomReturns s.sys.beat { h with evqHead := v } := by simp [writeEvqHead, he, h]

theorem writeEvqHead_counted (h : headOk (s.hif fn).evqHead (s.hif fn).evProduced v = false) :
    writeEvqHead fn v s = dbDiscard fn s := by simp [writeEvqHead, h]

end

/-- A HEAD of the fault queue that is taken: the HEAD, and the faults the partition's memory remembers. -/
theorem writeFltqHead_taken {s : State} {p : Part} {v : U32} (he : (s.hif (.part p)).enabled = true)
    (h : headOk (s.hif (.part p)).fltqHead (s.hif (.part p)).fltProduced v = true) :
    ∃ f, writeFltqHead (.part p) v s = State.onMem p f (s.onHif (.part p) fun h => { h with fltqHead := v }) :=
  ⟨_, if_pos (by rw [he, h]; rfl)⟩

theorem onMem_onHif_spec (s : State) (p : Part) (f : PartMem → PartMem) (g : HifSet → HifSet) :
    let t := State.onMem p f (s.onHif (.part p) g)
    OnlyHif (.part p) s t ∧ OnlyPart p s t ∧ t.hif (.part p) = g (s.hif (.part p)) := by
  intro t
  have hother : ∀ r, r ≠ p → t.part r = s.part r := fun r hr => by
    simp [t, State.onMem, State.onHif, State.part_onPart_other _ _ _ _ hr]
  refine ⟨⟨fun g hg => ?_, rfl⟩, ⟨rfl, hother⟩, ?_⟩
  · cases g with
    | f0 r => rfl
    | part r => exact congrArg PartState.hif (hother r fun e => hg (by rw [e]))
  · simp [t, State.onHif, State.hif]

theorem writeFltqHead_counted {s : State} {p : Part} {v : U32}
    (h : headOk (s.hif (.part p)).fltqHead (s.hif (.part p)).fltProduced v = false) :
    writeFltqHead (.part p) v s = dbDiscard (.part p) s := by simp [writeFltqHead, h]

end Sys2Proof.Machine

open Sys2Proof Sys2Proof.Machine

/-- Settles O41: each register by the value's judgement, on a function whose gates are open. -/
theorem hostRegistersTakeEffect : Obligations.HostRegistersTakeEffect := by
  refine ⟨fun s fn v hopen he => ?_, fun s fn hopen => ⟨?_, ?_⟩, fun s fn hbar => ⟨?_, ?_⟩⟩
  · intro h keeps counted
    have keeps_of_onlyHif : ∀ {t}, OnlyHif fn s t → keeps t := fun ⟨hg, hm⟩ => ⟨hg, fun a _ => by rw [State.byteAt, hm]; rfl⟩
    have counted_of : ∀ {i}, exec i s = .next (dbDiscard fn s) → counted i := fun hi =>
      ⟨_, hi, keeps_of_onlyHif (dbDiscard_spec fn s).1, (dbDiscard_spec fn s).2⟩
    refine ⟨fun l ok => ?_, fun l ok => ?_, fun ok => ?_, fun ok => ?_, fun ok => ?_, fun ok => ?_, fun p hp ok => ?_,
      fun p hp ok => ?_⟩
    · obtain ⟨hhif, hbyte, hwake⟩ := rung_spec fn l s
      refine ⟨_, (execHifCmdqDb_open hopen l).trans (by rw [writeCmdqDb_taken l he ok]), ⟨fun g hg => ?_, fun a ha => ?_⟩,
        ?_, ?_⟩
      · rw [hif_onHif_other _ _ _ _ hg, hhif]
      · rw [← hbyte a ha, State.byteAt, State.onHif_mem]; rfl
      · rw [State.hif_onHif, hhif]
      · rw [State.onHif_pwr, hwake]
    · obtain ⟨hhif, hbyte, _⟩ := rung_spec fn l s
      obtain ⟨⟨hother, hmem⟩, hcount⟩ := dbDiscard_spec fn (wake (hostWrites fn l s))
      refine ⟨_, (execHifCmdqDb_open hopen l).trans (by rw [writeCmdqDb_counted l ok]), ⟨fun g hg => ?_, fun a ha => ?_⟩, ?_⟩
      · rw [hother g hg, hhif]
      · rw [← hbyte a ha, State.byteAt, hmem]; rfl
      · rw [hcount, hhif]
    · exact ⟨_, by rw [exec, execHifCplqHead, hifWrite_open hopen, writeCplqHead_taken he ok], onlyHif_onHif s fn _,
        State.hif_onHif s fn _⟩
    · exact counted_of (by rw [exec, execHifCplqHead, hifWrite_open hopen, writeCplqHead_counted ok])
    · exact ⟨_, by rw [exec, execHifEvqHead, hifWrite_open hopen, writeEvqHead_taken he ok], onlyHif_onHif s fn _,
        State.hif_onHif s fn _⟩
    · exact counted_of (by rw [exec, execHifEvqHead, hifWrite_open hopen, writeEvqHead_counted ok])
    · subst hp
      obtain ⟨f, hf⟩ := writeFltqHead_taken he ok
      exact ⟨_, by rw [exec, execHifFltqHead, hifWrite_open hopen, hf], onMem_onHif_spec s p f _⟩
    · subst hp
      exact counted_of (by rw [exec, execHifFltqHead, hifWrite_open hopen, writeFltqHead_counted ok])
  · exact ⟨writeHifCtrl fn true s, by rw [exec, execHifEnable, hifWrite_open hopen], onlyHif_onHif s fn _,
      State.hif_onHif s fn _⟩
  · exact ⟨writeHifCtrl fn false s, by rw [exec, execHifDisable, hifWrite_open hopen], onlyHif_onHif s fn _,
      State.hif_onHif s fn _⟩
  · obtain ⟨honly, hset⟩ := badAccess_spec fn s
    exact ⟨_, by rw [exec, execBadRegisterAccess, if_pos hbar, if_pos rfl], honly, hset⟩
  · have hzero := badAccess_spec fn { s with answer := zeroBytes 8, answerPoison := false }
    refine ⟨_, by rw [exec, execBadRegisterAccess, if_pos hbar], ?_, State.onHif_answer _ _ _, ?_⟩
    · exact ⟨fun g hg => (hzero.1.1 g hg).trans (hif_of_eq g rfl rfl), hzero.1.2⟩
    · exact hzero.2.trans (congrArg (fun h : HifSet => { h with badAccess := sat32 h.badAccess }) (hif_of_eq fn rfl rfl))
end

section
/-! PROOFS. REGISTER_WRITE and the register map (R7 to R9), the configuration space and the management claim (R346 to R352). -/

namespace Sys2Proof.Machine

/-! ### REGISTER_WRITE (R7 to R9) -/

/-- An aligned 64-bit write to a 64-bit register does what the register's write does. -/
theorem execRegisterWrite_reg64 {s : State} {fn : Fn} {off : Nat} {r : Reg64} (v : U64) (ha : off % 8 = 0)
    (h : reg64 s fn off = some r) : exec (.registerWrite fn off true v) s = .next (r.2 v s) := by
  simp [exec, execRegisterWrite, write64, ha, h]

/-- An aligned 32-bit write to no half of a 64-bit register does what the 32-bit register's write does. -/
theorem execRegisterWrite_reg32 {s : State} {fn : Fn} {off : Nat} (v : U64) (ha : off % 4 = 0)
    (h : reg64 s fn (off / 8 * 8) = none) :
    exec (.registerWrite fn off false v) s = .next (reg32 fn off (v.setWidth 32) s) := by
  simp [exec, execRegisterWrite, write32, ha, h]

/-- A 64-bit write where no 64-bit register stands is the lower 32-bit write, then the upper (R9). -/
theorem execRegisterWrite_halves {s u : State} {fn : Fn} {off : Nat} (v : U64) (ha : off % 8 = 0) (h : reg64 s fn off = none)
    (hu : exec (.registerWrite fn off false v) s = .next u) :
    exec (.registerWrite fn (off + 4) false (v >>> 32)) u = exec (.registerWrite fn off true v) s := by
  have hlow : v.extractLsb' 0 32 = v.setWidth 32 := by ext; simp
  have hhigh : v.extractLsb' 32 32 = (v >>> 32).setWidth 32 := by ext; simp
  have ha4 : off % 4 = 0 := by omega
  have hb4 : (off + 4) % 4 = 0 := by omega
  obtain rfl : write32 fn off (v.setWidth 32) s = u := by simpa [exec, execRegisterWrite, ha4] using hu
  simp [exec, execRegisterWrite, write64, ha, h, hb4, hlow, hhigh]

/-- A misaligned write is only counted (R9). -/
theorem execRegisterWrite_misaligned {s : State} {fn : Fn} {off : Nat} {wide : Bool} (v : U64) (hb : barOpen s fn = true)
    (h : off % (if wide then 8 else 4) ≠ 0) : exec (.registerWrite fn off wide v) s = .next (badAccess fn s) := by
  rw [exec, execRegisterWrite, if_pos h, if_pos hb]

/-! ### Configuration space, links and the management claim -/

theorem onHub_link_same (s : State) (q : PciePort) (f : PcieLink → PcieLink) :
    (s.onHub fun h => { h with links := vupd h.links q f }).hub.links[q] = f s.hub.links[q] := State.vupd_same _ q f

/-- A write of HUB_MGR_CLAIM that reaches the register and claims (R352). -/
theorem execHubMgrClaim_claims {s : State} {q : PciePort} {v : U32} (hb : barOpen s (.f0 q) = true) (hv : v.getLsbD 0 = true) :
    exec (.hubMgrClaim q v) s = .next (s.onHub fun h =>
      if q = h.managing then { h with lastClaim := .invalidCommand }
      else if !(s.hub.links[s.hub.managing]).inL0
          && decide ((s.hub.links[s.hub.managing]).outSince + claimWait ≤ s.sys.now) then
        { h with lastClaim := .ok, claimDue := true }
      else { h with lastClaim := .notReady }) := by
  rw [exec, execHubMgrClaim, if_pos hb, writeClaim, hv]
  rfl

end Sys2Proof.Machine
open Sys2Proof Sys2Proof.Machine

/-- Settles O43: the register map names, at each offset, the write that the row's own command makes. -/
theorem registerAccessesReachTheirRegisters : Obligations.RegisterAccessesReachTheirRegisters := by
  refine ⟨fun s p q v => ⟨?_, ?_, ?_, ?_, ?_, ?_, ?_, ?_, fun u hu => ?_⟩, fun s fn off wide v hb ha => ?_,
    fun s q => ⟨fun f w => ?_, fun b => ?_, fun hl => ?_⟩,
    fun s q v hb hv => ⟨fun hq => ?_, fun hq hl hw => ?_, fun hq hl => ?_⟩⟩
  · rw [execRegisterWrite_reg64 v rfl rfl]; rfl
  · exact execRegisterWrite_reg32 v rfl rfl
  · rw [execRegisterWrite_reg64 v rfl rfl]; rfl
  · rw [execRegisterWrite_reg64 v rfl rfl]; rfl
  · exact execRegisterWrite_reg32 v rfl rfl
  · exact execRegisterWrite_reg32 v rfl rfl
  · rw [execRegisterWrite_reg64 v rfl rfl]; rfl
  · exact execRegisterWrite_reg32 v rfl rfl
  · exact execRegisterWrite_halves v rfl rfl hu
  · exact ⟨_, execRegisterWrite_misaligned v hb ha, badAccess_spec fn s⟩
  · refine ⟨_, rfl, rfl, ?_, fun g hg => ?_⟩
    · simp [State.onHub]
    · simp [State.onHub, State.vput_other _ _ _ _ hg]
  · exact ⟨_, rfl, rfl, onHub_link_same s q _⟩
  · refine ⟨_, rfl, rfl, (onHub_link_same s q _).trans ?_⟩
    rw [if_neg (by rw [hl]; decide)]
  · rw [execHubMgrClaim_claims hb hv, State.onHub, if_pos hq]
  · rw [execHubMgrClaim_claims hb hv, State.onHub, if_neg hq, if_pos (by rw [hl, decide_eq_true hw]; rfl)]
  · rw [execHubMgrClaim_claims hb hv, State.onHub, if_neg hq, if_neg]
    rcases hl with hl | hl
    · rw [hl]; exact Bool.false_ne_true
    · rw [decide_eq_false (Nat.not_le.mpr hl), Bool.and_false]; decide
end


section
/-! PROOFS. What an event, a completion and a wait for the entropy source leave unchanged (R319, R357). -/

namespace Sys2Proof.Machine

@[simp] theorem vall_get {α : Type} {n : Nat} (v : Vector α n) (f : Fin n → α → α) (i : Fin n) :
    (vall v f)[i.val] = f i v[i] := by
  simp [vall]

/-! ### Events of function 0 (R357, R378) -/

theorem record_frame (r : BufRec) (s : State) : record r s = { s with evr := (record r s).evr } := rfl

theorem onHif_f0_frame (s : State) (q : PciePort) (f : HifSet → HifSet) :
    s.onHif (.f0 q) f = { s with hub := (s.onHif (.f0 q) f).hub } := rfl

section
variable (cls : EventClass) (st : Status) (sev : Severity) (source : Nat) (det : U64) (s : State)

/-- An event of function 0 changes its queue in the hub, and the recorder. -/
theorem postF0_frame : postF0 cls st sev source det s
    = { s with hub := (postF0 cls st sev source det s).hub, evr := (postF0 cls st sev source det s).evr } := by
  generalize h : postF0 cls st sev source det s = t
  rw [postF0, post, record_frame, State.f0, onHif_f0_frame] at h
  rw [← h]

@[simp] theorem postF0_rng : (postF0 cls st sev source det s).rng = s.rng := rfl
@[simp] theorem postF0_mem : (postF0 cls st sev source det s).mem = s.mem := rfl

end

@[simp] theorem postRng_rng (st : Status) (sev : Severity) (s : State) : (postRng st sev s).rng = s.rng := rfl
@[simp] theorem postRng_mem (st : Status) (sev : Severity) (s : State) : (postRng st sev s).mem = s.mem := rfl
@[simp] theorem postRng_parts (st : Status) (sev : Severity) (s : State) : (postRng st sev s).parts = s.parts := rfl

/-! ### Completions (R356) -/

@[simp] theorem done_mem (c : Cmd) (op : Nat) (st : Status) (s : State) : (done c op st s).mem = s.mem :=
  complete_mem c op st 0 0 s

@[simp] theorem done_rng (c : Cmd) (op : Nat) (st : Status) (s : State) : (done c op st s).rng = s.rng := by
  rcases complete_cases c op st 0 0 s with h | ⟨_, _, _, h⟩ | ⟨_, _, _, h⟩ <;> rw [done, h]
  · exact State.onHif_rng _ _ _
  · rfl

/-! ### Waits for the source (R319) -/

/-- A Generate that waits joins the waiting list, once. -/
theorem waitGenerate_spec (w : DrbgWait) (s : State) :
    waitGenerate w s = { s with rng := { s.rng with waiting := (waitGenerate w s).rng.waiting } }
      ∧ w ∈ (waitGenerate w s).rng.waiting := by
  by_cases h : s.rng.waiting.contains w = true
  · have e : waitGenerate w s = s := by simp only [waitGenerate, State.onRng, if_pos h]
    rw [e]; exact ⟨rfl, by simpa using h⟩
  · have e : waitGenerate w s = s.onRng fun r => { r with waiting := r.waiting ++ [w] } := by
      simp only [waitGenerate, State.onRng, if_neg h]
    rw [e]; exact ⟨rfl, by simp⟩

end Sys2Proof.Machine
end

section
/-! PROOFS. The entropy source: its windows, its alarms and its test registers (R313 to R316, R322, R324). -/

namespace Sys2Proof.Machine

/-- A write of the managing port's host reaches its register (R348, R352). -/
theorem f0Write_managing {s : State} {q : PciePort} (hb : barOpen s (.f0 q) = true) (hq : q = s.hub.managing)
    (f : State → State) : f0Write q f s = f s := by
  subst hq; simp [f0Write, hb]

/-! ### Alarms -/

theorem failLoads_frame (s : State) : (failLoads s).rng = s.rng ∧ (failLoads s).mem = s.mem := by
  refine forAll_keeps (fun t => t.rng = s.rng ∧ t.mem = s.mem) _ _ s ⟨rfl, rfl⟩ fun p _ t ht => ?_
  split
  · split
    · exact ht
    · simpa using ht
  · exact ht

theorem refuseAll_notReady (s : State) (i : Fin 13) : ((refuseAll s).rng.insts[i]).phase ≠ 1 := by
  have e : (refuseAll s).rng.insts[i]
      = if (s.rng.insts[i]).phase = 1 then { s.rng.insts[i] with phase := 2 } else s.rng.insts[i] := vall_get _ _ i
  rw [e]
  split
  · exact (by decide : (2 : BitVec 2) ≠ 1)
  · assumption

/-- What ALARM and FAILED leave of the source: no READY, no pool output, no DRBG that is ready (R322). -/
def SourceStopped (s : State) : Prop :=
  s.rng.ready = false ∧ s.rng.pool = [] ∧ ∀ i : Fin 13, (s.rng.insts[i]).phase ≠ 1

theorem enterAlarm_spec (p : RngPhase) (s : State) :
    (enterAlarm p s).rng.phase = p ∧ SourceStopped (enterAlarm p s) ∧ (enterAlarm p s).mem = s.mem := by
  obtain ⟨hrng, hmem⟩ := failLoads_frame (refuseAll (postRng .entropyFail (if p == .failed then .critical else .warning)
    (s.onRng fun r => { r with phase := p, ready := false, pool := [], healthyRun := 0,
                               alarms := if p == .alarm then sat32 r.alarms else r.alarms })))
  refine ⟨?_, ⟨?_, ?_, fun i => ?_⟩, hmem⟩ <;> rw [enterAlarm, hrng]
  · rfl
  · rfl
  · rfl
  · exact refuseAll_notReady _ i

/-! ### Windows (R313, R314) -/

theorem liveCell_eq {r r' : RngState} (h : r.cellMask = r'.cellMask) : liveCell r = liveCell r' := by
  funext c; rw [liveCell, liveCell, h]

/-- A window without a failing cell masks none. -/
theorem maskCells_nil {s : State} (h : 24 ≤ countBelow 32 (liveCell s.rng)) :
    maskCells [] s = s.onRng fun r => { r with cellRun := vall r.cellRun fun _ _ => 0 } := by
  unfold maskCells
  extract_lets failed s1 dead s2 live
  have hdead : dead = [] := by simp [dead, s1, failed]
  have hs : s2 = s1 := by rw [show s2 = forAll dead _ s1 from rfl, hdead, forAll_nil]
  have hlive : live = countBelow 32 (liveCell s.rng) := by
    rw [show live = countBelow 32 (liveCell s2.rng) from rfl, hs]
    exact congrArg _ (liveCell_eq (by simp only [s1, State.onRng_rng]))
  clear_value live
  rw [if_neg (by omega), hs]
  simp [s1, failed]

/-- A failing window leaves the source as it was, or FAILED for want of live cells (R314). -/
theorem maskCells_cases (fails : List (Nat × Nat)) (s : State) :
    ((maskCells fails s).rng.phase = s.rng.phase ∧ (maskCells fails s).mem = s.mem) ∨
    ∃ u, u.mem = s.mem ∧ maskCells fails s = enterAlarm .failed u := by
  unfold maskCells
  extract_lets failed s1 dead s2 live
  clear_value dead
  have h : s2.rng.phase = s.rng.phase ∧ s2.mem = s.mem := by
    refine forAll_keeps (fun t => t.rng.phase = s.rng.phase ∧ t.mem = s.mem) dead _ s1 ?_ fun c _ t ht => ?_
    · simp only [s1, State.onRng_rng, State.onRng_mem, and_self]
    · rw [postF0_rng, postF0_mem]
      exact ht
  clear_value s2 live
  split
  · exact .inr ⟨s2, h.2, rfl⟩
  · exact .inl h

/-- The failures of a window that the array itself gives. -/
def arrayFails (w : WindowSample) (s : State) : List (Nat × Nat) := windowFails s.rng w.bits w.trims

/-- The source when such a window has been tested, counted, and its dead cells masked (R313, R314). -/
def testedWindow (w : WindowSample) (s : State) : State :=
  maskCells (arrayFails w s) (s.onRng fun r =>
    { countWindow (arrayFails w s) r with injected := if r.inject then r.injected.drop 512 else r.injected })

/-- A window of a HEALTHY source by the state its test leaves: FAILED stays, HEALTHY goes on by the window's outcome. -/
theorem execEntropyWindowEnd_tested {s : State} {w : WindowSample} (hp : s.rng.phase = .healthy) (hi : s.rng.inject = false)
    (hr : s.rng.rawRead = false) :
    ((testedWindow w s).rng.phase = .failed → exec (.entropyWindowEnd w) s = .next (testedWindow w s)) ∧
    ((testedWindow w s).rng.phase = .healthy → exec (.entropyWindowEnd w) s = .next (
      if (arrayFails w s).isEmpty && !s.clk.xoFail then (testedWindow w s).onRng fun r => { r with
        healthyRun := sat32 r.healthyRun,
        pool := if r.pool.length < 8 then r.pool ++ [Crypto.sha256 (windowBytes s.rng w.bits)] else r.pool }
      else enterAlarm .alarm (testedWindow w s))) := by
  show (_ → execEntropyWindowEnd w s = _) ∧ (_ → execEntropyWindowEnd w s = _)
  unfold execEntropyWindowEnd
  extract_lets t settling bits fails out pass testing u
  have hs : settling = false := by simp [settling, t, hp]
  have ht : testing = false := by simp [testing, t, hi, hr]
  have hb : bits = w.bits := by simp [bits, t, hi]
  have hf : fails = arrayFails w s := by simp only [fails, hb, t]; rfl
  have hu : u = testedWindow w s := by simp only [u, hf, t]; rfl
  have hpass : pass = ((arrayFails w s).isEmpty && !s.clk.xoFail) := by simp only [pass, hf, t]
  have hout : out = Crypto.sha256 (windowBytes s.rng w.bits) := by simp only [out, hb, t]
  clear_value u settling testing pass out
  subst hs ht hu hpass hout
  exact ⟨fun h => by simp [h], fun h => by simp [h]⟩

/-- A window that no cell fails is counted, and masks no cell. -/
theorem testedWindow_passes {s : State} {w : WindowSample} (hw : arrayFails w s = [])
    (hl : 24 ≤ countBelow 32 (liveCell s.rng)) :
    testedWindow w s = s.onRng fun r => { countWindow [] r with
      injected := if r.inject then r.injected.drop 512 else r.injected, cellRun := vall r.cellRun fun _ _ => 0 } := by
  rw [testedWindow, hw, maskCells_nil]
  · rfl
  · exact hl.trans_eq (congrArg _ (liveCell_eq rfl))

theorem testedWindow_cases (w : WindowSample) (s : State) :
    ((testedWindow w s).rng.phase = s.rng.phase ∧ (testedWindow w s).mem = s.mem) ∨
    ∃ u, u.mem = s.mem ∧ testedWindow w s = enterAlarm .failed u := by
  rw [testedWindow]
  simpa only [State.onRng_mem, State.onRng_rng, countWindow] using maskCells_cases (arrayFails w s) (s.onRng fun r =>
    { countWindow (arrayFails w s) r with injected := if r.inject then r.injected.drop 512 else r.injected })

/-- A window of a HEALTHY source that fails, or has no oscillator, ends in ALARM or FAILED with the source stopped. -/
theorem entropyWindowEnd_stops {s : State} {w : WindowSample} (hp : s.rng.phase = .healthy) (hi : s.rng.inject = false)
    (hr : s.rng.rawRead = false) (hw : arrayFails w s ≠ [] ∨ s.clk.xoFail = true) :
    ∃ t, exec (.entropyWindowEnd w) s = .next t ∧ (t.rng.phase = .alarm ∨ t.rng.phase = .failed) ∧ SourceStopped t
      ∧ t.mem = s.mem := by
  obtain ⟨hfailed, hhealthy⟩ := execEntropyWindowEnd_tested (w := w) hp hi hr
  have hpass : ((arrayFails w s).isEmpty && !s.clk.xoFail) = false := by
    rcases hw with h | h
    · rw [List.isEmpty_eq_false_iff.mpr h, Bool.false_and]
    · rw [h, Bool.not_true, Bool.and_false]
  rcases testedWindow_cases w s with ⟨hphase, hmem⟩ | ⟨u, hmem, ht⟩
  · obtain ⟨h1, h2, h3⟩ := enterAlarm_spec .alarm (testedWindow w s)
    rw [hpass, if_neg Bool.false_ne_true] at hhealthy
    exact ⟨_, hhealthy (hphase.trans hp), .inl h1, h2, h3.trans hmem⟩
  · obtain ⟨h1, h2, h3⟩ := enterAlarm_spec .failed u
    exact ⟨_, hfailed (ht ▸ h1), ht ▸ ⟨.inr h1, h2, h3.trans hmem⟩⟩

/-! ### Recovery and time-out (R315, R316) -/

/-- The DRBGs that refused wait for their reseed; nothing else of the source changes. -/
theorem forAll_waitGenerate (l : List (Fin 13)) (u : DrbgUse) (s : State) :
    forAll l (fun i => waitGenerate ⟨i, u⟩) s
      = { s with rng := { s.rng with waiting := (forAll l (fun i => waitGenerate ⟨i, u⟩) s).rng.waiting } } :=
  forAll_keeps (fun t => t = { s with rng := { s.rng with waiting := t.rng.waiting } }) l _ s rfl fun i _ t ht => by
    rw [(waitGenerate_spec ⟨i, u⟩ t).1, ht]

theorem execEntropyRecovered_spec {s : State} (hp : s.rng.phase = .alarm) (hn : 1024 ≤ s.rng.healthyRun)
    (hi : s.rng.inject = false) (hr : s.rng.rawRead = false) :
    ∃ t, exec .entropyRecovered s = .next t
      ∧ t.rng = { s.rng with phase := .healthy, ready := s.rng.start == .done, waiting := t.rng.waiting }
      ∧ t.parts = s.parts ∧ t.mem = s.mem := by
  have hgo : ¬ (s.rng.phase ≠ .alarm ∨ s.rng.healthyRun < 1024 ∨ s.rng.inject = true ∨ s.rng.rawRead = true) := by
    simp [hp, hi, hr, hn]
  refine ⟨_, by rw [exec, execEntropyRecovered, if_neg hgo], ?_⟩
  rw [forAll_waitGenerate]
  simp only [postRng_rng, postRng_parts, postRng_mem, State.onRng_rng, State.onRng_parts, State.onRng_mem, and_self]

/-! ### The test registers (R324, R325) -/

theorem leBytes_length (w n : Nat) : (leBytes w n).length = w := by
  induction w generalizing n with
  | zero => rfl
  | succ w ih => rw [leBytes, List.length_cons, ih]

theorem rawNext_length (s : State) (n : Nat) : (rawNext s n).length = 4 * n := by
  simp [rawNext, leBytes_length, Nat.mul_comm]

/-- A read with RAW_READ gives the samples at the cursor and moves it by the read's width (R7). -/
theorem execRngRawRead_on {s : State} {q : PciePort} (wide : Bool) (hb : barOpen s (.f0 q) = true) (hr : s.rng.rawRead = true) :
    let n := if wide then 2 else 1
    exec (.rngRawRead ⟨q, wide⟩) s = .next { s.onRng (fun r => { r with rawTaken := r.rawTaken + n }) with
      answer := rawNext s n, answerPoison := false } := by
  simp [exec, execRngRawRead, hb, hr]

theorem writeRngTest_allowed {s : State} {v : U32} (ha : testsAllowed s = true) (hp : s.rng.phase ≠ .failed)
    (hv : (v.getLsbD 0 || v.getLsbD 1) = true) :
    writeRngTest v s = refuseAll (s.onRng fun r => { r with
      rawRead := v.getLsbD 0, inject := v.getLsbD 1, testLast := .ok, phase := .alarm, ready := false, pool := [],
      healthyRun := 0 }) := by
  simp only [writeRngTest, ha, hv, beq_eq_false_iff_ne.mpr hp, State.onRng_rng, Bool.not_true, Bool.false_eq_true, if_false,
    if_true]
  rfl

end Sys2Proof.Machine

open Sys2Proof Sys2Proof.Machine

/-- Settles O35: the rows of the source by its phase, and its registers by the life cycle. -/
theorem entropySourceIsWatched : Obligations.EntropySourceIsWatched := by
  refine ⟨fun s hs hp => ?_, fun s w hp hi hr => ⟨fun hw hx hl => ?_, fun hw => ?_⟩, fun s hp hn hi hr => ?_, fun s hr => ?_,
    fun s q hb => ⟨fun hq ha v x => ⟨?_, ?_⟩, fun hq ha hp v hv => ?_, fun hq ha hi x => ?_,
      fun wide => ⟨fun hr => ?_, fun hr => ?_⟩⟩⟩
  · simp [exec, execRngStartup, hs, hp, State.onRng]
  · have ht := testedWindow_passes (w := w) hw hl
    refine ⟨_, (execEntropyWindowEnd_tested hp hi hr).2 (by rw [ht]; exact hp), ?_⟩
    have hpass : ((arrayFails w s).isEmpty && !s.clk.xoFail) = true := by rw [show arrayFails w s = [] from hw, hx]; rfl
    rw [hpass, ht]
    exact ⟨rfl, hp, rfl, rfl, rfl⟩
  · obtain ⟨t, he, hphase, ⟨hready, hpool, hinst⟩, hmem⟩ := entropyWindowEnd_stops hp hi hr hw
    exact ⟨t, he, hphase, hready, hpool, hinst, hmem⟩
  · obtain ⟨t, he, hrng, hparts, hmem⟩ := execEntropyRecovered_spec hp hn hi hr
    exact ⟨t, he, by rw [hrng], by rw [hrng], by rw [hrng], hparts, hmem⟩
  · exact ⟨_, by rw [exec, execRngReadyTimeout, hr]; rfl, postF0_frame _ _ _ _ _ _⟩
  · rw [exec, execRngTestWrite, f0Write_managing hb hq, writeRngTest, ha]; rfl
  · rw [exec, execRngInjectWrite, f0Write_managing hb hq, writeRngInject, ha]; rfl
  · refine ⟨_, by rw [exec, execRngTestWrite, f0Write_managing hb hq, writeRngTest_allowed ha hp hv], ?_⟩
    exact ⟨rfl, rfl, rfl, rfl, rfl, rfl⟩
  · rw [exec, execRngInjectWrite, f0Write_managing hb hq, writeRngInject, ha, hi]; rfl
  · simp [exec, execRngRawRead, hb, hr]
  · exact ⟨_, execRngRawRead_on wide hb hr, rfl, rawNext_length s _, rfl, rfl, rfl⟩
end


section
/-! PROOFS. A key slot's use, the DOE mailbox and the SPDM responder (R293, R305 to R307, R367). -/

namespace Sys2Proof.Machine

/-! ### The use of a slot (R293) -/

theorem slotAt_congr {s t : State} (h : t.key.slots = s.key.slots) (i : Nat) : slotAt t i = slotAt s i := by
  rw [slotAt, slotAt, h]

/-- Intact ancestors are so in every state with the same slots, and looking at them changes nothing. -/
theorem ancestorsOk_congr {s t u : State} (hslots : t.key.slots = s.key.slots) (n : Nat) (x : KeySlot)
    (h : ancestorsOk n x s = (u, true)) : ancestorsOk n x t = (t, true) := by
  induction n generalizing x with
  | zero => simp [ancestorsOk] at h
  | succ n ih =>
    simp only [ancestorsOk, slotAt_congr hslots] at h ⊢
    split at h
    · next hroot => rw [if_pos hroot]
    · next hroot =>
      rw [if_neg hroot]
      split at h
      · simp at h
      · next htag =>
        rw [if_neg htag]
        split at h
        · simp at h
        · next hgen => rw [if_neg hgen]; exact ih _ h

/-- A use that passes does so in every state with the same slots and fuses, and changes nothing. -/
theorem slotUse_congr {s t : State} {i m u : Nat} {x : KeySlot} (hslots : t.key.slots = s.key.slots)
    (hfuses : t.key.fuses = s.key.fuses) (h : (slotUse i m u s).2 = .ok x) : slotUse i m u t = (t, .ok x) := by
  simp only [slotUse, slotAt_congr hslots] at h ⊢
  split at h
  · simp at h
  · next htag =>
    rw [if_neg htag]
    split at h
    · simp at h
    · next hvalid =>
      rw [if_neg hvalid]
      rcases ha : ancestorsOk 8 (slotAt s i) s with ⟨v, ok⟩
      rw [ha] at h
      cases ok with
      | false => simp at h
      | true =>
        obtain rfl : s = v := congrArg Prod.fst ((ancestorsOk_congr rfl 8 _ ha).symm.trans ha)
        rw [ancestorsOk_congr hslots 8 _ ha]
        simp only [Bool.not_true, Bool.false_eq_true, if_false, hfuses] at h ⊢
        split at h
        · next hmay => rw [if_pos hmay, show slotAt s i = x from Except.ok.inj h]
        · simp at h

/-- The key of slot 3 signs, and nothing else changes. -/
theorem aliasSign_congr {s t : State} {x : KeySlot} (hslots : t.key.slots = s.key.slots) (hfuses : t.key.fuses = s.key.fuses)
    (h : (slotUse 3 mSecurity uSign s).2 = .ok x) (d : U256) :
    aliasSign d t = (t, some (Crypto.sign x.value.toNat d)) := by
  rw [aliasSign, slotUse_congr hslots hfuses h]

/-! ### The mailbox of a port (R367) -/

/-- The DOE mailbox of every other port is as it was. -/
def OtherDoe (q : PciePort) (s t : State) : Prop := ∀ p, p ≠ q → t.hub.doe[p] = s.hub.doe[p]

theorem onDoe_same (q : PciePort) (f : Doe → Doe) (s : State) : (onDoe q f s).hub.doe[q] = f s.hub.doe[q] :=
  State.vupd_same _ q f

theorem otherDoe_onDoe {q : PciePort} {s t : State} (f : Doe → Doe) (h : OtherDoe q s t) : OtherDoe q s (onDoe q f t) :=
  fun p hp => (State.vupd_other _ q p f hp).trans (h p hp)

theorem otherDoe_of_eq {q : PciePort} {s t : State} (h : t.hub.doe = s.hub.doe) : OtherDoe q s t := fun p _ => by rw [h]

theorem answered_answerDoe {q : PciePort} {s t : State} (r : SpdmResponse) (h : OtherDoe q s t) :
    Answered s (answerDoe q r t) q r :=
  ⟨by rw [answerDoe, onDoe_same], otherDoe_onDoe _ h⟩

/-- An answer leaves the rest of the port's mailbox. -/
theorem answerDoe_same (q : PciePort) (r : SpdmResponse) (t : State) :
    (answerDoe q r t).hub.doe[q] = { t.hub.doe[q] with response := some r } := onDoe_same q _ t

section
variable {s : State} {q : PciePort}

theorem doeServe_idle (h : (s.hub.doe[q]).busy = false) (f : Doe → State → State) : doeServe q f s = f s.hub.doe[q] s := by
  rw [doeServe, if_neg (by rw [h]; decide)]

theorem spdmReady_open (h : SpdmOpen s q) (f : Doe → State → State) : spdmReady q f s = f s.hub.doe[q] s := by
  obtain ⟨hb, hv, hc, ha⟩ := h
  simp only [spdmReady, doeServe_idle hb, hv, hc, ha, Bool.and_self, if_true]

theorem inSession_established {y : SpdmSession} (h : SpdmOpen s q) (hy : (s.hub.doe[q]).session = some y)
    (he : y.established = true) (f : SpdmSession → State → State) : inSession q f s = f y s := by
  simp only [inSession, spdmReady_open h, hy, he, if_true]

end

/-! ### Sessions (R305) -/

theorem onSlot_frame (i : Nat) (f : KeySlot → KeySlot) (s : State) : onSlot i f s = { s with key := (onSlot i f s).key } := by
  by_cases h : i < 64
  · simp only [onSlot, dif_pos h]; rfl
  · simp only [onSlot, dif_neg h]

/-- A slot that is written or invalidated leaves the hub. -/
@[simp] theorem onSlot_hub (i : Nat) (f : KeySlot → KeySlot) (s : State) : (onSlot i f s).hub = s.hub := by rw [onSlot_frame]

theorem writeSlot_frame (i : Nat) (v e : U256) (p : Nat) (ms us : List Nat) (s : State) :
    writeSlot i v e p ms us s = { s with key := (writeSlot i v e p ms us s).key } := onSlot_frame i _ s

theorem writeSlot_hub (i : Nat) (v e : U256) (p : Nat) (ms us : List Nat) (s : State) :
    (writeSlot i v e p ms us s).hub = s.hub := onSlot_hub i _ s

theorem invalidateSlot_frame (i : Nat) (s : State) : invalidateSlot i s = { s with key := (invalidateSlot i s).key } :=
  onSlot_frame i _ s

/-- An answer after a change of the session: the answer stands, and the session is the new one. -/
theorem answerDoe_session {q : PciePort} {s : State} (t : State) (r : SpdmResponse) (o : Option SpdmSession)
    (h : t.hub.doe = s.hub.doe) :
    let u := answerDoe q r (onDoe q (fun d => { d with session := o }) t)
    Answered s u q r ∧ (u.hub.doe[q]).session = o := by
  refine ⟨answered_answerDoe r (otherDoe_onDoe _ (otherDoe_of_eq h)), ?_⟩
  rw [answerDoe_same, onDoe_same]

theorem exchangeDrawn_eq {s : State} {q : PciePort} {req : U16} {ex : U512} {z : U256} {x : KeySlot}
    (hz : Crypto.ecdh ((generate 0 s).1.toNat % (Crypto.pN - 1) + 1) ex = some z)
    (hx : (slotUse 3 mSecurity uSign s).2 = .ok x) :
    ∃ finishKey secret sig v, exchangeDrawn q req ex s
      = answerDoe q (.keyExchange req (Crypto.publicKey ((generate 0 s).1.toNat % (Crypto.pN - 1) + 1)) sig v)
        (onDoe q (fun d => { d with session := some ⟨req, false, finishKey, 0⟩ })
          (writeSlot (sessionSlot q) secret 0 2 [mSecurity] [uDerive, uEncrypt, uMac] (generate 0 s).2)) := by
  have hsign := aliasSign_congr (s := s) (t := (generate 0 s).2) rfl rfl hx
  exact ⟨_, _, _, _, by simp only [exchangeDrawn, hz, hsign]; rfl⟩

/-- A drawn KEY_EXCHANGE, where the exchange has a shared secret and the key of slot 3 signs, opens a session. -/
theorem exchangeDrawn_opens {s : State} {q : PciePort} {req : U16} {ex : U512} {z : U256} {x : KeySlot}
    (hz : Crypto.ecdh ((generate 0 s).1.toNat % (Crypto.pN - 1) + 1) ex = some z)
    (hx : (slotUse 3 mSecurity uSign s).2 = .ok x) :
    let t := exchangeDrawn q req ex s
    ∃ y, (t.hub.doe[q]).session = some y ∧ y.id = req ∧ y.established = false
      ∧ (∃ sig v, Answered s t q (.keyExchange req (Crypto.publicKey ((generate 0 s).1.toNat % (Crypto.pN - 1) + 1)) sig v))
      ∧ t.parts = s.parts ∧ t.mem = s.mem := by
  obtain ⟨finishKey, secret, sig, v, hdrawn⟩ := exchangeDrawn_eq (q := q) (req := req) hz hx
  have hwrite := writeSlot_frame (sessionSlot q) secret 0 2 [mSecurity] [uDerive, uEncrypt, uMac] (generate 0 s).2
  obtain ⟨hans, hses⟩ := answerDoe_session (q := q) (s := s)
    (writeSlot (sessionSlot q) secret 0 2 [mSecurity] [uDerive, uEncrypt, uMac] (generate 0 s).2)
    (.keyExchange req (Crypto.publicKey ((generate 0 s).1.toNat % (Crypto.pN - 1) + 1)) sig v)
    (some ⟨req, false, finishKey, 0⟩) (congrArg HubState.doe (writeSlot_hub _ _ _ _ _ _ _))
  intro t
  simp only [t, hdrawn]
  refine ⟨_, hses, rfl, rfl, ⟨sig, v, hans⟩, ?_, ?_⟩
  · rw [hwrite]; rfl
  · rw [hwrite]; rfl

/-! ### The requests of an agreed connection (R305 to R307) -/

section
variable {s : State} {q : PciePort} (ho : SpdmOpen s q)
include ho

theorem execGetCertificate_inside {off n : U16} (h : off.toNat < (certChain s).length) :
    exec (.getCertificate q 0 off n) s = .next (answerDoe q (.certificate (fieldB (certChain s) off.toNat n.toNat)
      ((certChain s).length - off.toNat - (fieldB (certChain s) off.toNat n.toNat).length)) s) := by
  have hin : ¬ ((0 : U8) ≠ 0 ∨ (certChain s).length ≤ off.toNat ∧ certChain s ≠ []) := by
    rintro (h0 | ⟨hle, _⟩)
    · exact h0 rfl
    · omega
  rw [exec, execGetCertificate, spdmReady_open ho]
  simp only [if_neg hin]

theorem execChallenge_signed {x : KeySlot} (nonce : U256) (hx : (slotUse 3 mSecurity uSign s).2 = .ok x) :
    ∃ sig, exec (.challenge q 0 nonce) s
      = .next (answerDoe q (.challengeAuth (Crypto.sha256 (certChain s)) (spdmNonce s) sig) (countSpdm s)) := by
  have hsign := aliasSign_congr (s := s) (t := countSpdm s) rfl rfl hx
  exact ⟨_, by rw [exec, execChallenge, spdmReady_open ho, if_neg (fun h => h rfl)]; simp only [hsign]; rfl⟩

theorem execGetMeasurements_unsigned {i : U8} {bs : List (Nat × Bytes)} (nonce : U256)
    (hm : measurementsFor s i.toNat = some bs) :
    exec (.getMeasurements q i false nonce) s = .next (answerDoe q (.measurements bs (spdmNonce s) none) (countSpdm s)) := by
  rw [exec, execGetMeasurements, spdmReady_open ho]
  simp only [hm, Bool.not_false, if_true]

/-- KEY_EXCHANGE on the chain's slot with a point of the curve, the source READY and no session yet. -/
theorem execKeyExchange_accepted {req : U16} {ex : U512} (hcurve : Crypto.onCurve ex = true) (hent : entropyStatus s = .ok)
    (hses : (s.hub.doe[q]).session = none) :
    exec (.keyExchange q 0 req ex) s = .next (if canGenerate s 0 then exchangeDrawn q req ex s
      else waitGenerate ⟨0, .keyExchange q req ex⟩ (setDoeBusy q true s)) := by
  have hok : ¬ ((0 : U8) ≠ 0 ∨ (!Crypto.onCurve ex) = true) := by rw [hcurve]; simp
  rw [exec, execKeyExchange, spdmReady_open ho, if_neg hok, if_neg (fun h => h hent), hses, if_neg (by simp)]

theorem execFinish_proved {y : SpdmSession} (hy : (s.hub.doe[q]).session = some y) (he : y.established = false) :
    exec (.finish q y.finishKey) s
      = .next (answerDoe q .finish (onDoe q (fun d => { d with session := some { y with established := true } }) s)) := by
  rw [exec, execFinish, spdmReady_open ho]
  simp only [hy, he, Bool.false_eq_true, if_false, if_true]

section
variable {y : SpdmSession} (hy : (s.hub.doe[q]).session = some y) (he : y.established = true)
include hy he

theorem execKeyUpdate_moves : ∃ next, exec (.keyUpdate q 1) s
    = .next (answerDoe q .keyUpdate (onDoe q (fun d => { d with session := some { y with updates := y.updates + 1 } })
        (writeSlot (sessionSlot q) next 0 2 [mSecurity] [uDerive, uEncrypt, uMac] s))) :=
  ⟨_, by rw [exec, execKeyUpdate, inSession_established ho hy he, if_pos (.inl rfl)]⟩

theorem execEndSession_closes : exec (.endSession q) s = .next (answerDoe q .endSession (endSession q s)) := by
  rw [exec, execEndSession, inSession_established ho hy he]

theorem execIdeKeyProgramming_key (k : U256) (hl : (s.hub.links[q]).inL0 = true) :
    exec (.ideKeyProgramming q (.keyProg k)) s = .next (answerDoe q (.ideKm true)
      (s.onHub fun h => { h with links := vupd h.links q fun l => { l with ideKey := some k } })) := by
  rw [exec, execIdeKeyProgramming, inSession_established ho hy he]
  simp only [hl, if_true]

theorem execIdeKeyProgramming_stop : exec (.ideKeyProgramming q .setStop) s = .next (answerDoe q (.ideKm true)
    (s.onHub fun h => { h with links := vupd h.links q fun l => { l with ideSecure := false } })) := by
  rw [exec, execIdeKeyProgramming, inSession_established ho hy he]

end
end

end Sys2Proof.Machine

open Sys2Proof Sys2Proof.Machine

/-- Settles O39: each request by what the port has agreed, with the answer it leaves in the mailbox. -/
theorem spdmRequestsAreAnswered : Obligations.SpdmRequestsAreAnswered := by
  refine ⟨fun s q hb => ⟨?_, fun hv => ?_, fun a hv hc => ?_, fun n known h => ?_, fun n h => ?_⟩, fun s q => ?_,
    fun s q ho => ⟨?_, fun off n h => ?_, fun x nonce hx => ?_, fun i nonce bs hm => ?_, fun req ex hcurve hent hses hgen => ?_,
      fun req ex z x hcurve hent hses hgen hz hx => ?_, fun y hy => ⟨fun he => ?_, fun he => ⟨?_, ?_, fun k hl => ?_, ?_⟩⟩⟩⟩
  · refine ⟨_, by rw [exec, execGetVersion, doeServe_idle hb], rfl,
      answered_answerDoe _ (otherDoe_onDoe _ (otherDoe_of_eq rfl)), ?_⟩
    rw [answerDoe_same, onDoe_same]
    exact ⟨rfl, rfl, rfl⟩
  · refine ⟨_, by rw [exec, execGetCapabilities, doeServe_idle hb, if_pos hv], rfl,
      answered_answerDoe _ (otherDoe_onDoe _ (otherDoe_of_eq rfl)), ?_⟩
    rw [answerDoe_same, onDoe_same]
  · refine ⟨_, by rw [exec, execNegotiateAlgorithms, doeServe_idle hb, hv, hc]; rfl, rfl,
      answered_answerDoe _ (otherDoe_onDoe _ (otherDoe_of_eq rfl)), ?_⟩
    rw [answerDoe_same, onDoe_same]
  · have hbad : 16384 < n ∨ (!known) = true := h.imp id fun hk => by rw [hk]; rfl
    exact ⟨_, by rw [exec, execDoeObjectReject, doeServe_idle hb, if_pos hbad], rfl, onDoe_same q _ s⟩
  · have hfits : ¬ (16384 < n ∨ (!true) = true) := by simpa using h
    exact ⟨_, by rw [exec, execDoeObjectReject, doeServe_idle hb, if_neg hfits, spdmErr], rfl,
      answered_answerDoe _ (otherDoe_of_eq rfl)⟩
  · exact ⟨_, rfl, rfl, rfl, onDoe_same q _ _⟩
  · exact ⟨_, by rw [exec, execGetDigests, spdmReady_open ho], rfl, answered_answerDoe _ (otherDoe_of_eq rfl)⟩
  · exact ⟨_, execGetCertificate_inside ho h, rfl, answered_answerDoe _ (otherDoe_of_eq rfl)⟩
  · obtain ⟨sig, he⟩ := execChallenge_signed ho nonce hx
    exact ⟨_, sig, he, answered_answerDoe _ (otherDoe_of_eq rfl), rfl, rfl, rfl⟩
  · exact ⟨_, execGetMeasurements_unsigned ho nonce hm, rfl, answered_answerDoe _ (otherDoe_of_eq rfl)⟩
  · obtain ⟨hframe, hmem⟩ := waitGenerate_spec ⟨0, .keyExchange q req ex⟩ (setDoeBusy q true s)
    refine ⟨_, (execKeyExchange_accepted ho hcurve hent hses).trans (by rw [if_neg (by rw [hgen]; decide)]), ?_, ?_, hmem⟩
    · rw [hframe]; rfl
    · rw [hframe]; exact congrArg Doe.busy (onDoe_same q _ s)
  · obtain ⟨y, hopen⟩ := exchangeDrawn_opens (q := q) (req := req) hz hx
    exact ⟨_, y, (execKeyExchange_accepted ho hcurve hent hses).trans (by rw [if_pos hgen]), hopen⟩
  · exact ⟨_, execFinish_proved ho hy he, rfl, answerDoe_session s .finish (some { y with established := true }) rfl⟩
  · obtain ⟨next, hnext⟩ := execKeyUpdate_moves ho hy he
    refine ⟨_, hnext, ?_, answerDoe_session _ .keyUpdate (some { y with updates := y.updates + 1 })
      (congrArg HubState.doe (writeSlot_hub _ _ _ _ _ _ _))⟩
    rw [writeSlot_frame]; rfl
  · have hend := invalidateSlot_frame (sessionSlot q) (onDoe q (fun d => { d with session := none }) s)
    refine ⟨_, execEndSession_closes ho hy he, ?_, answered_answerDoe _ ?_, ?_⟩
    · rw [endSession, hend]; rfl
    · rw [endSession, hend]; exact otherDoe_onDoe _ (otherDoe_of_eq rfl)
    · rw [answerDoe_same, endSession, hend]; exact congrArg Doe.session (onDoe_same q _ s)
  · exact ⟨_, execIdeKeyProgramming_key ho hy he k hl, rfl, answered_answerDoe _ (otherDoe_of_eq rfl), onHub_link_same s q _⟩
  · exact ⟨_, execIdeKeyProgramming_stop ho hy he, rfl, onHub_link_same s q _⟩
end


section
/-! PROOFS. Reset, the ROM's boot, the loss of power, and the training of the sites and of UCIe (R392 to R396, R407). -/

namespace Sys2Proof.Machine

/-! ### Bytes that a filter by key keeps and drops -/

theorem cellGet_filter_kept {P : Nat → Bool} {a : Nat} (h : P a = true) (m : List Host.Cell) :
    cellGet (m.filter fun c => P c.1) a = cellGet m a := by
  induction m with
  | nil => rfl
  | cons c m ih =>
    by_cases hc : P c.1 = true
    · rw [List.filter_cons_of_pos (p := fun c : Host.Cell => P c.1) hc, cellGet, cellGet, ih]
    · have hne : c.1 ≠ a := fun e => hc (e ▸ h)
      rw [List.filter_cons_of_neg (p := fun c : Host.Cell => P c.1) hc, ih, cellGet, if_neg hne]

theorem cellGet_filter_dropped {P : Nat → Bool} {a : Nat} (h : P a = false) (m : List Host.Cell) :
    cellGet (m.filter fun c => P c.1) a = 0 := by
  induction m with
  | nil => rfl
  | cons c m ih =>
    by_cases hc : P c.1 = true
    · have hne : c.1 ≠ a := fun e => by rw [e, h] at hc; exact Bool.false_ne_true hc
      rw [List.filter_cons_of_pos (p := fun c : Host.Cell => P c.1) hc, cellGet, if_neg hne, ih]
    · rw [List.filter_cons_of_neg (p := fun c : Host.Cell => P c.1) hc, ih]

theorem byteAt_zeroRange_inside (s : State) {k n a : Nat} (h : k ≤ a ∧ a < k + n) : (s.zeroRange k n).byteAt a = 0 :=
  cellGet_filter_dropped (P := fun c => !decide (k ≤ c ∧ c < k + n)) (by simp [h]) s.mem.cells

theorem byteAt_zeroRange_outside (s : State) {k n a : Nat} (h : a < k ∨ k + n ≤ a) : (s.zeroRange k n).byteAt a = s.byteAt a :=
  cellGet_filter_kept (P := fun c => !decide (k ≤ c ∧ c < k + n)) (by simp; omega) s.mem.cells

/-- The keys whose bytes a reset keeps: the sites' and the hosts' (R392). -/
def keptAtReset (a : Nat) : Bool := decide (2 ^ 40 ≤ a ∧ (a < 2 ^ 50 ∨ 2 ^ 64 ≤ a))

theorem byteAt_clearHub_dropped (s : State) {a : Nat} (h : a < 2 ^ 40 ∨ (2 ^ 50 ≤ a ∧ a < 2 ^ 64)) :
    (clearHub s).byteAt a = 0 :=
  cellGet_filter_dropped (P := keptAtReset) (by simp [keptAtReset]; omega) s.mem.cells

theorem byteAt_clearHub_kept (s : State) {a : Nat} (h : (2 ^ 40 ≤ a ∧ a < 2 ^ 50) ∨ 2 ^ 64 ≤ a) :
    (clearHub s).byteAt a = s.byteAt a :=
  cellGet_filter_kept (P := keptAtReset) (by simp [keptAtReset]; omega) s.mem.cells

/-! ### The ROM's boot (R298, R299) -/

/-- What the ROM and the events of a boot leave: all but hub, keys, recorder, clock and power; of those, who manages, the bin,
the fuses and the ledger. -/
def BootKeeps (s t : State) : Prop :=
  t = { s with hub := t.hub, key := t.key, evr := t.evr, clk := t.clk, pwr := t.pwr } ∧ t.hub.managing = s.hub.managing
    ∧ t.hub.lowLeakage = s.hub.lowLeakage ∧ t.key.fuses = s.key.fuses ∧ t.key.vbat.ledger = s.key.vbat.ledger

theorem BootKeeps.refl (s : State) : BootKeeps s s := ⟨rfl, rfl, rfl, rfl, rfl⟩

theorem BootKeeps.trans {s t u : State} (h : BootKeeps s t) (g : BootKeeps t u) : BootKeeps s u := by
  obtain ⟨h1, h2, h3, h4, h5⟩ := h
  obtain ⟨g1, g2, g3, g4, g5⟩ := g
  refine ⟨?_, g2.trans h2, g3.trans h3, g4.trans h4, g5.trans h5⟩
  rw [h1] at g1
  exact g1

theorem bootKeeps_onKey (s : State) (f : KeyState → KeyState) (hf : (f s.key).fuses = s.key.fuses)
    (hl : (f s.key).vbat.ledger = s.key.vbat.ledger) : BootKeeps s (s.onKey f) := ⟨rfl, rfl, rfl, hf, hl⟩

theorem bootKeeps_onEvr (s : State) (f : EvrState → EvrState) : BootKeeps s (s.onEvr f) := ⟨rfl, rfl, rfl, rfl, rfl⟩

theorem bootKeeps_postF0 (cls : EventClass) (st : Status) (sev : Severity) (source : Nat) (det : U64) (s : State) :
    BootKeeps s (postF0 cls st sev source det s) := by
  refine ⟨?_, rfl, rfl, rfl, rfl⟩
  rw [postF0_frame]

theorem bootKeeps_onSlot (i : Nat) (f : KeySlot → KeySlot) (s : State) : BootKeeps s (onSlot i f s) := by
  unfold onSlot
  split
  · exact bootKeeps_onKey s _ rfl rfl
  · exact .refl s

theorem bootKeeps_writeSlot (i : Nat) (v e : U256) (p : Nat) (ms us : List Nat) (s : State) :
    BootKeeps s (writeSlot i v e p ms us s) := bootKeeps_onSlot i _ s

theorem bootKeeps_rootKeys (s : State) : BootKeeps s (rootKeys s) := by
  unfold rootKeys
  split
  · exact .refl s
  · exact ((bootKeeps_writeSlot ..).trans (bootKeeps_writeSlot ..)).trans (bootKeeps_writeSlot ..)

theorem bootKeeps_bootKeys (b : Bytes) (s : State) : BootKeeps s (bootKeys b s) := by
  refine (bootKeeps_onKey s (fun k => { k with fwMeasure := fwMeasureOf b, runningSvn := fieldLE b 8 4 }) rfl rfl).trans ?_
  unfold bootKeys
  extract_lets m u
  split
  · exact when_keeps (BootKeeps u) _ _ u (.refl u) (bootKeeps_postF0 ..)
  · exact (((bootKeeps_writeSlot ..).trans (bootKeeps_writeSlot ..)).trans (bootKeeps_writeSlot ..)).trans
      (bootKeeps_onKey _ _ rfl rfl)

theorem bootKeeps_romBoot (s : State) : BootKeeps s (romBoot s) := by
  unfold romBoot
  split
  · exact bootKeeps_onKey s _ rfl rfl
  · extract_lets dbg u v b
    refine (bootKeeps_onKey s _ rfl rfl).trans ((bootKeeps_rootKeys u).trans ?_)
    split
    · exact (bootKeeps_bootKeys b v).trans (bootKeeps_onKey _ _ rfl rfl)
    · exact bootKeeps_onKey v _ rfl rfl

theorem bootKeeps_bootRecord (s : State) : BootKeeps s (bootRecord s) := by
  unfold bootRecord
  exact (bootKeeps_onEvr s _).trans (bootKeeps_onEvr _ _)

theorem bootKeeps_wake (s : State) : BootKeeps s (wake s) := ⟨rfl, rfl, rfl, rfl, rfl⟩

/-- With no test running, an emergency is an event and a change of power (R343). -/
theorem bootKeeps_enterEmergency (e : Emergency) (die : Nat) (s : State) (h : s.tst.running = none) :
    BootKeeps s (enterEmergency e die s) := by
  unfold enterEmergency
  extract_lets active u
  split
  · exact .refl s
  · have hpwr : BootKeeps s u := ⟨rfl, rfl, rfl, rfl, rfl⟩
    have hwake : BootKeeps u (wake (postF0 .clockPower .ok .critical die (detail 1 0) u)) :=
      (bootKeeps_postF0 ..).trans (bootKeeps_wake _)
    have hidle : (wake (postF0 .clockPower .ok .critical die (detail 1 0) u)).tst.running = none := by
      rw [(hpwr.trans hwake).1]
      exact h
    rw [abortTest, hidle]
    exact hpwr.trans hwake

/-! ### Hub reset (R392, R393) -/

/-- What a hub reset of `s` with these strap pins leaves, whether or not the fuses can be read. -/
def ResetLeaves (h : ResetInputs) (s t : State) : Prop :=
  t.parts = State.reset.parts ∧ t.spi = s.spi ∧ t.key.fuses = s.key.fuses ∧ t.key.vbat.ledger = s.key.vbat.ledger
    ∧ t.hub.managing = h.mgrSel ∧ t.hub.lowLeakage = s.key.fuses.lowLeakage ∧ t.ports = (clearHub s).ports
    ∧ t.pins.resetN = true ∧ t.sys.beat = 0 ∧ t.pending = s.pending ∧ t.mem.cells = (clearHub s).mem.cells

theorem ResetLeaves.boot {h : ResetInputs} {s t u : State} (ht : ResetLeaves h s t) (hu : BootKeeps t u) :
    ResetLeaves h s u ∧ u.sys.running = t.sys.running := by
  obtain ⟨h1, h2, h3, h4, h5, h6, h7, h8, h9, h10, h11⟩ := ht
  obtain ⟨g1, g2, g3, g4, g5⟩ := hu
  refine ⟨⟨?_, ?_, g4.trans h3, g5.trans h4, g2.trans h5, g3.trans h6, ?_, ?_, ?_, ?_, ?_⟩, ?_⟩ <;> rw [g1] <;> assumption

theorem execHubReset_leaves (h : ResetInputs) (s : State) :
    ∃ t, exec (.hubReset h) s = .next t ∧ ResetLeaves h s t ∧ t.sys.running = s.key.fuses.readable := by
  show ∃ t, execHubReset h s = .next t ∧ _
  unfold execHubReset
  extract_lets cleared hub pins reset sys running mem sited linked booted
  have hreset : ResetLeaves h s reset := ⟨rfl, rfl, rfl, rfl, rfl, rfl, rfl, rfl, rfl, rfl, rfl⟩
  have hlinked : ResetLeaves h s linked := ⟨rfl, rfl, rfl, rfl, rfl, rfl, rfl, rfl, rfl, rfl, rfl⟩
  have hfuses : reset.key.fuses.readable = s.key.fuses.readable := rfl
  have htst : linked.tst.running = none := rfl
  have hrun : linked.sys.running = true := rfl
  have hstop : reset.sys.running = false := rfl
  have hboot : BootKeeps linked booted := (bootKeeps_romBoot linked).trans (bootKeeps_bootRecord _)
  clear_value reset linked booted
  refine ⟨_, rfl, ?_⟩
  rw [hfuses]
  cases s.key.fuses.readable with
  | false => exact ⟨hreset, hstop⟩
  | true =>
    rw [if_neg (by decide)]
    split
    · exact (hlinked.boot hboot).imp id fun e => e.trans hrun
    · have hxo : BootKeeps booted (booted.onClk fun c => { c with xoFail := true }) := ⟨rfl, rfl, rfl, rfl, rfl⟩
      have hidle : (booted.onClk fun c => { c with xoFail := true }).tst.running = none := by
        rw [State.onClk_tst, hboot.1, htst]
      exact (hlinked.boot ((hboot.trans hxo).trans (bootKeeps_enterEmergency .clock 0 _ hidle))).imp id fun e => e.trans hrun

/-- The loss of main power is a reset in which the sites lose their bytes too (R407). -/
theorem execMainPowerLoss_eq (s : State) : ∃ u, (u.spi = s.spi ∧ u.mem = s.mem ∧ u.key = s.key) ∧
    exec .mainPowerLoss s = .next { clearHub u with
      mem := { (clearHub u).mem with cells := (clearHub u).mem.cells.filter (fun c => decide (2 ^ 64 ≤ c.1)), bad := [] },
      pins := { (clearHub u).pins with mainPower := false } } := by
  refine ⟨when s.evr.scanDone (State.onEvr fun e => { e with interrupted := nextRecord e }) s, ?_, rfl⟩
  exact when_keeps (fun u => u.spi = s.spi ∧ u.mem = s.mem ∧ u.key = s.key) _ _ s ⟨rfl, rfl, rfl⟩ ⟨rfl, rfl, rfl⟩

/-! ### The sites (R393, R394) -/

theorem onSite_same (n : Site) (f : SiteState → SiteState) (s : State) : (onSite n f s).mem.sites[n] = f s.mem.sites[n] :=
  State.vupd_same _ n f

theorem degradeSoon_mem (p : Part) (s : State) : (degradeSoon p s).mem = s.mem :=
  when_keeps (fun t => t.mem = s.mem) _ _ s rfl rfl

theorem postBoth_mem (p : Part) (cls : EventClass) (st : Status) (sev : Severity) (source : Nat) (det : U64) (s : State) :
    (postBoth p cls st sev source det s).mem = s.mem := by
  rw [postBoth, postF0_mem, (post_frame (.part p) cls st sev source det s).1]

/-- A site that fails keeps every byte of memory. -/
theorem failSite_mem (n : Site) (s : State) : (failSite n s).mem = (onSite n (fun x => { x with failed := true }) s).mem := by
  unfold failSite
  extract_lets u src det
  split
  · rw [degradeSoon_mem, postBoth_mem]
  · exact postF0_mem ..

/-- The training of a site that is neither TRAINED nor FAILED ends (R394). -/
theorem execDramTrainingComplete_ends {s : State} {n : Site} (hr : s.pins.resetN = true) (ht : (s.mem.sites[n]).trained = false)
    (hf : (s.mem.sites[n]).failed = false) (ok : Bool) : exec (.dramTrainingComplete n ok) s
      = .next (if ok then onSite n (fun x => { x with zeroing := true }) s else failSite n s) := by
  rw [exec, execDramTrainingComplete, if_neg (by rw [hr, ht, hf]; decide)]

/-! ### UCIe (R396) -/

/-- A lost join takes dies, sites and ports out of use, and no module. -/
theorem loseJoin_ucie (j : Join) (s : State) : (loseJoin j s).ucie = s.ucie := by
  unfold loseJoin
  extract_lets dieOff siteOff portOff
  have hdie : ∀ d t, (dieOff d t).ucie = t.ucie := fun d t => by simp only [dieOff]; split <;> rfl
  have hsite : ∀ n t, (siteOff n t).ucie = t.ucie := fun n t => by simp only [siteOff]; split <;> rfl
  have hport : ∀ q t, (portOff q t).ucie = t.ucie := fun q t => by simp only [portOff]; split <;> rfl
  clear_value dieOff siteOff portOff
  cases j with
  | cm d => exact hdie _ _
  | mm i => rfl
  | lm k => rw [hport, hport]
  | hm k => rw [hdie, hdie, hsite, hsite, hport, hport]

theorem postJoin_ucie (j : Join) (s : State) : (postJoin j s).ucie = s.ucie := by
  unfold postJoin
  rw [postF0_frame]

/-- The joins' losses leave what the training of the modules gave. -/
theorem execUcieTrainingComplete_ucie (l : List UcieModule) (s : State) :
    ∃ t, exec (.ucieTrainingComplete l) s = .next t ∧ t.ucie = vall s.ucie fun m x => { x with trained := !l.contains m } := by
  refine ⟨_, rfl, ?_⟩
  refine forAll_keeps (fun t => t.ucie = vall s.ucie fun m x => { x with trained := !l.contains m }) allJoins _ _ rfl ?_
  intro j _ t ht
  extract_lets live u
  have hu : u.ucie = t.ucie := postJoin_ucie j t
  split
  · exact ht
  · split
    · rw [loseJoin_ucie, hu, ht]
    · rw [hu, ht]

end Sys2Proof.Machine

open Sys2Proof Sys2Proof.Machine

/-- Settles O53: nothing is listed at reset, and what is not listed reads zero. -/
theorem memoryIsCanonicalAtReset : Obligations.MemoryIsCanonicalAtReset :=
  ⟨rfl, rfl, rfl, fun _ => rfl⟩

/-- Settles O36: what a reset clears is the part of the state that `clearHub` does not carry over, and the boot after it touches
neither memory nor fuses. -/
theorem resetEndsEverything : Obligations.ResetEndsEverything := by
  refine ⟨fun s h => ?_, fun s => ⟨?_, ?_⟩, fun s => ⟨fun hb => ?_, fun hb => ?_⟩,
    fun s n => ⟨fun hr ht hf => ⟨?_, ?_⟩, fun hz => ?_⟩, fun s l => ?_⟩
  · obtain ⟨t, he, ⟨h1, h2, h3, h4, h5, h6, h7, h8, h9, h10, h11⟩, hrun⟩ := execHubReset_leaves h s
    refine ⟨t, he, h1, h2, h3, h4, h5, h6, fun q b => ?_, h8, hrun, h9, h10, fun a ha => ?_, fun a ha => ?_⟩
    · rw [State.sub, h7]; simp [clearHub]
    · rw [State.byteAt, h11]; exact byteAt_clearHub_dropped s ha
    · rw [State.byteAt, h11]; exact byteAt_clearHub_kept s ha
  · exact ⟨_, rfl, rfl, rfl, rfl, rfl, rfl, rfl, rfl, fun a ha => byteAt_clearHub_kept s ha⟩
  · obtain ⟨u, ⟨_, hmem, hkey⟩, he⟩ := execMainPowerLoss_eq s
    refine ⟨_, he, rfl, ?_, rfl, fun a ha => ?_, fun a ha => ?_⟩
    · show u.key.vbat = s.key.vbat
      rw [hkey]
    · exact cellGet_filter_dropped (P := fun c => decide (2 ^ 64 ≤ c)) (decide_eq_false (Nat.not_le.mpr ha)) _
    · refine (cellGet_filter_kept (P := fun c => decide (2 ^ 64 ≤ c)) (decide_eq_true ha) _).trans ?_
      rw [State.byteAt, ← hmem]
      exact byteAt_clearHub_kept u (.inr ha)
  · refine ⟨_, by rw [exec, execToxelStart, if_pos hb], rfl, rfl, fun q => ?_⟩
    simp [State.onHub]
  · rw [exec, execToxelStart, if_neg (by rw [hb]; decide)]
  · exact ⟨_, execDramTrainingComplete_ends hr ht hf true, rfl, rfl, onSite_same n _ s⟩
  · refine ⟨failSite n s, execDramTrainingComplete_ends hr ht hf false, ?_, ?_⟩
    · rw [failSite_mem, onSite_same]
    · rw [failSite_mem]; rfl
  · refine ⟨_, by rw [exec, execSiteZeroingComplete, if_neg (by rw [hz]; decide)], rfl, onSite_same n _ _,
      fun a ha => ?_, fun off ho => ?_⟩
    · exact byteAt_zeroRange_outside s ha
    · exact byteAt_zeroRange_inside s (by simp only [dramKey]; omega)
  · obtain ⟨t, he, ht⟩ := execUcieTrainingComplete_ucie l s
    exact ⟨t, he, fun m => by rw [ht]; simp⟩
end

section
/-! PROOFS. The register values of `State.reset` (R18, R176, R247, R345). -/

namespace Sys2Proof.Machine

/-- At reset a region's logical clusters stand in order on its first eight physical ones (R18). -/
theorem log_clusterMap_reset (j : Fin 8) : (({} : ClusterMap).log[j]).toNat = j.val := by
  revert j; decide

theorem map_reset (d : Die) (r : Region) : ((State.reset.dies[d]).regions[r]).map = {} := by
  simp [State.reset]

theorem physOf_reset (d : Die) (c : Cluster) : State.reset.physOf d c = some (9 * (c.val / 8) + c.val % 8) := by
  have hlog := log_clusterMap_reset ⟨c.val % 8, by omega⟩
  simp only [State.physOf, map_reset, hlog]
  exact if_pos (by omega)

theorem sub_reset (q : RPort) (b : SubPort) : State.reset.sub q b = {} := by
  simp [State.reset, State.sub]

theorem hif_reset (fn : Fn) : State.reset.hif fn = {} := by
  cases fn <;> simp [State.reset, State.hif, State.part]

theorem part_reset (p : Part) : State.reset.part p = {} := by
  simp [State.reset, State.part]

end Sys2Proof.Machine

open Sys2Proof Sys2Proof.Machine

/-- Settles O56: a scalar register is what the state's definition states, and a vector's elements are all alike. -/
theorem resetLeavesTheStatedValues : Obligations.ResetLeavesTheStatedValues := by
  refine ⟨physOf_reset, rfl, rfl, rfl, rfl, fun p => by rw [part_reset], rfl, rfl, rfl, rfl, rfl, rfl, rfl, rfl, rfl, rfl, rfl,
    fun q b => ?_, rfl, rfl, rfl, fun n => rfl, fun fn => by rw [hif_reset], rfl⟩
  rw [sub_reset]
  exact ⟨rfl, rfl, rfl, rfl⟩
end

section
/-! PROOFS. The PCIe links, UCIe flits and lanes, tamper, hold-up, and the TAP (R14, R289, R347, R395, R409, R413). -/

namespace Sys2Proof.Machine

/-! ### PCIe links (R347, R392, R395) -/

theorem onLink_link_same (q : PciePort) (f : PcieLink → PcieLink) (s : State) :
    (onLink q f s).hub.links[q] = f s.hub.links[q] := onHub_link_same s q f

theorem onLink_link_other {q r : PciePort} (h : r ≠ q) (f : PcieLink → PcieLink) (s : State) :
    (onLink q f s).hub.links[r] = s.hub.links[r] := State.vupd_other _ q r f h

/-- What a port whose link leaves L0 keeps of the hub: the other port's link and configuration space. -/
theorem linkDown_spec (q : PciePort) (s : State) :
    ((linkDown q s).hub.links[q]).inL0 = false ∧ ((linkDown q s).hub.links[q]).ideKey = none
      ∧ (linkDown q s).hub.fnConfig[q] = Vector.replicate 9 {}
      ∧ ∀ r, r ≠ q → (linkDown q s).hub.links[r] = s.hub.links[r] ∧ (linkDown q s).hub.fnConfig[r] = s.hub.fnConfig[r] := by
  have hlinks : ∀ r : PciePort, (linkDown q s).hub.links[r] = (onLink q (fun l =>
    { l with inL0 := false, outSince := if l.inL0 then s.sys.now else l.outSince, ideSecure := false, ideKey := none })
      s).hub.links[r] := fun r => rfl
  have hconfig : (linkDown q s).hub.fnConfig = vput s.hub.fnConfig q (Vector.replicate 9 {}) := rfl
  refine ⟨?_, ?_, ?_, fun r hr => ⟨?_, ?_⟩⟩
  · rw [hlinks, onLink_link_same]
  · rw [hlinks, onLink_link_same]
  · rw [hconfig]; exact State.vput_same _ q _
  · rw [hlinks, onLink_link_other hr]
  · rw [hconfig, State.vput_other _ q r _ hr]

/-- The repeated check of the reservations changes partitions alone (R276). -/
theorem recheck_frame (s : State) : recheck s = { s with parts := (recheck s).parts } :=
  forAll_keeps (fun t => t = { s with parts := t.parts }) _ degradeSoon s rfl fun p _ t ht =>
    when_keeps (fun u => u = { s with parts := u.parts }) _ _ t ht (by rw [ht]; rfl)

/-- A link that has changed, with the check repeated where its capacity fell, has what it was given; memory is as it was. -/
theorem when_recheck_onLink (b : Bool) (q : PciePort) (f : PcieLink → PcieLink) (s : State) :
    (when b recheck (onLink q f s)).mem = s.mem ∧ (when b recheck (onLink q f s)).hub.links[q] = f s.hub.links[q] := by
  refine when_keeps (fun t => t.mem = s.mem ∧ t.hub.links[q] = f s.hub.links[q]) b recheck _ ⟨rfl, onLink_link_same q f s⟩ ?_
  rw [recheck_frame]
  exact ⟨rfl, onLink_link_same q f s⟩

/-! ### UCIe (R14) -/

/-- A flit the direction still holds among its newest 64 is in the buffer. -/
theorem mem_replayBuffer_send {n flit : Nat} {x : UcieDir} (h1 : 1 ≤ flit) (h2 : flit ≤ max x.sent n)
    (h3 : max x.sent n < flit + 64) : (x.send n).replayBuffer.contains flit = true := by
  have hmem : flit ∈ (x.send n).replayBuffer :=
    List.mem_map.mpr ⟨max x.sent n - flit, List.mem_range.mpr (by omega), by omega⟩
  simpa using hmem

/-- A replay changes only which flit was replayed last. -/
theorem replay_frame (flit : Nat) (x : UcieDir) : x.replay flit = { x with replayed := (x.replay flit).replayed } := by
  unfold UcieDir.replay
  split <;> rfl

/-- A direction after a failed flit: what it has sent, how many flits its buffer holds, and the replay. -/
theorem sendReplay_spec (n flit : Nat) (x : UcieDir) :
    ((x.send n).replay flit).sent = max x.sent n ∧ ((x.send n).replay flit).replayBuffer.length = min 64 (max x.sent n)
      ∧ (1 ≤ flit → flit ≤ max x.sent n → max x.sent n < flit + 64 → ((x.send n).replay flit).replayed = some flit) := by
  refine ⟨?_, ?_, fun h1 h2 h3 => ?_⟩
  · rw [replay_frame]; rfl
  · rw [replay_frame]
    exact (List.length_map _).trans List.length_range
  · rw [UcieDir.replay, if_pos (mem_replayBuffer_send h1 h2 h3)]

/-- A failing lane of a module in use is seen by a PORT event, and the rest of memory and modules stays. -/
theorem postJoin_vput_ucie (j : Join) (m : UcieModule) (x : UcieState) (s : State) :
    let t := postJoin j { s with ucie := vput s.ucie m x }
    t.mem = s.mem ∧ t.ucie[m] = x ∧ ∀ k, k ≠ m → t.ucie[k] = s.ucie[k] := by
  intro t
  have hu : t.ucie = vput s.ucie m x := postJoin_ucie j _
  refine ⟨by simp only [t, postJoin, postF0_mem], ?_, fun k hk => ?_⟩
  · rw [hu]; exact State.vput_same _ m x
  · rw [hu]; exact State.vput_other _ m k x hk

/-! ### Tamper (R289) -/

/-- What the end of a running test leaves of the keys, the DRBGs, the system state, memory, and the sub-ports (R388, R389). -/
def TestEndKeeps (s t : State) : Prop :=
  t.key = s.key ∧ t.rng = s.rng ∧ t.sys = s.sys ∧ t.mem = s.mem ∧ ∀ q b, t.sub q b = s.sub q b

theorem TestEndKeeps.refl (s : State) : TestEndKeeps s s := ⟨rfl, rfl, rfl, rfl, fun _ _ => rfl⟩

theorem TestEndKeeps.trans {s t u : State} (h : TestEndKeeps s t) (g : TestEndKeeps t u) : TestEndKeeps s u := by
  obtain ⟨h1, h2, h3, h4, h5⟩ := h
  obtain ⟨g1, g2, g3, g4, g5⟩ := g
  exact ⟨g1.trans h1, g2.trans h2, g3.trans h3, g4.trans h4, fun q b => (g5 q b).trans (h5 q b)⟩

theorem restoreTarget_keeps (r : TestRun) (s : State) : TestEndKeeps s (restoreTarget r s) := by
  unfold restoreTarget
  split
  · exact ⟨rfl, rfl, rfl, rfl, fun _ _ => rfl⟩
  · split
    · refine ⟨rfl, rfl, rfl, rfl, fun q b => ?_⟩
      simp only [State.sub, Fin.getElem_fin, vall_get]
      split <;> rfl
    · exact ⟨rfl, rfl, rfl, rfl, fun _ _ => rfl⟩

theorem complete_keeps (c : Cmd) (op : Nat) (st : Status) (aux result : Nat) (s : State) :
    TestEndKeeps s (complete c op st aux result s) := by
  rcases complete_cases c op st aux result s with h | ⟨_, _, _, h⟩ | ⟨_, _, _, h⟩ <;> rw [h]
  · exact ⟨State.onHif_key .., State.onHif_rng .., State.onHif_sys .., State.onHif_mem .., fun q b => by
      rw [State.sub, postCompletion, State.onHif_ports]; rfl⟩
  · exact .refl s
  · exact ⟨rfl, rfl, rfl, rfl, fun _ _ => rfl⟩

theorem finishTest_keeps (r : TestRun) (result : Nat) (s : State) : TestEndKeeps s (finishTest r result s) := by
  unfold finishTest
  extract_lets u body v
  have hu : TestEndKeeps s u := restoreTarget_keeps r s
  clear_value u body
  have hv : TestEndKeeps u { v with
      tst := { running := none, last := r.test, lastStatus := .ok, lastResult := BitVec.ofNat 64 result } } :=
    ⟨rfl, rfl, rfl, rfl, fun _ _ => rfl⟩
  exact (hu.trans hv).trans (complete_keeps ..)

theorem abortTest_keeps (s : State) : TestEndKeeps s (abortTest s) := by
  unfold abortTest
  split
  · exact finishTest_keeps ..
  · exact .refl s

/-- The event of a tamper, the end of a running test and the wake that follow the erasure undo nothing of it. -/
theorem tamperEvent_keeps (det : U64) (s : State) :
    TestEndKeeps s (wake (abortTest (postF0 .security .tampered .critical 0 det s))) := by
  have hpost : TestEndKeeps s (postF0 .security .tampered .critical 0 det s) := by
    rw [postF0_frame]; exact ⟨rfl, rfl, rfl, rfl, fun _ _ => rfl⟩
  exact (hpost.trans (abortTest_keeps _)).trans ⟨rfl, rfl, rfl, rfl, fun _ _ => rfl⟩

/-- With main power a tamper empties every key slot, association and DRBG, and the fence falls due; the VBAT domain and memory
stay as they are. -/
theorem tamperMain_spec (s : State) :
    (tamperMain s).key.vbat = s.key.vbat ∧ (tamperMain s).key.slots = Vector.replicate 64 {}
      ∧ (tamperMain s).sys.fenceDue = true ∧ (tamperMain s).mem = s.mem
      ∧ (∀ q b, ((tamperMain s).sub q b).assoc = none ∧ ((tamperMain s).sub q b).oldAssoc = none)
      ∧ (tamperMain s).rng.insts = Vector.replicate 13 {} := by
  unfold tamperMain
  extract_lets s1 s2 s3 s4 s5 s6
  have hsub : ∀ q b, (s6.sub q b).assoc = none ∧ (s6.sub q b).oldAssoc = none := fun q b => by
    have e : s6.sub q b = s4.sub q b := rfl
    rw [e]
    simp only [s4, State.sub, Fin.getElem_fin, vall_get, and_self]
  have herased : s6.key.vbat = s.key.vbat ∧ s6.key.slots = Vector.replicate 64 {} ∧ s6.sys.fenceDue = true ∧ s6.mem = s.mem
      ∧ s6.rng.insts = Vector.replicate 13 {} := ⟨rfl, rfl, rfl, rfl, rfl⟩
  clear_value s6
  obtain ⟨hvbat, hslots, hfence, hmem, hinsts⟩ := herased
  obtain ⟨kkey, krng, ksys, kmem, ksub⟩ := tamperEvent_keeps (detail 1 (keyTamper s6).toNat) s6
  exact ⟨by rw [kkey, hvbat], by rw [kkey, hslots], by rw [ksys, hfence], by rw [kmem, hmem],
    fun q b => by rw [ksub]; exact hsub q b, by rw [krng, hinsts]⟩

/-- R289: main power lets the hardware do `tamperMain` besides the erasure of the root. -/
theorem execTamperDetect_eq (c : TamperCause) (mainPower : Bool) (s : State) : exec (.tamperDetect c mainPower) s
    = .next (when mainPower tamperMain (s.onKey fun k => { k with vbat := { dropRoot k.vbat with
        tamper := k.vbat.tamper ||| tamperBit c } })) := rfl

/-! ### The TAP (R413) -/

theorem execTapInstruction_extest_refused {s : State} (h : dbgNow s = 0) (l : List Bool) :
    exec (.tapInstruction (.extest l)) s = .next (s.onPins fun p => { p with tapInstr := .bypass, tapData := [false] }) := by
  simp [exec, execTapInstruction, h]

theorem execTapInstruction_extest_allowed {s : State} (h : dbgNow s = 1 ∨ dbgNow s = 2) (l : List Bool) :
    exec (.tapInstruction (.extest l)) s
      = .next (s.onPins fun p => { p with tapInstr := .extest l, tapData := l, bsrOut := l }) := by
  simp [exec, execTapInstruction, h]

end Sys2Proof.Machine

open Sys2Proof Sys2Proof.Machine

/-- Settles O37: each row changes its own block, and what follows from it (the repeated check, the end of a test, an event)
touches none of what the statement names. -/
theorem linksPinsAndTamper : Obligations.LinksPinsAndTamper := by
  refine ⟨fun s q => ⟨?_, ?_, fun w r sris hr => ?_, fun w r hl => ?_⟩, fun s m => ⟨?_, fun ht hr => ?_⟩,
    fun s c => ⟨⟨_, rfl, rfl⟩, ?_⟩, fun s hp => ?_, fun s => ⟨fun d => rfl, rfl, ⟨_, rfl, rfl, rfl, rfl⟩, fun l hd => ?_,
      fun l hd => ?_⟩⟩
  · obtain ⟨hdown, hkey, hconfig, hother⟩ := linkDown_spec q s
    exact ⟨_, rfl, rfl, hdown, hkey, hconfig, hother⟩
  · obtain ⟨hdown, hkey, hconfig, hother⟩ := linkDown_spec q s
    refine ⟨_, rfl, rfl, ?_, ?_, hconfig, fun r hr => ⟨(onLink_link_other hr _ _).trans (hother r hr).1, (hother r hr).2⟩⟩
    · rw [onLink_link_same]
    · rw [onLink_link_same]; exact hdown
  · exact ⟨_, by rw [exec, execPcieLinkUp, if_neg (by rw [hr]; decide)], when_recheck_onLink _ q _ s⟩
  · exact ⟨_, by rw [exec, execPcieLinkRetrain, if_neg (by rw [hl]; decide)], when_recheck_onLink _ q _ s⟩
  · intro f n
    obtain ⟨hsent, hlen, hreplayed⟩ := sendReplay_spec f.sent f.flit ((s.ucie[m]).dirs[f.dir])
    have hm := State.vupd_same s.ucie m fun x =>
      { x with crcErrors := sat32 x.crcErrors, dirs := vupd x.dirs f.dir fun d => (d.send f.sent).replay f.flit }
    have hd := State.vupd_same (s.ucie[m]).dirs f.dir fun d => (d.send f.sent).replay f.flit
    refine ⟨_, rfl, rfl, ?_⟩
    simp only [Fin.getElem_fin] at hm hd hsent hlen hreplayed ⊢
    simp only [hm, hd]
    exact ⟨trivial, hsent, hlen, hreplayed, fun d h => State.vupd_other _ f.dir d _ h, fun k h => State.vupd_other _ m k _ h⟩
  · refine ⟨_, by rw [exec, execUcieLaneFail, if_neg (by rw [ht, hr]; decide)], ?_⟩
    by_cases hspare : 0 < (s.ucie[m]).spareLanes
    · rw [if_pos hspare]
      obtain ⟨hmem, hsame, hother⟩ := postJoin_vput_ucie (joinOf m) m
        { s.ucie[m] with spareLanes := (s.ucie[m]).spareLanes - 1 } s
      exact ⟨hmem, hother, fun _ => hsame, fun h => by omega⟩
    · rw [if_neg hspare, recheck_frame]
      obtain ⟨hmem, hsame, hother⟩ := postJoin_vput_ucie (joinOf m) m { s.ucie[m] with retired := true } s
      exact ⟨hmem, hother, fun h => absurd h hspare, fun _ => hsame⟩
  · refine ⟨_, execTamperDetect_eq c true s, ?_⟩
    rw [when_true]
    generalize hu : State.onKey (fun k => { k with vbat := { dropRoot k.vbat with tamper := k.vbat.tamper ||| tamperBit c } }) s = u
    have hroot : u.key.vbat.root = none ∧ u.key.vbat.ledger = [] ∧ u.mem = s.mem := by rw [← hu]; exact ⟨rfl, rfl, rfl⟩
    obtain ⟨hvbat, hslots, hfence, hmem, hassoc, hinsts⟩ := tamperMain_spec u
    refine ⟨by rw [hvbat]; exact hroot.1, by rw [hvbat]; exact hroot.2.1, fun i => ?_, hfence, hmem.trans hroot.2.2, hassoc,
      fun i => ?_⟩
    · simp [hslots]
    · simp [hinsts]
  · rw [exec, execHoldupExpiry, if_neg (by rw [hp]; decide)]; rfl
  · exact ⟨_, execTapInstruction_extest_refused hd l, rfl, rfl, rfl⟩
  · exact ⟨_, execTapInstruction_extest_allowed hd l, rfl, rfl, rfl⟩
end

section
/-! PROOFS. The beat boundary of a device with no partition: none of its steps touches the units, the clusters or device memory,
and the next beat starts one period plus the slew later (R25, R154, R160). -/

namespace Sys2Proof.Machine

/-- What a step of such a boundary leaves alone: the clock but for the fence that is due and the chirps sent, the power state asked
for, units and clusters, the partitions' phases, the changes of the cluster maps that are due, and device memory's bytes. -/
structure BoundaryKeeps (s t : State) : Prop where
  sys : ∃ b l, t.sys = { s.sys with fenceDue := b, sentChirps := l }
  stateReq : t.pwr.stateReq = s.pwr.stateReq
  units : t.units = s.units
  clusters : t.clusters = s.clusters
  phase : ∀ p, (t.part p).phase = (s.part p).phase
  swap : ∀ (d : Die) (r : Region), ((t.dies[d]).regions[r]).swap.mapDue = ((s.dies[d]).regions[r]).swap.mapDue
    ∧ ((t.dies[d]).regions[r]).swap.lost = ((s.dies[d]).regions[r]).swap.lost
  byte : ∀ a, a < 2 ^ 64 → t.byteAt a = s.byteAt a

section
variable {s t u : State}

theorem BoundaryKeeps.of_eq (hsys : ∃ b l, t.sys = { s.sys with fenceDue := b, sentChirps := l })
    (hreq : t.pwr.stateReq = s.pwr.stateReq) (hunits : t.units = s.units) (hclusters : t.clusters = s.clusters)
    (hparts : t.parts = s.parts) (hdies : t.dies = s.dies) (hcells : t.mem.cells = s.mem.cells) : BoundaryKeeps s t :=
  ⟨hsys, hreq, hunits, hclusters, fun p => by rw [State.part, hparts]; rfl, fun d r => by rw [hdies]; exact ⟨rfl, rfl⟩,
    fun a _ => by rw [State.byteAt, hcells]; rfl⟩

theorem BoundaryKeeps.refl (s : State) : BoundaryKeeps s s := .of_eq ⟨_, _, rfl⟩ rfl rfl rfl rfl rfl rfl

theorem BoundaryKeeps.trans (h : BoundaryKeeps s t) (g : BoundaryKeeps t u) : BoundaryKeeps s u := by
  obtain ⟨b, l, hb⟩ := h.sys
  obtain ⟨b', l', hb'⟩ := g.sys
  exact ⟨⟨b', l', by rw [hb', hb]⟩, g.stateReq.trans h.stateReq, g.units.trans h.units, g.clusters.trans h.clusters,
    fun p => (g.phase p).trans (h.phase p),
    fun d r => ⟨(g.swap d r).1.trans (h.swap d r).1, (g.swap d r).2.trans (h.swap d r).2⟩,
    fun a ha => (g.byte a ha).trans (h.byte a ha)⟩

theorem BoundaryKeeps.forAll {α : Type} {l : List α} {f : α → State → State} (h : BoundaryKeeps s t)
    (hf : ∀ a ∈ l, ∀ u, BoundaryKeeps u (f a u)) : BoundaryKeeps s (forAll l f t) :=
  forAll_keeps (BoundaryKeeps s) l f t h fun a ha u hu => hu.trans (hf a ha u)

theorem BoundaryKeeps.when {b : Bool} {f : State → State} (hf : BoundaryKeeps s (f s)) : BoundaryKeeps s (when b f s) :=
  when_keeps (BoundaryKeeps s) b f s (.refl s) hf

end

/-! ### Changes of one component -/

section
variable (s : State)

theorem keeps_onPart (p : Part) (f : PartState → PartState) (h : (f (s.part p)).phase = (s.part p).phase) :
    BoundaryKeeps s (s.onPart p f) := by
  refine ⟨⟨_, _, rfl⟩, rfl, rfl, rfl, fun q => ?_, fun _ _ => ⟨rfl, rfl⟩, fun _ _ => rfl⟩
  by_cases hq : q = p
  · rw [hq, State.part_onPart, h]
  · rw [State.part_onPart_other s p q f hq]

theorem region_onRegion (d : Die) (r : Region) (f : RegionState → RegionState) :
    ((State.onRegion d r f s).dies[d]).regions[r] = f (s.dies[d]).regions[r] := by
  have hd : (State.onRegion d r f s).dies[d] = { s.dies[d] with regions := vupd (s.dies[d]).regions r f } :=
    State.vupd_same s.dies d _
  rw [hd]
  exact State.vupd_same (s.dies[d]).regions r f

theorem region_onRegion_other {d e : Die} {r b : Region} (f : RegionState → RegionState) (h : e ≠ d ∨ b ≠ r) :
    ((State.onRegion d r f s).dies[e]).regions[b] = (s.dies[e]).regions[b] := by
  by_cases he : e = d
  · subst he
    have hd : (State.onRegion e r f s).dies[e] = { s.dies[e] with regions := vupd (s.dies[e]).regions r f } :=
      State.vupd_same s.dies e _
    rw [hd]
    exact State.vupd_other _ r b f (h.resolve_left (not_not_intro rfl))
  · have hd : (State.onRegion d r f s).dies[e] = s.dies[e] := State.vupd_other s.dies d e _ he
    rw [hd]

theorem keeps_onRegion (d : Die) (r : Region) (f : RegionState → RegionState)
    (h : ∀ x : RegionState, x = (s.dies[d]).regions[r] → (f x).swap.mapDue = x.swap.mapDue ∧ (f x).swap.lost = x.swap.lost) :
    BoundaryKeeps s (State.onRegion d r f s) := by
  refine ⟨⟨_, _, rfl⟩, rfl, rfl, rfl, fun _ => rfl, fun e b => ?_, fun _ _ => rfl⟩
  by_cases hx : e ≠ d ∨ b ≠ r
  · rw [region_onRegion_other s f hx]
    exact ⟨rfl, rfl⟩
  · obtain ⟨rfl, rfl⟩ : e = d ∧ b = r := by simpa using hx
    rw [region_onRegion]
    exact h _ rfl

theorem keeps_onHif (fn : Fn) (f : HifSet → HifSet) : BoundaryKeeps s (s.onHif fn f) := by
  cases fn with
  | f0 q => exact .of_eq ⟨_, _, rfl⟩ rfl rfl rfl rfl rfl rfl
  | part p => exact keeps_onPart s p _ rfl

theorem keeps_onFetched (fn : Fn) (f : List (U32 × U8) → List (U32 × U8)) : BoundaryKeeps s (s.onFetched fn f) := by
  cases fn with
  | f0 q => exact .of_eq ⟨_, _, rfl⟩ rfl rfl rfl rfl rfl rfl
  | part p => exact keeps_onPart s p _ rfl

/-- A write to a host's memory is none to the device's. -/
theorem keeps_store_host {k : Nat} (b : Bytes) (x : Bool) (h : 2 ^ 64 ≤ k) : BoundaryKeeps s (s.store k b x) :=
  ⟨⟨_, _, rfl⟩, rfl, rfl, rfl, fun _ => rfl, fun _ _ => ⟨rfl, rfl⟩,
    fun a ha => byteAt_store_outside s k a b x (.inl (Nat.lt_of_lt_of_le ha h))⟩

end

/-! ### Events and completions -/

section
variable (fn : Fn) (p : Part) (cls : EventClass) (st : Status) (sev : Severity) (source : Nat) (det : U64) (s : State)

theorem keeps_post : BoundaryKeeps s (post fn cls st sev source det s) := by
  rw [post, record_frame]
  exact (keeps_onHif s fn _).trans (.of_eq ⟨_, _, rfl⟩ rfl rfl rfl rfl rfl rfl)

theorem keeps_postF0 : BoundaryKeeps s (postF0 cls st sev source det s) := keeps_post s.f0 cls st sev source det s

theorem keeps_postBoth : BoundaryKeeps s (postBoth p cls st sev source det s) :=
  (keeps_post (.part p) cls st sev source det s).trans (keeps_postF0 cls st sev source det _)

end

theorem keeps_postMemory (owner : Option Part) (key off : Nat) (st : Status) (sev : Severity) (source : Nat) (s : State) :
    BoundaryKeeps s (postMemory owner key off st sev source s) := by
  unfold postMemory
  split
  · split
    · exact keeps_postBoth ..
    · exact keeps_postF0 ..
  · exact keeps_postF0 ..

theorem keeps_postSlice (d : Die) (c : Cluster) (st : Status) (sev : Severity) (source : Nat) (s : State) :
    BoundaryKeeps s (postSlice d c st sev source s) := by
  unfold postSlice
  split
  · split
    · exact keeps_postBoth ..
    · exact keeps_postF0 ..
  · exact keeps_postF0 ..

theorem keeps_postCompletion (c : Cmd) (op : Nat) (st : Status) (aux result : Nat) (s : State) :
    BoundaryKeeps s (postCompletion c op st aux result s) := keeps_onHif s c.fn _

theorem keeps_done (c : Cmd) (op : Nat) (st : Status) (s : State) : BoundaryKeeps s (done c op st s) := by
  rw [done]
  rcases complete_cases c op st 0 0 s with h | ⟨_, _, _, h⟩ | ⟨p, _, _, h⟩ <;> rw [h]
  · exact keeps_postCompletion ..
  · exact .refl s
  · exact keeps_onPart s p _ rfl

/-! ### What reads met in error (R196, R197, R204) -/

section
variable (s : State) (d : Die) (r : Region) (n : Site) (row line : Nat)

theorem keeps_onStore_cells (f : MemState → MemState) (h : (f s.mem).cells = s.mem.cells) :
    BoundaryKeeps s (s.onStore f) := .of_eq ⟨_, _, rfl⟩ rfl rfl rfl rfl rfl h

theorem keeps_onSwap (f : SwapState → SwapState)
    (h : ∀ w : SwapState, w = ((s.dies[d]).regions[r]).swap → (f w).mapDue = w.mapDue ∧ (f w).lost = w.lost) :
    BoundaryKeeps s (onSwap d r f s) := keeps_onRegion s d r _ fun x hx => h x.swap (congrArg RegionState.swap hx)

theorem keeps_onTest (f : TestRegion → TestRegion) : BoundaryKeeps s (onTest d r f s) :=
  keeps_onRegion s d r _ fun _ _ => ⟨rfl, rfl⟩

theorem keeps_retireLogical (c : Cluster) : BoundaryKeeps s (retireLogical d c true true s) := by
  unfold retireLogical
  extract_lets r j m
  split
  · exact .refl s
  · split
    · exact keeps_onSwap s d r _ fun _ _ => ⟨rfl, rfl⟩
    · exact keeps_postSlice ..

theorem keeps_markCluster (phys : PhysCluster) : BoundaryKeeps s (markCluster d phys s) := by
  unfold markCluster
  extract_lets r off m
  split
  · exact keeps_retireLogical ..
  · split
    · exact .refl s
    · have hout : BoundaryKeeps s (outOfService d phys s) := keeps_onSwap s d _ _ fun _ _ => ⟨rfl, rfl⟩
      exact (hout.trans (keeps_onTest _ d r _)).trans (keeps_postF0 ..)

theorem keeps_noteUe (owner : Option Part) (key off source : Nat) : BoundaryKeeps s (noteUe owner key off source s) := by
  rw [noteUe]
  exact (keeps_onStore_cells s _ rfl).trans (keeps_postMemory ..)

theorem keeps_queueRow : BoundaryKeeps s (queueRow n row s) := .of_eq ⟨_, _, rfl⟩ rfl rfl rfl rfl rfl rfl

theorem keeps_settleRead : BoundaryKeeps s (settleRead line s) := by
  have hsram (e : Die) (c : PhysCluster) (l : Nat) : BoundaryKeeps s (sramCorrected e c s)
      ∧ BoundaryKeeps s (sramUncorrectable e c l s) := by
    constructor
    · rw [sramCorrected]
      exact (keeps_onStore_cells s _ rfl).trans (.when (keeps_markCluster ..))
    · rw [sramUncorrectable]
      exact ((keeps_onStore_cells s _ rfl).trans (keeps_noteUe ..)).trans (keeps_markCluster ..)
  have hdram (m : Site) (x l : Nat) : BoundaryKeeps s (dramCorrected m x s) ∧ BoundaryKeeps s (dramUncorrectable m x l s) := by
    constructor
    · rw [dramCorrected]
      exact ((keeps_onStore_cells s _ rfl).trans (keeps_onStore_cells _ _ rfl)).trans (.when (keeps_queueRow ..))
    · rw [dramUncorrectable]
      exact ((keeps_onStore_cells s _ rfl).trans (keeps_noteUe ..)).trans (keeps_queueRow ..)
  unfold settleRead
  extract_lets
  split
  · exact .refl s
  · split
    · split
      · split
        · exact (hsram _ _ 0).1
        · exact (hsram _ _ _).2
      · exact .refl s
    · split
      · split
        · exact (hdram _ _ 0).1
        · exact (hdram _ _ _).2
      · exact .refl s

theorem keeps_settleReads : BoundaryKeeps s (settleReads s) := by
  rw [settleReads]
  exact (keeps_onStore_cells s _ rfl).forAll fun l _ t => keeps_settleRead t l

end

/-! ### Commands and exchanges that waited for random bits (R317, R318) -/

theorem keeps_refuseConn (n : Nat) (st : Status) (s : State) : BoundaryKeeps s (refuseConn n st s) := by
  have hfree : BoundaryKeeps s (freeConn n s) := by
    unfold freeConn
    extract_lets c t
    have ht : BoundaryKeeps s t := by
      simp only [t]
      split
      · exact .of_eq ⟨_, _, rfl⟩ rfl rfl rfl rfl rfl rfl
      · have hconn : BoundaryKeeps s (State.onConn n (fun c => { c with state := .free }) s) :=
          .of_eq ⟨_, _, rfl⟩ rfl rfl rfl rfl rfl rfl
        exact hconn.trans (keeps_store_host _ _ _ (le_hostKey _ _))
    clear_value t
    exact ht.trans (.of_eq ⟨_, _, rfl⟩ rfl rfl rfl rfl rfl rfl)
  unfold refuseConn
  extract_lets c t
  have ht : BoundaryKeeps s t := hfree
  clear_value t
  split
  · exact ht.trans (keeps_done ..)
  · exact ht

theorem keeps_failWaiting (w : DrbgWait) (s : State) : BoundaryKeeps s (failWaiting w s) := by
  unfold failWaiting
  split
  · exact keeps_done ..
  · exact .when (keeps_refuseConn ..)
  · exact .of_eq ⟨_, _, rfl⟩ rfl rfl rfl rfl rfl rfl
  · exact .of_eq ⟨_, _, rfl⟩ rfl rfl rfl rfl rfl rfl
  all_goals exact .refl s

theorem keeps_failHostWaits (s : State) : BoundaryKeeps s (failHostWaits s) := by
  have hrng (f : RngState → RngState) : BoundaryKeeps s (s.onRng f) := .of_eq ⟨_, _, rfl⟩ rfl rfl rfl rfl rfl rfl
  unfold failHostWaits
  split
  · exact .refl s
  · exact (hrng _).forAll fun w _ t => keeps_failWaiting w t

end Sys2Proof.Machine
end

section
/-! PROOFS. The steps of the boundary of a device with no partition, and the boundary made of them (R25, R154, R160, R172). -/

namespace Sys2Proof.Machine

/-- No partition exists, no change of a cluster map is due, and no power state is asked for. -/
structure QuietBoundary (s : State) : Prop where
  absent : ∀ p, (s.part p).phase = .absent
  unswapped : ∀ (d : Die) (r : Region), ((s.dies[d]).regions[r]).swap.mapDue = false ∧ ((s.dies[d]).regions[r]).swap.lost = []
  noRequest : s.pwr.stateReq = 0

section
variable {s t : State}

theorem BoundaryKeeps.quiet (h : BoundaryKeeps s t) (hq : QuietBoundary s) : QuietBoundary t :=
  ⟨fun p => (h.phase p).trans (hq.absent p),
    fun d r => ⟨(h.swap d r).1.trans (hq.unswapped d r).1, (h.swap d r).2.trans (hq.unswapped d r).2⟩,
    h.stateReq.trans hq.noRequest⟩

theorem QuietBoundary.exists_ (h : QuietBoundary s) (p : Part) : s.exists_ p = false := by
  rw [State.exists_, h.absent p]
  rfl

/-- Steps that keep a quiet device, in turn. -/
theorem BoundaryKeeps.forAll_quiet {α : Type} {l : List α} {f : α → State → State} (hq : QuietBoundary s)
    (hf : ∀ a ∈ l, ∀ t, QuietBoundary t → BoundaryKeeps t (f a t)) : BoundaryKeeps s (Machine.forAll l f s) :=
  forAll_keeps (BoundaryKeeps s) l f s (.refl s) fun a ha t ht => ht.trans (hf a ha t (ht.quiet hq))

end

/-! ### Steps 1 to 4 -/

section
variable {s : State}

theorem keeps_stepEnd (p : Part) (h : QuietBoundary s) : BoundaryKeeps s (stepEnd p s) := by
  unfold stepEnd
  extract_lets x t
  have ht : BoundaryKeeps s t := keeps_onPart s p _ rfl
  have hx : x.phase = .absent := h.absent p
  rw [hx]
  exact ht

theorem keeps_stepLost (d : Die) (h : QuietBoundary s) : BoundaryKeeps s (stepLost d s) :=
  .forAll_quiet h fun r _ t ht => by
    have hlost := (ht.unswapped d r).2
    simp only [hlost, forAll_nil, ite_self]
    exact .refl t

theorem stepHolds_quiet (p : Part) (h : QuietBoundary s) : stepHolds p s = (setHolds p [] s, false) := by
  simp only [stepHolds, h.absent p, PartPhase.live]
  rw [if_neg fun hlive => absurd hlive.2 (by decide), if_neg (by decide), if_pos (by decide)]
  rfl

theorem keeps_setHolds (p : Part) (l : List HeldCause) (s : State) : BoundaryKeeps s (setHolds p l s) := keeps_onPart s p _ rfl

/-- No partition goes on from step 4. -/
theorem eachGoing_stepHolds (l : List Part) (h : QuietBoundary s) :
    ∃ t, eachGoing l stepHolds s = (t, []) ∧ BoundaryKeeps s t := by
  unfold eachGoing
  suffices hall : ∀ t, BoundaryKeeps s t → ∃ u, l.foldl (fun (a : State × List Part) p =>
      let r := stepHolds p a.1; (r.1, if r.2 then a.2 ++ [p] else a.2)) (t, []) = (u, []) ∧ BoundaryKeeps s u from
    hall s (.refl s)
  induction l with
  | nil => exact fun t ht => ⟨t, rfl, ht⟩
  | cons p l ih =>
    intro t ht
    rw [List.foldl_cons]
    simp only [stepHolds_quiet p (ht.quiet h)]
    exact ih _ (ht.trans (keeps_setHolds p [] t))

/-! ### Step 6 -/

theorem keeps_onMap (d : Die) (r : Region) (f : ClusterMap → ClusterMap) (s : State) : BoundaryKeeps s (onMap d r f s) :=
  keeps_onRegion s d r _ fun _ _ => ⟨rfl, rfl⟩

theorem keeps_stepRegion (d : Die) (r : Region) (h : QuietBoundary s) : BoundaryKeeps s (stepRegion d r s) := by
  obtain ⟨hdue, hlost⟩ := h.unswapped d r
  unfold stepRegion
  extract_lets w t u v x
  have ht : BoundaryKeeps s t := (BoundaryKeeps.refl s).forAll fun off _ z => keeps_onMap d r _ z
  clear_value t
  have hu : BoundaryKeeps t u := by
    simp only [u]
    split
    · exact keeps_onMap d r _ t
    · exact .refl t
  clear_value u
  have hv : BoundaryKeeps u v := keeps_onSwap u d r _ fun _ _ => ⟨rfl, rfl⟩
  clear_value v
  have hx : x = v := by
    simp only [x, w, hdue]
    rfl
  rw [hx, show w.lost = [] from hlost]
  exact (ht.trans hu).trans hv

theorem keeps_cancelSwap (d : Die) (r : Region) (h : QuietBoundary s) : BoundaryKeeps s (cancelSwap d r s) :=
  keeps_onSwap s d r _ fun w hw => by
    split
    · exact ⟨rfl, rfl⟩
    · exact ⟨by rw [hw, (h.unswapped d r).1], rfl⟩

theorem keeps_stepSwaps (d : Die) (h : QuietBoundary s) : BoundaryKeeps s (stepSwaps [] d s) := by
  unfold stepSwaps onRegions
  split
  · exact .forAll_quiet h fun r _ t => keeps_stepRegion d r
  · exact .forAll_quiet h fun r _ t => keeps_cancelSwap d r

/-! ### Steps 7 and 8 -/

theorem keeps_onPwr (f : PwrState → PwrState) (s : State) (h : (f s.pwr).stateReq = s.pwr.stateReq) :
    BoundaryKeeps s (s.onPwr f) := .of_eq ⟨_, _, rfl⟩ h rfl rfl rfl rfl rfl

theorem keeps_meter (m : BoundaryInputs) (s : State) : BoundaryKeeps s (meter m s) := by
  unfold meter
  extract_lets
  exact keeps_onPwr _ s rfl

theorem keeps_gateDie (d : Die) (s : State) : BoundaryKeeps s (gateDie d s) := by
  unfold gateDie
  exact keeps_onPwr _ s rfl

theorem keeps_enterPowerState (h : QuietBoundary s) : BoundaryKeeps s (enterPowerState s) := by
  have hp0 : deepest s s.pwr.stateReq = .p0 := by
    rw [h.noRequest]
    rfl
  unfold enterPowerState
  rw [hp0]
  extract_lets t t'
  have hstay : (s.pwr.wakeSeen || s.pwr.exiting || decide (t.code ≤ s.pwr.state.code)) = true := by
    rw [show t.code = 0 from rfl]
    simp
  rw [if_pos hstay]
  exact keeps_onPwr _ s rfl

theorem keeps_noteState (p : Part) (h : QuietBoundary s) : BoundaryKeeps s (when (s.exists_ p) (noteState p) s) := by
  rw [h.exists_ p]
  exact .refl s

/-! ### Step 9 -/

theorem keeps_stepNotes (p : Part) (s : State) : BoundaryKeeps s (stepNotes p s) := by
  unfold stepNotes
  extract_lets n
  split
  · exact .refl s
  · exact (keeps_onPart s p _ rfl).trans (keeps_postBoth ..)

theorem keeps_clearNotes (s : State) : BoundaryKeeps s (clearNotes s) := .of_eq ⟨_, _, rfl⟩ rfl rfl rfl rfl rfl rfl

theorem keeps_claimBoundary (s : State) : BoundaryKeeps s (claimBoundary s) := by
  unfold claimBoundary
  split
  · exact .refl s
  · exact .of_eq ⟨_, _, rfl⟩ rfl rfl rfl rfl rfl rfl

theorem keeps_fetchOne_f0 (q : PciePort) (s : State) : BoundaryKeeps s (fetchOne (.f0 q) s) := by
  have h1 := keeps_onHif s (.f0 q) fun h => { h with cmdConsumed := h.cmdConsumed + 1, outstanding := h.outstanding + 1 }
  have h2 (l : U32 × U8) (t : State) : BoundaryKeeps t (t.onFetched (.f0 q) fun x => x ++ [l]) := keeps_onFetched t (.f0 q) _
  unfold fetchOne
  extract_lets h port b tag op t u i
  have hu : BoundaryKeeps s u := h1.trans (h2 _ _)
  clear_value u
  split
  · exact hu.trans (keeps_postCompletion ..)
  · exact hu

theorem keeps_fetchSome_f0 (q : PciePort) (n : Nat) (s : State) : BoundaryKeeps s (fetchSome (.f0 q) n s) := by
  induction n generalizing s with
  | zero => exact keeps_onHif s (.f0 q) _
  | succ n ih =>
    unfold fetchSome
    extract_lets h held
    split
    · exact keeps_onHif s (.f0 q) _
    · split
      · exact keeps_onHif s (.f0 q) _
      · exact (keeps_fetchOne_f0 q s).trans (ih _)

theorem keeps_fetchCommands_f0 (q : PciePort) (failed : Bool) (s : State) : BoundaryKeeps s (fetchCommands (.f0 q) failed s) := by
  unfold fetchCommands
  extract_lets h present
  split
  · exact .refl s
  · split
    · exact keeps_onHif s (.f0 q) _
    · split
      · exact (keeps_onHif s (.f0 q) _).trans (keeps_post ..)
      · exact keeps_fetchSome_f0 q 64 s

theorem keeps_putEntries (q : Nat) (base : U64) (k size : Nat) (i : U32) (l : List Bytes) (s : State) :
    BoundaryKeeps s (putEntries q base k size i l s) := by
  -- `delta`, for the equation lemma of `putEntries` compares `i` with `i + 1` in the kernel
  delta putEntries
  induction l generalizing i s with
  | nil => exact .refl s
  | cons b l ih =>
    have hstore := keeps_store_host s b false (le_hostKey q (base.toNat + size * (i.toNat % 2 ^ k)))
    exact hstore.trans (ih (i + 1) _)

theorem keeps_flushRings (fn : Fn) (s : State) : BoundaryKeeps s (flushRings fn s) := by
  unfold flushRings
  extract_lets h q cs t1 t2 t3 t4 h' now t5
  split
  · exact .refl s
  · have h1 : BoundaryKeeps s t1 := keeps_putEntries ..
    have h2 : BoundaryKeeps t1 t2 := keeps_putEntries ..
    have h3 : BoundaryKeeps t2 t3 := keeps_putEntries ..
    have h4 : BoundaryKeeps t3 t4 := keeps_onFetched t3 fn _
    have h5 : BoundaryKeeps t4 t5 := keeps_onHif t4 fn _
    have hall := (((h1.trans h2).trans h3).trans h4).trans h5
    clear_value t5
    split
    · exact hall
    · exact hall.trans (keeps_store_host _ _ _ (le_hostKey _ _))

theorem keeps_stepFetch_f0 (m : BoundaryInputs) (q : PciePort) (s : State) : BoundaryKeeps s (stepFetch m (.f0 q) true s) := by
  have henable (t : State) : BoundaryKeeps t (hifEnableCheck (.f0 q) t) := keeps_onHif t (.f0 q) _
  rw [stepFetch, if_pos rfl]
  exact ((henable s).trans (keeps_fetchCommands_f0 q _ _)).trans (keeps_flushRings ..)

theorem keeps_stepFetch_part (m : BoundaryInputs) (p : Part) (s : State) : BoundaryKeeps s (stepFetch m (.part p) false s) := by
  rw [stepFetch]
  exact keeps_flushRings (.part p) s

/-! ### Step 10 -/

theorem keeps_stepStart (p : Part) (b : Nat) (h : QuietBoundary s) : BoundaryKeeps s (stepStart p b s) := by
  rw [stepStart, h.absent p]
  exact .refl s

theorem keeps_emit (q : RPort) (b : SubPort) (f : TxFrame) (s : State) : BoundaryKeeps s (emit q b f s) := by
  unfold emit
  extract_lets x
  split
  · exact .of_eq ⟨_, _, rfl⟩ rfl rfl rfl rfl rfl rfl
  · exact .refl s

theorem keeps_sendChirps (s : State) : BoundaryKeeps s (sendChirps s) := by
  unfold sendChirps
  extract_lets all named t
  have ht : BoundaryKeeps s t := (BoundaryKeeps.refl s).forAll fun x _ u => keeps_emit x.1 x.2 _ u
  clear_value t
  split
  · exact ht.trans (.of_eq ⟨_, _, rfl⟩ rfl rfl rfl rfl rfl rfl)
  · exact ht

end

/-! ### The boundary -/

/-- The beats' count of the calendar and the operating hours. -/
theorem keeps_beatCounts (n : Nat) (s : State) : BoundaryKeeps s (hoursRun n (calendarRun n s)) :=
  .of_eq ⟨_, _, rfl⟩ rfl rfl rfl rfl rfl rfl

/-- The boundary of a quiet device goes through a state `v` that it keeps, and enters the next beat from there. -/
theorem boundary_quiet {s : State} {m : BoundaryInputs} (h : QuietBoundary s) (hup : m.upsets = [])
    (hrun : s.sys.running = true) :
    ∃ v, BoundaryKeeps s v ∧ BoundaryKeeps (v.onSys nextBeat) (boundary m s) := by
  unfold boundary
  extract_lets all b waits ended run
  have hwaits : BoundaryKeeps s waits := by
    simp only [waits, hup, forAll_nil]
    exact (keeps_settleReads s).trans (keeps_failHostWaits _)
  clear_value waits
  have hended : BoundaryKeeps s ended := by
    have hsteps := hwaits.trans (.forAll_quiet (l := all) (hwaits.quiet h) fun p _ t => keeps_stepEnd p)
    exact hsteps.trans (.forAll_quiet (hsteps.quiet h) fun d _ _ => keeps_stepLost d)
  clear_value ended
  obtain ⟨held, heq, hheld⟩ := eachGoing_stepHolds all (hended.quiet h)
  rw [heq]
  dsimp -zeta only
  extract_lets fence armed swapped gated noted powered claimed fetched flushed t n
  have hheld := hended.trans hheld
  have hfence : BoundaryKeeps s fence := hheld.trans (.of_eq ⟨_, _, rfl⟩ rfl rfl rfl rfl rfl rfl)
  clear_value fence
  have hswapped : BoundaryKeeps s swapped := hfence.trans (.forAll_quiet (hfence.quiet h) fun d _ _ => keeps_stepSwaps d)
  clear_value swapped
  have hgated : BoundaryKeeps s gated := (hswapped.trans (keeps_meter m swapped)).forAll fun d _ u => keeps_gateDie d u
  clear_value gated
  have hnoted : BoundaryKeeps s noted := hgated.trans (.forAll_quiet (hgated.quiet h) fun p _ _ => keeps_noteState p)
  clear_value noted
  have hpowered : BoundaryKeeps s powered := hnoted.trans (keeps_enterPowerState (hnoted.quiet h))
  clear_value powered
  have hclaimed : BoundaryKeeps s claimed :=
    ((hpowered.forAll fun p _ u => keeps_stepNotes p u).trans (keeps_clearNotes _)).trans (keeps_claimBoundary _)
  clear_value claimed
  have hfetched : BoundaryKeeps s fetched :=
    (hclaimed.trans (keeps_stepFetch_f0 m 0 _)).trans (keeps_stepFetch_f0 m 1 _)
  clear_value fetched
  have hflushed : BoundaryKeeps s flushed := hfetched.forAll fun p _ u => keeps_stepFetch_part m p u
  clear_value flushed
  have hrunning : flushed.sys.running = true := by
    obtain ⟨_, _, hsys⟩ := hflushed.sys
    rw [hsys]
    exact hrun
  rw [hrunning]
  have hquiet : QuietBoundary t := ⟨(hflushed.quiet h).absent, (hflushed.quiet h).unswapped, (hflushed.quiet h).noRequest⟩
  have hcounts : BoundaryKeeps t (hoursRun n (calendarRun n t)) := keeps_beatCounts n t
  have hstart := hcounts.trans (.forAll_quiet (l := all) (hcounts.quiet hquiet) fun p _ _ => keeps_stepStart p b)
  exact ⟨flushed, hflushed, hstart.trans (keeps_sendChirps _)⟩

end Sys2Proof.Machine
end

section
/-! PROOFS. The commit window: a cluster that still issues is judged once, and no other cluster with it (R155, R158, R159, R192). -/

namespace Sys2Proof.Machine

theorem forAll_append {α : Type} (l m : List α) (f : α → State → State) (s : State) :
    forAll (l ++ m) f s = forAll m f (forAll l f s) := List.foldl_append

/-- What the judging of one cluster leaves alone: the hub, the recorder, and every other cluster with its units. -/
structure OnlyBeatOf (d : Die) (c : Cluster) (s t : State) : Prop where
  hub : t.hub = s.hub
  evr : t.evr = s.evr
  cluster : ∀ e b, e ≠ d ∨ b ≠ c → t.cluster e b = s.cluster e b
  unit : ∀ e b, e ≠ d ∨ b ≠ c → ∀ u, t.unit e b u = s.unit e b u

variable {d : Die} {c : Cluster} {s t u : State}

theorem OnlyBeatOf.of_eq (hhub : t.hub = s.hub) (hevr : t.evr = s.evr) (hclusters : t.clusters = s.clusters)
    (hunits : t.units = s.units) : OnlyBeatOf d c s t :=
  ⟨hhub, hevr, fun _ _ _ => by rw [State.cluster, hclusters]; rfl, fun _ _ _ _ => by rw [State.unit, hunits]; rfl⟩

theorem OnlyBeatOf.refl (s : State) : OnlyBeatOf d c s s := .of_eq rfl rfl rfl rfl

theorem OnlyBeatOf.trans (h : OnlyBeatOf d c s t) (g : OnlyBeatOf d c t u) : OnlyBeatOf d c s u :=
  ⟨g.hub.trans h.hub, g.evr.trans h.evr, fun e b n => (g.cluster e b n).trans (h.cluster e b n),
    fun e b n v => (g.unit e b n v).trans (h.unit e b n v)⟩

theorem onlyBeatOf_onUnit (s : State) (d : Die) (c : Cluster) (v : UnitIx) (f : UnitState → UnitState) :
    OnlyBeatOf d c s (s.onUnit d c v f) :=
  ⟨rfl, rfl, fun _ _ _ => rfl, fun e b h w => unit_onUnit_other s d e c b v w f (h.imp id Or.inl)⟩

theorem onlyBeatOf_onCluster (s : State) (d : Die) (c : Cluster) (f : ClusterRun → ClusterRun) :
    OnlyBeatOf d c s (s.onCluster d c f) :=
  ⟨rfl, rfl, fun e b h => cluster_onCluster_other s d e c b f h, fun _ _ _ _ => rfl⟩

theorem OnlyBeatOf.forAll {α : Type} (l : List α) (f : α → State → State) (s : State)
    (hf : ∀ a t, OnlyBeatOf d c t (f a t)) : OnlyBeatOf d c s (forAll l f s) :=
  forAll_keeps (OnlyBeatOf d c s) l f s (.refl s) fun a _ t h => h.trans (hf a t)

theorem cluster_forAll_onUnit (l : List UnitIx) (f : UnitState → UnitState) (s : State) :
    (forAll l (fun v => State.onUnit d c v f) s).cluster d c = s.cluster d c :=
  forAll_keeps (fun t => t.cluster d c = s.cluster d c) l _ s rfl fun _ _ _ h => h

/-- A beat that aborts: the state before its cluster is marked and its units revert (R158). -/
theorem abortCluster_running (h : (s.cluster d c).running = true) (h' : (s.cluster d c).aborted = false) :
    ∃ u, OnlyBeatOf d c s u ∧ u.cluster d c = s.cluster d c ∧ abortCluster d c s
      = forAll (List.finRange 8) (fun v => State.onUnit d c v UnitState.reverted) (u.onCluster d c fun x =>
        { x with aborted := true, journal := [], journalPoison := [], journalLines := [], sent := [], deltas := [] }) := by
  unfold abortCluster
  extract_lets r owned cancelled
  have howned : owned.hub = s.hub ∧ owned.evr = s.evr ∧ owned.clusters = s.clusters ∧ owned.units = s.units := by
    simp only [owned]
    split
    · exact forAll_keeps (fun t => t.hub = s.hub ∧ t.evr = s.evr ∧ t.clusters = s.clusters ∧ t.units = s.units) _ _ s
        ⟨rfl, rfl, rfl, rfl⟩ fun _ _ _ h => h
    · exact ⟨rfl, rfl, rfl, rfl⟩
  have hcancelled : cancelled.hub = s.hub ∧ cancelled.evr = s.evr ∧ cancelled.clusters = s.clusters
      ∧ cancelled.units = s.units :=
    forAll_keeps (fun t => t.hub = s.hub ∧ t.evr = s.evr ∧ t.clusters = s.clusters ∧ t.units = s.units) _ _ owned howned
      fun _ _ _ h => h
  clear_value cancelled
  obtain ⟨hhub, hevr, hclusters, hunits⟩ := hcancelled
  refine ⟨undoJournal r cancelled, .of_eq hhub hevr hclusters hunits, ?_, ?_⟩
  · rw [State.cluster, State.cluster, show (undoJournal r cancelled).clusters = s.clusters from hclusters]
  · rw [if_pos (by rw [h, h']; rfl)]

/-- The cluster whose beat aborts is marked, and its note of an overrun stays (R158). -/
theorem abortCluster_spec (h : (s.cluster d c).running = true) (h' : (s.cluster d c).aborted = false) :
    OnlyBeatOf d c s (abortCluster d c s) ∧ ((abortCluster d c s).cluster d c).aborted = true
      ∧ ((abortCluster d c s).cluster d c).overrun = (s.cluster d c).overrun := by
  obtain ⟨u, hu, hsame, he⟩ := abortCluster_running h h'
  have hat : (abortCluster d c s).cluster d c = { s.cluster d c with
      aborted := true, journal := [], journalPoison := [], journalLines := [], sent := [], deltas := [] } := by
    rw [he, cluster_forAll_onUnit, cluster_onCluster, hsame]
  refine ⟨?_, by rw [hat], by rw [hat]⟩
  rw [he]
  exact (hu.trans (onlyBeatOf_onCluster u d c _)).trans (.forAll _ _ _ fun v t => onlyBeatOf_onUnit t d c v _)

/-! ### One cluster at the window -/

/-- A cluster that has been judged by what its units waited for in `s`: its beat aborted, as an overrun unless a unit waits for
entropy (R159, R192). -/
def JudgedAs (s t : State) (d : Die) (c : Cluster) : Prop :=
  (t.cluster d c).aborted = true ∧ ((∀ u, (s.unit d c u).wait ≠ .entropy) → (t.cluster d c).overrun = true)
    ∧ ((∃ u, (s.unit d c u).wait = .entropy) → (t.cluster d c).overrun = (s.cluster d c).overrun)

/-- A cluster that does not run, has aborted or has ended its beat is not judged. -/
theorem closeCluster_idle (h : (s.cluster d c).running = false ∨ (s.cluster d c).aborted = true
    ∨ ∀ u, (s.unit d c u).ended = true) : closeCluster d c s = s := by
  rw [closeCluster, if_pos]
  rcases h with h | h | h
  · simp [h]
  · simp [h]
  · simp [List.all_eq_true, h]

theorem entropyAbort_spec (h : (s.cluster d c).running = true) (h' : (s.cluster d c).aborted = false) :
    OnlyBeatOf d c s (entropyAbort d c s) ∧ ((entropyAbort d c s).cluster d c).aborted = true
      ∧ ((entropyAbort d c s).cluster d c).overrun = (s.cluster d c).overrun := by
  obtain ⟨honly, habort, hover⟩ := abortCluster_spec h h'
  unfold entropyAbort
  extract_lets latched waits
  rw [cluster_forAll_onUnit]
  exact ⟨honly.trans (.forAll _ _ _ fun v t => onlyBeatOf_onUnit t d c v _), habort, hover⟩

theorem overrunCluster_spec (h : (s.cluster d c).running = true) (h' : (s.cluster d c).aborted = false) :
    OnlyBeatOf d c s (overrunCluster d c s) ∧ ((overrunCluster d c s).cluster d c).aborted = true
      ∧ ((overrunCluster d c s).cluster d c).overrun = true := by
  have hat := cluster_onCluster s d c fun x => { x with overrun := true }
  obtain ⟨honly, habort, hover⟩ := abortCluster_spec (s := s.onCluster d c fun x => { x with overrun := true })
    (by rw [hat]; exact h) (by rw [hat]; exact h')
  rw [overrunCluster, if_pos (by rw [h, h']; rfl)]
  exact ⟨(onlyBeatOf_onCluster s d c _).trans honly, habort, hover.trans (by rw [hat])⟩

/-- A running cluster with a unit whose beat has not ended is judged. -/
theorem closeCluster_judges (h : (s.cluster d c).running = true) (h' : (s.cluster d c).aborted = false)
    (hu : ∃ u, (s.unit d c u).ended = false) : OnlyBeatOf d c s (closeCluster d c s) ∧ JudgedAs s (closeCluster d c s) d c := by
  have hall : (List.finRange 8).all (fun u => (s.unit d c u).ended) = false := by
    obtain ⟨u, hu⟩ := hu
    exact List.all_eq_false.mpr ⟨u, List.mem_finRange u, by rw [hu]; decide⟩
  rw [closeCluster, if_neg (by rw [h, h', hall]; decide)]
  by_cases hw : ∃ u, (s.unit d c u).wait = .entropy
  · have hany : (List.finRange 8).any (fun u => (s.unit d c u).wait == .entropy) = true := by
      obtain ⟨u, hu⟩ := hw
      exact List.any_eq_true.mpr ⟨u, List.mem_finRange u, by rw [hu]; rfl⟩
    rw [if_pos hany]
    obtain ⟨honly, habort, hover⟩ := entropyAbort_spec h h'
    exact ⟨honly, habort, fun hno => absurd hw (by simpa using hno), fun _ => hover⟩
  · have hany : ¬ (List.finRange 8).any (fun u => (s.unit d c u).wait == .entropy) = true := by
      simpa using hw
    rw [if_neg hany]
    obtain ⟨honly, habort, hover⟩ := overrunCluster_spec h h'
    exact ⟨honly, habort, fun _ => hover, fun hyes => absurd hyes hw⟩

/-- Whatever it finds, the window's work on a cluster is that cluster's alone. -/
theorem onlyBeatOf_closeCluster (d : Die) (c : Cluster) (s : State) : OnlyBeatOf d c s (closeCluster d c s) := by
  by_cases h : (s.cluster d c).running = true ∧ (s.cluster d c).aborted = false ∧ ∃ u, (s.unit d c u).ended = false
  · exact (closeCluster_judges h.1 h.2.1 h.2.2).1
  · rw [closeCluster_idle]
    · exact .refl s
    · by_contra hno
      push Not at hno
      simp only [ne_eq, Bool.not_eq_false, Bool.not_eq_true] at hno
      exact h hno

/-! ### All clusters at the window -/

theorem JudgedAs.congr {t' : State} (h : JudgedAs s t d c) (hc : t'.cluster d c = t.cluster d c) : JudgedAs s t' d c := by
  rw [JudgedAs, hc]; exact h

/-- A judged cluster has aborted, so the window does not judge it again. -/
theorem JudgedAs.kept {e : Die} {b : Cluster} (h : JudgedAs s t d c) : JudgedAs s (closeCluster e b t) d c := by
  by_cases hx : d ≠ e ∨ c ≠ b
  · exact h.congr ((onlyBeatOf_closeCluster e b t).cluster d c hx)
  · obtain ⟨rfl, rfl⟩ : d = e ∧ c = b := by simpa using hx
    rw [closeCluster_idle (.inr (.inl h.1))]
    exact h

/-- A cluster of the window's list, as the window goes on from `s`: as it was, or judged. -/
def AsItWasOrJudged (s t : State) (d : Die) (c : Cluster) : Prop :=
  (t.cluster d c = s.cluster d c ∧ ∀ u, t.unit d c u = s.unit d c u) ∨ JudgedAs s t d c

/-- Meeting a running cluster judges it, unless that is done. -/
theorem AsItWasOrJudged.judged (h : (s.cluster d c).running = true) (h' : (s.cluster d c).aborted = false)
    (hu : ∃ u, (s.unit d c u).ended = false) (ht : AsItWasOrJudged s t d c) : JudgedAs s (closeCluster d c t) d c := by
  rcases ht with ⟨hc, hun⟩ | hj
  · have hj := (closeCluster_judges (hc ▸ h) (hc ▸ h') (by simpa only [hun] using hu)).2
    simpa only [JudgedAs, hc, hun] using hj
  · exact hj.kept

theorem AsItWasOrJudged.kept {e : Die} {b : Cluster} (h : (s.cluster d c).running = true)
    (h' : (s.cluster d c).aborted = false) (hu : ∃ u, (s.unit d c u).ended = false) (ht : AsItWasOrJudged s t d c) :
    AsItWasOrJudged s (closeCluster e b t) d c := by
  by_cases hx : d ≠ e ∨ c ≠ b
  · have honly := onlyBeatOf_closeCluster e b t
    rcases ht with ⟨hc, hun⟩ | hj
    · exact .inl ⟨(honly.cluster d c hx).trans hc, fun u => (honly.unit d c hx u).trans (hun u)⟩
    · exact .inr hj.kept
  · obtain ⟨rfl, rfl⟩ : d = e ∧ c = b := by simpa using hx
    exact .inr (ht.judged h h' hu)

/-- The window's work leaves the hub and the recorder. -/
theorem closeWindow_frame (p : Part) (s : State) : (closeWindow p s).hub = s.hub ∧ (closeWindow p s).evr = s.evr :=
  forAll_keeps (fun t => t.hub = s.hub ∧ t.evr = s.evr) _ _ s ⟨rfl, rfl⟩ fun x _ t ⟨hhub, hevr⟩ =>
    have honly := onlyBeatOf_closeCluster x.2.1 x.2.2 t
    ⟨honly.hub.trans hhub, honly.evr.trans hevr⟩

theorem closeWindow_idle {p : Part} (h : ∀ x ∈ clustersOf s p, (s.cluster x.2.1 x.2.2).running = false
    ∨ (s.cluster x.2.1 x.2.2).aborted = true ∨ ∀ u, (s.unit x.2.1 x.2.2 u).ended = true) : closeWindow p s = s :=
  forAll_keeps (fun t => t = s) _ _ s rfl fun x hx t ht => by rw [ht]; exact closeCluster_idle (h x hx)

theorem closeWindow_judges {p : Part} {x : Nat × Die × Cluster} (hx : x ∈ clustersOf s p)
    (h : (s.cluster x.2.1 x.2.2).running = true) (h' : (s.cluster x.2.1 x.2.2).aborted = false)
    (hu : ∃ u, (s.unit x.2.1 x.2.2 u).ended = false) : JudgedAs s (closeWindow p s) x.2.1 x.2.2 := by
  obtain ⟨l, m, hl⟩ := List.append_of_mem hx
  rw [closeWindow, hl, forAll_append, forAll_cons]
  have hbefore := forAll_keeps (AsItWasOrJudged s · x.2.1 x.2.2) l (fun y => closeCluster y.2.1 y.2.2) s
    (.inl ⟨rfl, fun _ => rfl⟩) fun y _ t ht => ht.kept h h' hu
  exact forAll_keeps (JudgedAs s · x.2.1 x.2.2) m _ _ (hbefore.judged h h' hu) fun y _ t ht => ht.kept

end Sys2Proof.Machine
end

section
/-! PROOFS. Reads of a range that was stored, and writes that touch one range of memory alone (R196, R375). -/

namespace Sys2Proof.Machine

/-! ### Reading back what was stored -/

theorem cellsGet_congr {m m' : List Host.Cell} {k n : Nat} (h : ∀ a, k ≤ a → a < k + n → cellGet m' a = cellGet m a) :
    cellsGet m' k n = cellsGet m k n := by
  induction n generalizing k with
  | zero => rfl
  | succ n ih =>
    rw [cellsGet, cellsGet, h k (Nat.le_refl k) (by omega), ih fun a ha hn => h a (by omega) (by omega)]

theorem cellsGet_cellsPut_same {m : List Host.Cell} (k : Nat) (b : Bytes) (h : cellsWf m = true) :
    cellsGet (cellsPut m k b) k b.length = b := by
  induction b generalizing m k with
  | nil => rfl
  | cons x b ih =>
    have hput := cellPut_wf k x h
    rw [List.length_cons, cellsGet, cellsPut, ih (k + 1) hput, cellGet_cellsPut_outside (k + 1) k b (.inl (by omega)),
      cellGet_cellPut_same k x h]

theorem bytesAt_congr {s t : State} {k n : Nat} (h : ∀ a, k ≤ a → a < k + n → t.byteAt a = s.byteAt a) :
    t.bytesAt k n = s.bytesAt k n := cellsGet_congr h

theorem cells_store_clean (s : State) (k : Nat) (b : Bytes) : (s.store k b false).mem.cells = cellsPut s.mem.cells k b := by
  rw [State.store, State.onStore_mem]
  split <;> rfl

/-- Clean bytes read back from where they were stored. -/
theorem bytesAt_store_same {s : State} (k : Nat) (b : Bytes) (h : Memory.wf s.mem = true) :
    (s.store k b false).bytesAt k b.length = b := by
  rw [State.bytesAt, cells_store_clean]
  exact cellsGet_cellsPut_same k b h

/-- A range apart from what was stored reads as before. -/
theorem bytesAt_store_apart (s : State) {k j n : Nat} {b : Bytes} {x : Bool} (h : j + n ≤ k ∨ k + b.length ≤ j) :
    (s.store k b x).bytesAt j n = s.bytesAt j n :=
  bytesAt_congr fun a _ _ => byteAt_store_outside s k a b x (by omega)

theorem cellsGet_zero {m : List Host.Cell} {k n : Nat} (h : ∀ a, k ≤ a → a < k + n → cellGet m a = 0) :
    cellsGet m k n = zeroBytes n := by
  induction n generalizing k with
  | zero => rfl
  | succ n ih =>
    rw [cellsGet, h k (Nat.le_refl k) (by omega), ih fun a ha hn => h a (by omega) (by omega)]
    rfl

theorem bytesAt_zeroRange_inside (s : State) {k n j m : Nat} (h1 : k ≤ j) (h2 : j + m ≤ k + n) :
    (s.zeroRange k n).bytesAt j m = zeroBytes m :=
  cellsGet_zero fun _ _ _ => byteAt_zeroRange_inside s (by omega)

/-! ### A listed byte is the byte read -/

theorem cellGet_of_mem {m : List Host.Cell} {c : Host.Cell} (h : cellsWf m = true) (hc : c ∈ m) :
    cellGet m c.1 = c.2 := by
  rw [cellsWf_iff] at h
  induction m with
  | nil => cases hc
  | cons x m ih =>
    obtain ⟨hp, hz⟩ := h
    rw [List.map_cons, List.pairwise_cons] at hp
    rcases List.mem_cons.mp hc with rfl | hm
    · exact if_pos rfl
    · have hne : x.1 ≠ c.1 := Nat.ne_of_lt (hp.1 c.1 (List.mem_map_of_mem hm))
      exact (if_neg hne).trans (ih ⟨hp.2, fun y hy => hz y (List.mem_cons_of_mem _ hy)⟩ hm)

theorem mem_of_cellGet {m : List Host.Cell} {a : Nat} (h : cellGet m a ≠ 0) : ∃ c ∈ m, c.1 = a := by
  induction m with
  | nil => exact absurd rfl h
  | cons x m ih =>
    by_cases hx : x.1 = a
    · exact ⟨x, List.mem_cons_self, hx⟩
    · rw [cellGet, if_neg hx] at h
      obtain ⟨c, hc, ha⟩ := ih h
      exact ⟨c, List.mem_cons_of_mem _ hc, ha⟩

/-- In canonical memory no byte of a range is listed exactly where every byte of it reads zero. -/
theorem none_listed_iff {m : List Host.Cell} {k n : Nat} (h : cellsWf m = true) :
    (m.all fun c => !decide (k ≤ c.1 ∧ c.1 < k + n)) = true ↔ ∀ a, k ≤ a → a < k + n → cellGet m a = 0 := by
  rw [List.all_eq_true]
  constructor
  · intro hall a hk hn
    by_contra hne
    obtain ⟨c, hc, rfl⟩ := mem_of_cellGet hne
    simpa [hk, hn] using hall c hc
  · intro hzero c hc
    by_contra hin
    have hin : k ≤ c.1 ∧ c.1 < k + n := by simpa using hin
    exact ((cellsWf_iff m).mp h).2 c hc (by rw [← cellGet_of_mem h hc]; exact hzero c.1 hin.1 hin.2)

/-! ### Writes to one range -/

/-- Line `l` lies in the `n` bytes from `k` on. -/
def LineIn (k n l : Nat) : Prop := k ≤ l * 64 ∧ l * 64 + 64 ≤ k + n

/-- The marks of a line are as they were. -/
def SameMarks (s t : State) (l : Nat) : Prop :=
  (l ∈ t.mem.poison ↔ l ∈ s.mem.poison) ∧ (l ∈ t.mem.bad ↔ l ∈ s.mem.bad)

/-- The bytes and the marks of the lines of a range are as they were. -/
structure SameRange (k n : Nat) (s t : State) : Prop where
  byte : ∀ a, k ≤ a → a < k + n → t.byteAt a = s.byteAt a
  line : ∀ l, LineIn k n l → SameMarks s t l

/-- Only memory differs, in the bytes and in the marks of the lines of one range, and its canonical form is kept. -/
structure OnlyRange (k n : Nat) (s t : State) : Prop where
  frame : t = { s with mem := t.mem }
  wf : Memory.wf s.mem = true → Memory.wf t.mem = true
  byte : ∀ a, a < k ∨ k + n ≤ a → t.byteAt a = s.byteAt a
  line : ∀ l, ¬ LineIn k n l → SameMarks s t l

theorem SameMarks.trans {s t u : State} {l : Nat} (h : SameMarks s t l) (g : SameMarks t u l) : SameMarks s u l :=
  ⟨g.1.trans h.1, g.2.trans h.2⟩

theorem SameRange.refl (k n : Nat) (s : State) : SameRange k n s s := ⟨fun _ _ _ => rfl, fun _ _ => ⟨.rfl, .rfl⟩⟩

theorem SameRange.trans {k n : Nat} {s t u : State} (h : SameRange k n s t) (g : SameRange k n t u) : SameRange k n s u :=
  ⟨fun a h1 h2 => (g.byte a h1 h2).trans (h.byte a h1 h2), fun l hl => (h.line l hl).trans (g.line l hl)⟩

theorem SameRange.of_eq {k n : Nat} {s t : State} (hcells : t.mem.cells = s.mem.cells) (hpoison : t.mem.poison = s.mem.poison)
    (hbad : t.mem.bad = s.mem.bad) : SameRange k n s t :=
  ⟨fun _ _ _ => by rw [State.byteAt, hcells]; rfl, fun _ _ => by rw [SameMarks, hpoison, hbad]; exact ⟨.rfl, .rfl⟩⟩

theorem OnlyRange.refl (k n : Nat) (s : State) : OnlyRange k n s s := ⟨rfl, id, fun _ _ => rfl, fun _ _ => ⟨.rfl, .rfl⟩⟩

theorem OnlyRange.trans {k n : Nat} {s t u : State} (h : OnlyRange k n s t) (g : OnlyRange k n t u) : OnlyRange k n s u :=
  ⟨by rw [g.frame, h.frame], fun hw => g.wf (h.wf hw), fun a ha => (g.byte a ha).trans (h.byte a ha),
    fun l hl => (h.line l hl).trans (g.line l hl)⟩

theorem OnlyRange.mono {k n j m : Nat} {s t : State} (h : OnlyRange j m s t) (h1 : k ≤ j) (h2 : j + m ≤ k + n) :
    OnlyRange k n s t :=
  ⟨h.frame, h.wf, fun a ha => h.byte a (by omega), fun l hl => h.line l fun ⟨h3, h4⟩ => hl ⟨by omega, by omega⟩⟩

/-- Writes to one range leave every range apart from it. -/
theorem OnlyRange.apart {k n j m : Nat} {s t : State} (h : OnlyRange j m s t) (hd : k + n ≤ j ∨ j + m ≤ k) :
    SameRange k n s t :=
  ⟨fun a h1 h2 => h.byte a (by omega), fun l ⟨h1, h2⟩ => h.line l fun ⟨h3, h4⟩ => by omega⟩

theorem mem_badAfter {old : List Nat} {k n l : Nat} (h : ¬ LineIn k n l) : l ∈ badAfter old k n ↔ l ∈ old := by
  rw [badAfter, List.mem_filter]
  exact and_iff_left (by rw [Bool.not_eq_true', decide_eq_false_iff_not]; exact h)

theorem mem_poisonAfter_clean {old : List Nat} {k n l : Nat} (h : ¬ LineIn k n l) :
    l ∈ poisonAfter old k n false ↔ l ∈ old := by
  unfold poisonAfter
  induction linesOf k n generalizing old with
  | nil => rfl
  | cons j ls ih =>
    rw [List.foldl_cons, ih, if_neg Bool.false_ne_true]
    split
    · rename_i hj
      rw [List.mem_filter]
      refine and_iff_left ?_
      have hne : l ≠ j := fun e => h (e ▸ hj)
      simpa using hne
    · rfl

theorem onlyRange_zeroRange (s : State) (k n : Nat) : OnlyRange k n s (s.zeroRange k n) :=
  ⟨rfl, zeroRange_wf k n, fun _ ha => byteAt_zeroRange_outside s ha, fun _ hl => ⟨mem_badAfter hl, mem_badAfter hl⟩⟩

theorem onlyRange_store (s : State) (k : Nat) (b : Bytes) : OnlyRange k b.length s (s.store k b false) := by
  refine ⟨rfl, store_wf k b false, fun a ha => byteAt_store_outside s k a b false ha, fun l hl => ?_⟩
  rw [SameMarks, State.store, State.onStore_mem]
  split
  · exact ⟨.rfl, .rfl⟩
  · exact ⟨mem_poisonAfter_clean hl, mem_badAfter hl⟩

/-! ### Poison of a part of a range -/

theorem lineIn_of_mem_linesOf {k n j m l : Nat} (hk : k % 64 = 0) (hn : n % 64 = 0) (h1 : k ≤ j) (h2 : j + m ≤ k + n)
    (hl : l ∈ linesOf j m) : LineIn k n l := by
  unfold linesOf lineOf at hl
  split at hl
  · cases hl
  · obtain ⟨i, hi, rfl⟩ := List.mem_map.mp hl
    rw [List.mem_range] at hi
    exact ⟨by omega, by omega⟩

/-- Part of a range of whole lines that is as it was reads as poisoned as it did. -/
theorem SameRange.poisonedAt {k n j m : Nat} {s t : State} (h : SameRange k n s t) (hk : k % 64 = 0) (hn : n % 64 = 0)
    (h1 : k ≤ j) (h2 : j + m ≤ k + n) : t.poisonedAt j m = s.poisonedAt j m := by
  rw [Bool.eq_iff_iff, State.poisonedAt, State.poisonedAt, List.any_eq_true, List.any_eq_true]
  refine exists_congr fun l => and_congr_right fun hl => ?_
  obtain ⟨hp, hb⟩ := h.line l (lineIn_of_mem_linesOf hk hn h1 h2 hl)
  simp only [Bool.or_eq_true, List.contains_iff_mem, hp, hb]

theorem SameRange.bytesAt {k n j m : Nat} {s t : State} (h : SameRange k n s t) (h1 : k ≤ j) (h2 : j + m ≤ k + n) :
    t.bytesAt j m = s.bytesAt j m := bytesAt_congr fun a _ _ => h.byte a (by omega) (by omega)

end Sys2Proof.Machine
end

section
/-! PROOFS. The saved context of a unit: what a save writes, and that a context loaded is the one its area holds (R133, R175, R195). -/

namespace Sys2Proof.Machine

/-! ### Sizes -/

theorem leBytes_flatMap_length {α : Type} (l : List α) (w : Nat) (f : α → Nat) :
    (l.flatMap fun x => leBytes w (f x)).length = w * l.length := by
  induction l with
  | nil => rfl
  | cons x l ih => rw [List.flatMap_cons, List.length_append, leBytes_length, ih, List.length_cons, Nat.mul_succ, Nat.add_comm]

theorem image_length (x : Tile) : x.image.length = 192 := by
  rw [Tile.image, leBytes_flatMap_length, Vector.length_toList]

theorem info_length (x : Tile) : x.info.length = 4 := leBytes_length _ _

theorem VReg.bytes_length (r : VReg) : r.bytes.length = 128 := by
  rw [VReg.bytes, leBytes_flatMap_length, Vector.length_toList]

theorem regs_length (w : UnitRegs) : ((w.reg 0).bytes ++ (w.reg 1).bytes).length = 256 := by
  rw [List.length_append, VReg.bytes_length, VReg.bytes_length]

theorem programState_length (step : Nat) (done : Bool) (w : UnitRegs) : (programState step done w).length = 16 := by
  simp only [programState, List.length_append, leBytes_length]

theorem leBytes_zero (w : Nat) : leBytes w 0 = zeroBytes w := by
  induction w with
  | zero => rfl
  | succ w ih => rw [leBytes, Nat.zero_div, ih]; rfl

theorem image_default : ({} : Tile).image = zeroBytes 192 := by
  have hzero : leBytes 6 ((0 : BitVec 48).toNat) = zeroBytes 6 := leBytes_zero 6
  rw [Tile.image, Vector.toList_replicate, List.flatMap_replicate, hzero]
  exact List.flatten_replicate_replicate

theorem info_default : ({} : Tile).info = zeroBytes 4 := leBytes_zero 4

/-! ### Tables whose keys are listed once -/

theorem tfind_none_of_not_mem {α : Type} {l : Tbl α} {k : Nat} (h : k ∉ tkeys l) : tfind l k = none := by
  induction l with
  | nil => rfl
  | cons x l ih =>
    obtain ⟨h1, h2⟩ : k ≠ x.1 ∧ k ∉ tkeys l := by simpa [tkeys] using h
    rw [tfind, if_neg (Ne.symm h1), ih h2]

theorem tkeys_map_pair {α : Type} (l : List Nat) (f : Nat → α) : tkeys (l.map fun i => (i, f i)) = l := by
  rw [tkeys, List.map_map]
  exact List.map_id l

theorem tkeys_filter_sublist {α : Type} (l : Tbl α) (p : Nat × α → Bool) : (tkeys (l.filter p)).Sublist (tkeys l) :=
  List.filter_sublist.map Prod.fst

/-! ### The tiles of a context -/

/-- One tile's image and metadata word go into a context. -/
def saveTile (key : Nat) (x : Nat × Tile) (s : State) : State :=
  (s.store (key + 192 * x.1) x.2.image false).store (key + 0x3000 + 4 * x.1) x.2.info false

theorem saveContext_eq (key step : Nat) (done : Bool) (w : UnitRegs) (s : State) : saveContext key step done w s
    = ((forAll w.tiles (saveTile key) (s.zeroRange key contextBytes)).store (key + 0x3100)
        ((w.reg 0).bytes ++ (w.reg 1).bytes) false).store (key + 0x3200) (programState step done w) false := rfl

theorem onlyRange_saveTile (key : Nat) {x : Nat × Tile} (hx : x.1 < 64) (s : State) :
    OnlyRange key contextBytes s (saveTile key x s) := by
  have hle : contextBytes = 12864 := rfl
  have hi := image_length x.2
  have hm := info_length x.2
  exact ((onlyRange_store s _ _).mono (by omega) (by omega)).trans ((onlyRange_store _ _ _).mono (by omega) (by omega))

/-- Tile `i` of the context at `key`, its image and its metadata word, has been saved as `x`. -/
def TileSaved (s : State) (key i : Nat) (x : Tile) : Prop :=
  s.bytesAt (key + 192 * i) 192 = x.image ∧ s.bytesAt (key + 0x3000 + 4 * i) 4 = x.info

theorem tileSaved_saveTile {s : State} (key : Nat) {x : Nat × Tile} (hx : x.1 < 64) (hw : Memory.wf s.mem = true) :
    TileSaved (saveTile key x s) key x.1 x.2 := by
  have hi := image_length x.2
  have hm := info_length x.2
  constructor
  · rw [saveTile, bytesAt_store_apart _ (by omega)]
    have h := bytesAt_store_same (key + 192 * x.1) x.2.image hw
    rwa [hi] at h
  · have h := bytesAt_store_same (key + 0x3000 + 4 * x.1) x.2.info (store_wf (key + 192 * x.1) x.2.image false hw)
    rwa [hm] at h

theorem TileSaved.saveTile_other {s : State} {key i : Nat} {y : Tile} {x : Nat × Tile} (h : TileSaved s key i y) (hx : x.1 < 64)
    (hi : i < 64) (hne : i ≠ x.1) : TileSaved (saveTile key x s) key i y := by
  have h1 := image_length x.2
  have h2 := info_length x.2
  obtain ⟨himage, hinfo⟩ := h
  constructor
  · rw [saveTile, bytesAt_store_apart _ (by omega), bytesAt_store_apart _ (by omega), himage]
  · rw [saveTile, bytesAt_store_apart _ (by omega), bytesAt_store_apart _ (by omega), hinfo]

/-- A pass over the tiles saves each listed one, and leaves the others as they stand. -/
theorem tileSaved_forAll {l : Tbl Tile} (hl : TilesListed l) {s : State} {key i : Nat} {y : Tile} (hw : Memory.wf s.mem = true)
    (hi : i < 64) (h : TileSaved s key i y) : TileSaved (forAll l (saveTile key) s) key i ((tfind l i).getD y) := by
  induction l generalizing s y with
  | nil => exact h
  | cons x l ih =>
    obtain ⟨hnodup, hlt⟩ := hl
    obtain ⟨hnot, hnodup⟩ : x.1 ∉ tkeys l ∧ (tkeys l).Nodup := by simpa [tkeys] using hnodup
    have hx : x.1 < 64 := hlt x.1 List.mem_cons_self
    have hrest : TilesListed l := ⟨hnodup, fun j hj => hlt j (List.mem_cons_of_mem _ hj)⟩
    have hw' := (onlyRange_saveTile key hx s).wf hw
    rw [forAll_cons]
    by_cases he : i = x.1
    · subst he
      have hsaved := ih hrest hw' (tileSaved_saveTile key hx hw)
      rw [tfind_none_of_not_mem hnot] at hsaved
      rwa [show tfind (x :: l) x.1 = some x.2 from if_pos rfl]
    · rw [show tfind (x :: l) i = tfind l i from if_neg (Ne.symm he)]
      exact ih hrest hw' (h.saveTile_other hx hi he)

theorem onlyRange_forAll_saveTile (key : Nat) {l : Tbl Tile} (hl : TilesListed l) (s : State) :
    OnlyRange key contextBytes s (forAll l (saveTile key) s) :=
  forAll_keeps (OnlyRange key contextBytes s) l _ s (.refl key contextBytes s) fun _ hx t ht =>
    ht.trans (onlyRange_saveTile key (hl.2 _ (List.mem_map_of_mem hx)) t)

/-! ### Saving -/

section
variable {key step : Nat} {done : Bool} {w : UnitRegs} {s : State}

/-- A save writes its own area alone. -/
theorem onlyRange_saveContext (hl : TilesListed w.tiles) (s : State) :
    OnlyRange key contextBytes s (saveContext key step done w s) := by
  have hle : contextBytes = 12864 := rfl
  have hregs := regs_length w
  have hprog := programState_length step done w
  rw [saveContext_eq]
  exact (((onlyRange_zeroRange s key contextBytes).trans (onlyRange_forAll_saveTile key hl _)).trans
    ((onlyRange_store _ _ _).mono (by omega) (by omega))).trans ((onlyRange_store _ _ _).mono (by omega) (by omega))

/-- Tiles, V0 and V1 and the program state stand in the area of a saved context (R133, R175). -/
def ContextSaved (t : State) (key step : Nat) (done : Bool) (w : UnitRegs) : Prop :=
  (∀ i, i < 64 → TileSaved t key i (tget w.tiles i {}))
    ∧ t.bytesAt (key + 0x3100) 256 = (w.reg 0).bytes ++ (w.reg 1).bytes
    ∧ t.bytesAt (key + 0x3200) 16 = programState step done w

theorem ContextSaved.congr {t : State} (hs : ContextSaved s key step done w) (h : SameRange key contextBytes s t) :
    ContextSaved t key step done w := by
  have hle : contextBytes = 12864 := rfl
  obtain ⟨htiles, hregs, hprog⟩ := hs
  refine ⟨fun i hi => ?_, ?_, ?_⟩
  · rw [TileSaved, h.bytesAt (by omega) (by omega), h.bytesAt (by omega) (by omega)]
    exact htiles i hi
  · rw [h.bytesAt (by omega) (by omega), hregs]
  · rw [h.bytesAt (by omega) (by omega), hprog]

theorem contextSaved_saveContext (hl : TilesListed w.tiles) (hw : Memory.wf s.mem = true) :
    ContextSaved (saveContext key step done w s) key step done w := by
  obtain ⟨t, ht⟩ : ∃ t, t = saveContext key step done w s := ⟨_, rfl⟩
  rw [← ht]
  rw [saveContext_eq] at ht
  have hregs := regs_length w
  have hprog := programState_length step done w
  have hzero := zeroRange_wf key contextBytes hw
  generalize hz : s.zeroRange key contextBytes = z at ht hzero
  generalize htiles : forAll w.tiles (saveTile key) z = x at ht
  have hx : Memory.wf x.mem = true := htiles ▸ (onlyRange_forAll_saveTile key hl z).wf hzero
  refine ⟨fun i hi => ?_, ?_, ?_⟩
  · have hblank : TileSaved z key i {} := by
      rw [TileSaved, image_default, info_default, ← hz]
      exact ⟨bytesAt_zeroRange_inside s (by omega) (by rw [contextBytes]; omega),
        bytesAt_zeroRange_inside s (by omega) (by rw [contextBytes]; omega)⟩
    obtain ⟨himage, hinfo⟩ : TileSaved x key i (tget w.tiles i {}) := htiles ▸ tileSaved_forAll hl hzero hi hblank
    rw [TileSaved, ht, bytesAt_store_apart _ (by omega), bytesAt_store_apart _ (by omega), bytesAt_store_apart _ (by omega),
      bytesAt_store_apart _ (by omega)]
    exact ⟨himage, hinfo⟩
  · have h := bytesAt_store_same (key + 0x3100) ((w.reg 0).bytes ++ (w.reg 1).bytes) hx
    rw [hregs] at h
    rw [ht, bytesAt_store_apart _ (by omega), h]
  · have h := bytesAt_store_same (key + 0x3200) (programState step done w)
      (store_wf (key + 0x3100) ((w.reg 0).bytes ++ (w.reg 1).bytes) false hx)
    rw [hprog] at h
    rw [ht, h]

end

/-! ### Loading -/

section
variable {key : Nat} {s t : State}

theorem contextBlank_congr (h : SameRange key contextBytes s t) (hk : key % 64 = 0) (hs : Memory.wf s.mem = true)
    (ht : Memory.wf t.mem = true) : contextBlank t key = contextBlank s key := by
  rw [contextBlank, contextBlank, h.poisonedAt hk rfl (Nat.le_refl _) (Nat.le_refl _)]
  refine congrArg (· && _) ?_
  rw [Bool.eq_iff_iff, none_listed_iff ht, none_listed_iff hs]
  refine forall_congr' fun a => forall_congr' fun h1 => forall_congr' fun h2 => ?_
  rw [show cellGet t.mem.cells a = cellGet s.mem.cells a from h.byte a h1 h2]

theorem savedTile_congr (h : SameRange key contextBytes s t) (hk : key % 64 = 0) {i : Nat} (hi : i < 64) :
    savedTile t key i = savedTile s key i := by
  have hle : contextBytes = 12864 := rfl
  unfold savedTile
  rw [h.bytesAt (j := key + 192 * i) (by omega) (by omega), h.bytesAt (j := key + 0x3000 + 4 * i) (by omega) (by omega),
    h.poisonedAt (j := key + 192 * i) hk rfl (by omega) (by omega),
    h.poisonedAt (j := key + 0x3000 + 4 * i) hk rfl (by omega) (by omega)]

/-- The context found in an area depends on the bytes and marks of that area alone. -/
theorem savedContext_congr (h : SameRange key contextBytes s t) (hk : key % 64 = 0) (hs : Memory.wf s.mem = true)
    (ht : Memory.wf t.mem = true) (n : Nat) : savedContext t key n = savedContext s key n := by
  have hle : contextBytes = 12864 := rfl
  have htiles : ((List.range 64).map fun i => (i, savedTile t key i)) = (List.range 64).map fun i => (i, savedTile s key i) :=
    List.map_congr_left fun i hi => by rw [savedTile_congr h hk (List.mem_range.mp hi)]
  have hreg : ∀ i, i < 2 → t.bytesAt (key + 0x3100 + 128 * i) 128 = s.bytesAt (key + 0x3100 + 128 * i) 128
      ∧ t.poisonedAt (key + 0x3100 + 128 * i) 128 = s.poisonedAt (key + 0x3100 + 128 * i) 128 := fun i hi =>
    ⟨h.bytesAt (by omega) (by omega), h.poisonedAt hk rfl (by omega) (by omega)⟩
  unfold savedContext
  rw [contextBlank_congr h hk hs ht, h.bytesAt (j := key + 0x3200) (by omega) (by omega), htiles]
  refine if_congr Iff.rfl rfl ?_
  extract_lets st flags reg reg'
  have h0 : reg 0 = reg' 0 := by simp only [reg, reg', hreg 0 (by decide)]
  have h1 : reg 1 = reg' 1 := by simp only [reg, reg', hreg 1 (by decide)]
  rw [h0, h1]

theorem tilesListed_of_sublist {l : Tbl Tile} (h : (tkeys l).Sublist (List.range 64)) : TilesListed l :=
  ⟨List.nodup_range.sublist h, fun _ hi => List.mem_range.mp (h.subset hi)⟩

theorem savedContext_tiles (s : State) (key n : Nat) : (savedContext s key n).tiles = if contextBlank s key then []
    else ((List.range 64).map fun i => (i, savedTile s key i)).filter fun t => t.2 != {} := by
  rw [savedContext, apply_ite UnitRegs.tiles]

/-- A context that was loaded lists its tiles once each. -/
theorem tilesListed_savedContext (s : State) (key n : Nat) : TilesListed (savedContext s key n).tiles := by
  have hall := tkeys_filter_sublist ((List.range 64).map fun i => (i, savedTile s key i)) fun t => t.2 != {}
  rw [tkeys_map_pair] at hall
  refine tilesListed_of_sublist ?_
  rw [savedContext_tiles, apply_ite tkeys]
  split
  · exact List.nil_sublist _
  · exact hall

end

end Sys2Proof.Machine
end

section
/-! PROOFS. The job switch: each unit's context goes into the outgoing job's area, and what the incoming job's area held comes
out of it; the areas of R195 lie apart, so no unit disturbs another's (R174, R175, R195). -/

namespace Sys2Proof.Machine

/-! ### Where the contexts lie -/

section
variable {s t : State} {d e : Die} {c b : Cluster} {i j : Fin 4} {u v : UnitIx} {key key' : Nat}

theorem physOf_lt {n : Nat} (h : s.physOf d c = some n) : n < 36 := by
  unfold State.physOf at h
  extract_lets r m at h
  split at h
  · have hc := c.isLt
    have hr : r.val = c.val / 8 := rfl
    cases h
    omega
  · cases h

theorem saveKey_eq_some : saveKey s d c j u = some key ↔ ∃ n, s.physOf d c = some n
    ∧ sramKey d.val n (reservedBase + (0x100000 + 0x20000 * j.val + contextBytes * u.val)) = key := Option.map_eq_some_iff

theorem saveKey_congr (h : t.dies = s.dies) : saveKey t d c j u = saveKey s d c j u := by
  rw [saveKey, saveKey, reservedKey, reservedKey, State.physOf, State.physOf, h]

theorem saveKey_aligned (h : saveKey s d c j u = some key) : key % 64 = 0 := by
  obtain ⟨n, -, rfl⟩ := saveKey_eq_some.mp h
  simp only [sramKey, reservedBase, contextBytes]
  omega

/-- The areas of R195 lie apart. -/
theorem saveKey_apart (hr : RolesDistinct s) (h : saveKey s d c j u = some key) (h' : saveKey s e b i v = some key')
    (hne : d ≠ e ∨ c ≠ b ∨ j ≠ i ∨ u ≠ v) : key + contextBytes ≤ key' ∨ key' + contextBytes ≤ key := by
  obtain ⟨n, hn, rfl⟩ := saveKey_eq_some.mp h
  obtain ⟨m, hm, rfl⟩ := saveKey_eq_some.mp h'
  have hn36 := physOf_lt hn
  have hm36 := physOf_lt hm
  have hj := j.isLt
  have hi := i.isLt
  have hu := u.isLt
  have hv := v.isLt
  by_cases hslice : d = e ∧ n = m
  · obtain ⟨rfl, rfl⟩ := hslice
    have hju : j.val ≠ i.val ∨ u.val ≠ v.val := by
      rcases hne with hne | hne | hne | hne
      · exact absurd rfl hne
      · exact absurd (hr d c b n hn hm) hne
      · exact .inl (Fin.val_ne_of_ne hne)
      · exact .inr (Fin.val_ne_of_ne hne)
    have hcases : j.val < i.val ∨ i.val < j.val ∨ j.val = i.val ∧ (u.val < v.val ∨ v.val < u.val) := by omega
    simp only [sramKey, reservedBase, contextBytes]
    rcases hcases with hlt | hlt | ⟨heq, hlt | hlt⟩ <;> omega
  · have hne : d.val * 36 + n ≠ e.val * 36 + m := fun heq => hslice ⟨Fin.ext (by omega), by omega⟩
    simp only [sramKey, reservedBase, contextBytes]
    omega

end

/-! ### What a switch changes -/

/-- Only units, memory and the count of the free values differ. -/
def OnlyContexts (s t : State) : Prop := t = { s with units := t.units, draws := t.draws, mem := t.mem }

section
variable {s t w : State} {p : Part} {d e : Die} {c b : Cluster} {i j : Fin 4} {u v : UnitIx} {key : Nat}

theorem OnlyContexts.trans (h : OnlyContexts s t) (g : OnlyContexts t w) : OnlyContexts s w := by
  rw [OnlyContexts, g, h]

theorem OnlyContexts.dies (h : OnlyContexts s t) : t.dies = s.dies := by rw [h]

theorem OnlyContexts.parts (h : OnlyContexts s t) : t.parts = s.parts := by rw [h]

theorem OnlyContexts.part (h : OnlyContexts s t) (q : Part) : t.part q = s.part q := by rw [State.part, h.parts]; rfl

theorem unit_congr (h : t.units = s.units) : t.unit e b v = s.unit e b v := by rw [State.unit, h]; rfl

theorem exists_mem_store (h : ∃ m, t = { s with mem := m }) (k : Nat) (x : Bytes) (poison : Bool) :
    ∃ m, t.store k x poison = { s with mem := m } := by
  obtain ⟨m, rfl⟩ := h
  exact ⟨_, rfl⟩

theorem exists_mem_saveContext (key step : Nat) (done : Bool) (x : UnitRegs) (s : State) :
    ∃ m, saveContext key step done x s = { s with mem := m } := by
  rw [saveContext_eq]
  refine exists_mem_store (exists_mem_store ?_ _ _ _) _ _ _
  exact forAll_keeps (fun t => ∃ m, t = { s with mem := m }) x.tiles (saveTile key) _ ⟨_, rfl⟩ fun y _ t ht =>
    exists_mem_store (exists_mem_store ht _ _ _) _ _ _

theorem exists_mem_saveUnit (p : Part) (d : Die) (c : Cluster) (u : UnitIx) (s : State) :
    ∃ m, saveUnit p d c u s = { s with mem := m } := by
  unfold saveUnit
  split
  · exact exists_mem_saveContext _ _ _ _ s
  · exact ⟨s.mem, rfl⟩

theorem onlyContexts_saveUnit (p : Part) (d : Die) (c : Cluster) (u : UnitIx) (s : State) :
    OnlyContexts s (saveUnit p d c u s) := by
  obtain ⟨m, hm⟩ := exists_mem_saveUnit p d c u s
  rw [OnlyContexts, hm]

theorem unit_saveUnit : (saveUnit p d c u s).unit e b v = s.unit e b v := by
  obtain ⟨m, hm⟩ := exists_mem_saveUnit p d c u s
  exact unit_congr (by rw [hm])

theorem onlyContexts_loadUnit (j : Fin 4) (d : Die) (c : Cluster) (u : UnitIx) (s : State) :
    OnlyContexts s (loadUnit j d c u s) := by
  unfold loadUnit State.noteRead
  split
  · split <;> rfl
  · rfl

theorem onlyContexts_switchUnit (p : Part) (j : Fin 4) (d : Die) (c : Cluster) (u : UnitIx) (s : State) :
    OnlyContexts s (switchUnit p j d c u s) := by
  rw [switchUnit]
  exact (onlyContexts_saveUnit p d c u s).trans (onlyContexts_loadUnit j d c u _)

/-! ### One unit saves -/

theorem saveUnit_wf (hl : TilesListed (s.unit d c u).base.tiles) (hw : Memory.wf s.mem = true) :
    Memory.wf (saveUnit p d c u s).mem = true := by
  unfold saveUnit
  split
  · exact (onlyRange_saveContext hl s).wf hw
  · exact hw

/-- A unit's save leaves the areas of the other units and jobs. -/
theorem saveUnit_sameRange (hl : TilesListed (s.unit d c u).base.tiles) (hr : RolesDistinct s)
    (hk : saveKey s e b i v = some key) (hne : e ≠ d ∨ b ≠ c ∨ i ≠ (s.part p).img.curJob ∨ v ≠ u) :
    SameRange key contextBytes s (saveUnit p d c u s) := by
  unfold saveUnit
  split
  next key' hk' => exact (onlyRange_saveContext hl s).apart (saveKey_apart hr hk hk' hne)
  next => exact .refl ..

theorem contextSaved_saveUnit (hl : TilesListed (s.unit d c u).base.tiles) (hw : Memory.wf s.mem = true)
    (hk : saveKey s d c (s.part p).img.curJob u = some key) :
    ContextSaved (saveUnit p d c u s) key (s.part p).img.job.step (isDone s p d c) (s.unit d c u).base := by
  unfold saveUnit
  rw [hk]
  exact contextSaved_saveContext hl hw

/-! ### One unit loads -/

theorem loadUnit_mem (j : Fin 4) (d : Die) (c : Cluster) (u : UnitIx) (s : State) :
    (loadUnit j d c u s).mem = { s.mem with met := (loadUnit j d c u s).mem.met } := by
  unfold loadUnit
  split
  · exact noteRead_mem s _ _
  · rfl

theorem loadUnit_wf (hw : Memory.wf s.mem = true) : Memory.wf (loadUnit j d c u s).mem = true := by
  rw [loadUnit_mem]
  exact hw

theorem loadUnit_sameRange (k n : Nat) : SameRange k n s (loadUnit j d c u s) := by
  have h := loadUnit_mem j d c u s
  exact .of_eq (by rw [h]) (by rw [h]) (by rw [h])

/-- The unit goes on with the loaded context. -/
def withContext (r : UnitRegs) (x : UnitState) : UnitState := { x with base := r, work := r, written := [] }

theorem units_loadUnit (hk : saveKey s d c j u = some key) :
    (loadUnit j d c u s).units = (State.onUnit d c u (withContext (savedContext s key s.draws)) s).units := by
  rw [loadUnit, hk]
  simp only [State.noteRead]
  split <;> rfl

theorem unit_loadUnit_other (hne : e ≠ d ∨ b ≠ c ∨ v ≠ u) : (loadUnit j d c u s).unit e b v = s.unit e b v := by
  cases hk : saveKey s d c j u with
  | none => rw [loadUnit, hk]
  | some key => rw [unit_congr (units_loadUnit hk), unit_onUnit_other s d e c b u v _ hne]

theorem base_loadUnit (hk : saveKey s d c j u = some key) :
    ((loadUnit j d c u s).unit d c u).base = savedContext s key s.draws := by
  rw [unit_congr (units_loadUnit hk), unit_onUnit, withContext]

theorem tilesListed_loadUnit (hl : TilesListed (s.unit e b v).base.tiles) :
    TilesListed ((loadUnit j d c u s).unit e b v).base.tiles := by
  by_cases hne : e ≠ d ∨ b ≠ c ∨ v ≠ u
  · rwa [unit_loadUnit_other hne]
  · obtain ⟨rfl, rfl, rfl⟩ : e = d ∧ b = c ∧ v = u := by simpa using hne
    cases hk : saveKey s e b j v with
    | none => rw [loadUnit, hk]; exact hl
    | some key => rw [base_loadUnit hk]; exact tilesListed_savedContext s key _

end

/-! ### The switch of every unit -/

/-- The switch as it goes on from `s`: only contexts have changed, memory is in canonical form, and tiles are listed once. -/
structure Switching (s t : State) : Prop where
  only : OnlyContexts s t
  wf : Memory.wf t.mem = true
  listed : ∀ d c u, TilesListed (t.unit d c u).base.tiles

/-- The unit, and its areas of `s` for every job, are as they were. -/
structure UnitKept (s : State) (x : (Die × Cluster) × UnitIx) (t w : State) : Prop where
  unit : w.unit x.1.1 x.1.2 x.2 = t.unit x.1.1 x.1.2 x.2
  areas : ∀ i key, saveKey s x.1.1 x.1.2 i x.2 = some key → SameRange key contextBytes t w

/-- The unit's context of `s` stands in the outgoing job's area, and it has what `s` held in the incoming job's. -/
def Switched (s : State) (p : Part) (j : Fin 4) (x : (Die × Cluster) × UnitIx) (t : State) : Prop :=
  (∀ key, saveKey s x.1.1 x.1.2 j x.2 = some key → ∃ n, (t.unit x.1.1 x.1.2 x.2).base = savedContext s key n)
    ∧ ∀ key, saveKey s x.1.1 x.1.2 (s.part p).img.curJob x.2 = some key →
        ContextSaved t key (s.part p).img.job.step (isDone s p x.1.1 x.1.2) (s.unit x.1.1 x.1.2 x.2).base

/-- The switch of one unit of the list. -/
def switchOf (p : Part) (j : Fin 4) (x : (Die × Cluster) × UnitIx) (s : State) : State := switchUnit p j x.1.1 x.1.2 x.2 s

section
variable {s t w : State} {p : Part} {j : Fin 4} {x y : (Die × Cluster) × UnitIx}

theorem UnitKept.refl (s t : State) (x : (Die × Cluster) × UnitIx) : UnitKept s x t t := ⟨rfl, fun _ _ _ => .refl ..⟩

theorem UnitKept.trans {z : State} (h : UnitKept s x t w) (g : UnitKept s x w z) : UnitKept s x t z :=
  ⟨g.unit.trans h.unit, fun i key hk => (h.areas i key hk).trans (g.areas i key hk)⟩

theorem Switched.kept (hs : Switched s p j x t) (h : UnitKept s x t w) : Switched s p j x w := by
  obtain ⟨hnew, hold⟩ := hs
  refine ⟨fun key hk => ?_, fun key hk => (hold key hk).congr (h.areas _ key hk)⟩
  rw [h.unit]
  exact hnew key hk

theorem Switching.rolesDistinct (h : Switching s t) (hr : RolesDistinct s) : RolesDistinct t := by
  unfold RolesDistinct State.physOf
  rw [h.only.dies]
  exact hr

theorem switching_saveUnit {d : Die} {c : Cluster} {u : UnitIx} (h : Switching s t) : Switching s (saveUnit p d c u t) :=
  ⟨h.only.trans (onlyContexts_saveUnit p d c u t), saveUnit_wf (h.listed d c u) h.wf,
    fun e b v => by rw [unit_saveUnit]; exact h.listed e b v⟩

theorem switching_loadUnit {d : Die} {c : Cluster} {u : UnitIx} (h : Switching s t) : Switching s (loadUnit j d c u t) :=
  ⟨h.only.trans (onlyContexts_loadUnit j d c u t), loadUnit_wf h.wf, fun e b v => tilesListed_loadUnit (h.listed e b v)⟩

theorem switching_switchOf (h : Switching s t) : Switching s (switchOf p j x t) := by
  rw [switchOf, switchUnit]
  exact switching_loadUnit (switching_saveUnit h)

/-- A unit's switch leaves every other unit and its areas. -/
theorem unitKept_switchOf (hr : RolesDistinct s) (h : Switching s t) (hne : x ≠ y) : UnitKept s x t (switchOf p j y t) := by
  have hne : x.1.1 ≠ y.1.1 ∨ x.1.2 ≠ y.1.2 ∨ x.2 ≠ y.2 := by
    by_contra hall
    obtain ⟨h1, h2, h3⟩ : x.1.1 = y.1.1 ∧ x.1.2 = y.1.2 ∧ x.2 = y.2 := by simpa using hall
    exact hne (Prod.ext (Prod.ext h1 h2) h3)
  rw [switchOf, switchUnit]
  constructor
  · rw [unit_loadUnit_other hne, unit_saveUnit]
  · intro i key hk
    rw [← saveKey_congr h.only.dies] at hk
    exact (saveUnit_sameRange (h.listed _ _ _) (h.rolesDistinct hr) hk (hne.imp id (Or.imp id .inr))).trans
      (loadUnit_sameRange _ _)

/-- A unit that is as it was is switched: it saves what it has, and loads what the incoming job's area has held since `s`. -/
theorem switched_switchOf (hr : RolesDistinct s) (hw : Memory.wf s.mem = true) (hj : j ≠ (s.part p).img.curJob)
    (h : Switching s t) (hx : UnitKept s x s t) : Switched s p j x (switchOf p j x t) := by
  have hdies := h.only.dies
  have hpart := h.only.part p
  have hsave : Switching s (saveUnit p x.1.1 x.1.2 x.2 t) := switching_saveUnit h
  rw [switchOf, switchUnit]
  constructor
  · intro key hk
    have hkt := (saveKey_congr hdies).trans hk
    have harea := (hx.areas j key hk).trans
      (saveUnit_sameRange (p := p) (h.listed x.1.1 x.1.2 x.2) (h.rolesDistinct hr) hkt (.inr (.inr (.inl (hpart ▸ hj)))))
    refine ⟨(saveUnit p x.1.1 x.1.2 x.2 t).draws, ?_⟩
    rw [base_loadUnit ((saveKey_congr hsave.only.dies).trans hk)]
    exact savedContext_congr harea (saveKey_aligned hk) hw hsave.wf _
  · intro key hk
    have hkt : saveKey t x.1.1 x.1.2 (t.part p).img.curJob x.2 = some key := by rw [saveKey_congr hdies, hpart]; exact hk
    have hsaved := contextSaved_saveUnit (h.listed x.1.1 x.1.2 x.2) h.wf hkt
    rw [isDone, hpart, hx.unit] at hsaved
    exact hsaved.congr (loadUnit_sameRange _ _)

/-- Over units listed once each, every one is switched. -/
theorem switched_forAll {l : List ((Die × Cluster) × UnitIx)} (hl : l.Nodup) (hx : x ∈ l) (hr : RolesDistinct s)
    (hw : Memory.wf s.mem = true) (htiles : ∀ d c u, TilesListed (s.unit d c u).base.tiles)
    (hj : j ≠ (s.part p).img.curJob) : Switched s p j x (forAll l (switchOf p j) s) := by
  obtain ⟨before, after, rfl⟩ := List.append_of_mem hx
  obtain ⟨hnot, -⟩ := List.nodup_cons.mp (List.nodup_middle.mp hl)
  have hne : ∀ y, y ∈ before ∨ y ∈ after → x ≠ y := fun y hy he => hnot (List.mem_append.mpr (he ▸ hy))
  rw [forAll_append, forAll_cons]
  obtain ⟨hstart, hkept⟩ := forAll_keeps (fun t => Switching s t ∧ UnitKept s x s t) before (switchOf p j) s
    ⟨⟨rfl, hw, htiles⟩, .refl s s x⟩ fun y hy t ⟨ht, hk⟩ =>
      ⟨switching_switchOf ht, hk.trans (unitKept_switchOf hr ht (hne y (.inl hy)))⟩
  exact (forAll_keeps (fun t => Switching s t ∧ Switched s p j x t) after (switchOf p j) _
    ⟨switching_switchOf hstart, switched_switchOf hr hw hj hstart hkept⟩ fun y hy t ⟨ht, hk⟩ =>
      ⟨switching_switchOf ht, hk.kept (unitKept_switchOf hr ht (hne y (.inr hy)))⟩).2

end

/-! ### The units of a partition -/

theorem forAll_map {α β : Type} (l : List α) (g : α → β) (f : β → State → State) (s : State) :
    forAll (l.map g) f s = forAll l (fun a => f (g a)) s := List.foldl_map

theorem forAll_product {α β : Type} (l : List α) (m : List β) (f : α → β → State → State) (s : State) :
    forAll l (fun a => forAll m (f a)) s = forAll (l ×ˢ m) (fun x => f x.1 x.2) s := by
  induction l generalizing s with
  | nil => rfl
  | cons a l ih => rw [List.product_cons, forAll_append, forAll_map, forAll_cons, ih]

theorem clustersOf_map_snd (s : State) (p : Part) : (clustersOf s p).map Prod.snd = s.diesOf p ×ˢ List.finRange 32 := by
  have hdies : (imageDies s p).map Prod.snd = s.diesOf p := List.map_snd_zip (by rw [List.length_range])
  rw [clustersOf, List.map_flatMap, ← hdies]
  simp only [List.map_map, SProd.sprod, List.product, List.flatMap_map]
  rfl

/-- The units of a partition's clusters. -/
def switchList (s : State) (p : Part) : List ((Die × Cluster) × UnitIx) := (s.diesOf p ×ˢ List.finRange 32) ×ˢ List.finRange 8

theorem nodup_switchList (s : State) (p : Part) : (switchList s p).Nodup :=
  (((List.nodup_finRange 8).filter _).product (List.nodup_finRange 32)).product (List.nodup_finRange 8)

theorem mem_switchList {s : State} {p : Part} {x : Nat × Die × Cluster} (hx : x ∈ clustersOf s p) (u : UnitIx) :
    (x.2, u) ∈ switchList s p := by
  rw [switchList, ← clustersOf_map_snd]
  exact List.pair_mem_product.mpr ⟨List.mem_map_of_mem hx, List.mem_finRange u⟩

theorem forAll_switchList (s : State) (p : Part) (j : Fin 4) : forAll (switchList s p) (switchOf p j) s
    = forAll (clustersOf s p) (fun x => forAll (List.finRange 8) (switchUnit p j x.2.1 x.2.2)) s := by
  rw [switchList, ← clustersOf_map_snd]
  have h := forAll_product ((clustersOf s p).map Prod.snd) (List.finRange 8) (fun x => switchUnit p j x.1 x.2) s
  rw [forAll_map] at h
  exact h.symm

/-- The image goes on with the job. -/
def toJob (j : Fin 4) (i : PartImage) : PartImage :=
  { i with curJob := j, switches := sat32 i.switches, switchTo := none, switchArmed := false }

theorem switchJob_eq {s : State} {p : Part} {j : Fin 4} (h : (s.part p).img.switchTo = some j) : switchJob p s
    = State.onImg p (toJob j) (forAll (switchList s p) (switchOf p j) s) := by
  rw [switchJob, h, forAll_switchList]
  rfl

/-- The switch beat is due, and it switches to the job. -/
structure SwitchDue (s : State) (p : Part) (j : Fin 4) : Prop where
  switching : (s.part p).img.switching = true
  kind : (s.part p).img.kind = .switch
  target : (s.part p).img.switchTo = some j

section
variable {s : State} {p : Part} {j : Fin 4}

theorem onlyContexts_forAll_switchOf (s : State) (p : Part) (j : Fin 4) (l : List ((Die × Cluster) × UnitIx)) :
    OnlyContexts s (forAll l (switchOf p j) s) :=
  forAll_keeps (OnlyContexts s) l _ s rfl fun x _ t ht => ht.trans (onlyContexts_switchUnit p j x.1.1 x.1.2 x.2 t)

theorem exec_jobSwitch (h : SwitchDue s p j) :
    exec (.jobSwitch p) s = .next (State.onImg p (toJob j) (forAll (switchList s p) (switchOf p j) s)) := by
  show execJobSwitch p s = _
  rw [execJobSwitch, h.switching, h.kind, ← switchJob_eq h.target]
  rfl

theorem Switched.onImg {x : (Die × Cluster) × UnitIx} {t : State} (h : Switched s p j x t) (f : PartImage → PartImage) :
    Switched s p j x (State.onImg p f t) := h.kept ⟨rfl, fun _ _ _ => .of_eq rfl rfl rfl⟩

theorem OnlyContexts.onImg {t : State} (h : OnlyContexts s t) (f : PartImage → PartImage) : State.onImg p f t
    = { s with parts := (State.onImg p f t).parts, units := (State.onImg p f t).units, draws := (State.onImg p f t).draws
               mem := (State.onImg p f t).mem } := by
  rw [h]
  rfl

/-- Every unit of the partition's clusters is switched. -/
theorem switched_jobSwitch (hw : Memory.wf s.mem = true) (hr : RolesDistinct s)
    (htiles : ∀ d c u, TilesListed (s.unit d c u).base.tiles) (hj : j ≠ (s.part p).img.curJob) {x : Nat × Die × Cluster}
    (hx : x ∈ clustersOf s p) (u : UnitIx) : Switched s p j (x.2, u) (forAll (switchList s p) (switchOf p j) s) :=
  switched_forAll (nodup_switchList s p) (mem_switchList hx u) hr hw htiles hj

end

end Sys2Proof.Machine
end

section
/-! PROOFS. O46, clause by clause: the boundary, the commit window, the quantum and the switch beat. -/

namespace Sys2Proof.Machine

section
variable {s : State} {p : Part} {q : Nat}

theorem exec_quantumExpiry (hphase : (s.part p).phase = .loaded) (himage : (s.part p).img.image ≠ none)
    (hq : quantumOf s p = some q) : exec (.quantumExpiry p) s = .next (
      if s.sys.beat + 1 < (s.part p).img.quantumStart + q then s
      else State.onImg p (fun i =>
        if (nextJob s p).isSome then { i with switchArmed := true } else { i with quantumStart := s.sys.beat + 1 }) s) := by
  show execQuantumExpiry p s = _
  rw [execQuantumExpiry, hphase, Option.isSome_iff_ne_none.mpr himage, beq_self_eq_true, Bool.true_and, when_true, expireQuantum, hq]

theorem exec_beatBoundary_stopped {m : BoundaryInputs} (h : s.sys.running = false) : exec (.beatBoundary m) s = .next s := by
  show execBeatBoundary m s = _
  rw [execBeatBoundary, h]
  rfl

theorem exec_beatBoundary_running {m : BoundaryInputs} (h : s.sys.running = true) :
    exec (.beatBoundary m) s = .next (boundary m s) := by
  show execBeatBoundary m s = _
  rw [execBeatBoundary, if_pos h]

/-- The clock of `t` is in the beat that follows the beat of `y`, one period plus the slew later. -/
structure NextBeatOf (y : SysState) (t : State) : Prop where
  beat : t.sys.beat = y.beat + 1
  start : t.sys.beatStart = y.beatStart + ((y.beatPeriod : Int) + y.slew).toNat
  slew : t.sys.slew = y.slewNext
  period : t.sys.beatPeriod = y.beatPeriod
  running : t.sys.running = y.running

/-- A clock with no instar to adopt and no new period goes on to the next beat. -/
theorem nextBeatOf_keeps {v t : State} (hv : BoundaryKeeps s v) (ht : BoundaryKeeps (v.onSys nextBeat) t)
    (hadopt : s.sys.adopt = none) (hperiod : s.sys.periodPending = none) : NextBeatOf s.sys t := by
  obtain ⟨_, _, hsys⟩ := hv.sys
  obtain ⟨_, _, hsys'⟩ := ht.sys
  have hnext : (v.onSys nextBeat).sys = nextBeat v.sys := rfl
  rw [hnext, hsys, nextBeat, hadopt, hperiod] at hsys'
  exact ⟨by rw [hsys'], by rw [hsys'], by rw [hsys'], by rw [hsys']; rfl, by rw [hsys']⟩

end

end Sys2Proof.Machine

open Sys2Proof Sys2Proof.Machine

/-- Settles O46: with no partition every step of the boundary keeps units, clusters and device memory; the commit window meets a
cluster that issues once; and the areas of R195 lie apart, so a unit's switch is not disturbed by another's. -/
theorem beatsEndAndJobsSwitch : Obligations.BeatsEndAndJobsSwitch := by
  unfold Obligations.BeatsEndAndJobsSwitch
  refine ⟨fun s m => ⟨exec_beatBoundary_stopped, fun hrun habsent hadopt hperiod hreq hup hswap => ?_⟩,
    fun s p => ⟨fun hidle => ?_, fun x hx hr ha hu => ?_⟩, fun s p q hphase himage hq => ⟨fun h => ?_, fun h => ?_⟩,
    fun s p j hs hk hto => ?_⟩
  · obtain ⟨v, hv, ht⟩ := boundary_quiet (m := m) ⟨habsent, hswap, hreq⟩ hup hrun
    have hexec := exec_beatBoundary_running (m := m) hrun
    generalize boundary m s = t at ht hexec
    obtain ⟨hbeat, hstart, hslew, hperiod', hrunning⟩ := nextBeatOf_keeps hv ht hadopt hperiod
    exact ⟨t, hexec, hbeat, hstart, hslew, hperiod', hrunning.trans hrun,
      fun p => (ht.phase p).trans ((hv.phase p).trans (habsent p)), ht.units.trans hv.units,
      ht.clusters.trans hv.clusters, fun a ha => (ht.byte a ha).trans (hv.byte a ha)⟩
  · exact congrArg Host.Outcome.next (closeWindow_idle hidle)
  · obtain ⟨hhub, hevr⟩ := closeWindow_frame p s
    obtain ⟨haborted, hoverrun, hentropy⟩ := closeWindow_judges hx hr ha hu
    exact ⟨closeWindow p s, rfl, haborted, hhub, hevr, hoverrun, hentropy⟩
  · rw [exec_quantumExpiry hphase himage hq, if_pos h]
  · rw [exec_quantumExpiry hphase himage hq, if_neg (Nat.not_lt.mpr h)]
  · have honly := onlyContexts_forAll_switchOf s p j (switchList s p)
    have hswitched := switched_jobSwitch (s := s) (p := p) (j := j)
    have hexec := exec_jobSwitch ⟨hs, hk, hto⟩
    generalize forAll (switchList s p) (switchOf p j) s = t at honly hswitched hexec
    refine ⟨_, hexec, honly.onImg _, fun q hq => ?_, ?_, ?_, ?_, ?_, fun hw hr hl hj x hx u =>
      (hswitched hw hr hl hj hx u).onImg _⟩
    · exact (State.part_onPart_other t p q _ hq).trans (honly.part q)
    · rw [State.part_onImg]; rfl
    · rw [State.part_onImg, ← honly.part p]; rfl
    · rw [State.part_onImg]; rfl
    · rw [State.part_onImg]; rfl

end

section
/-! PROOFS. The release ledger: what marking a round id as released does to an entry and to the ledger (R42). -/

namespace Sys2Proof.Machine
-- Proofs are elaborated one at a time, here and below, so that the whole text compiles within its memory limit.
set_option Elab.async false

/-! ### One entry -/

theorem entryUsable_iff (e : LedgerEntry) (n : Nat) : entryUsable e n = true ↔
    (e.corrupt = false ∧ e.tagOk = true) ∧ e.high - 64 < n ∧ (e.high < n ∨ e.window.getLsbD (e.high - n) = false) := by
  simp [entryUsable, and_assoc]

@[simp] theorem entryMark_key (e : LedgerEntry) (r : Nat) : (entryMark e r).key = e.key := by
  rw [entryMark]; split <;> rfl

theorem entryMark_flags (e : LedgerEntry) (r : Nat) :
    (entryMark e r).corrupt = e.corrupt ∧ (entryMark e r).tagOk = e.tagOk := by
  rw [entryMark]; split <;> exact ⟨rfl, rfl⟩

theorem entryMark_high (e : LedgerEntry) (r : Nat) : (entryMark e r).high = max e.high r := by
  rw [entryMark]; split
  · next h => exact (Nat.max_eq_right (Nat.le_of_lt h)).symm
  · next h => exact (Nat.max_eq_left (Nat.le_of_not_lt h)).symm

/-- The window of a marked entry has the bit of the id, and beside it what the old window held, taken to the new mark. -/
theorem entryMark_window (e : LedgerEntry) (r : Nat) {n : Nat} (hr : e.high - 64 < r) (hn : max e.high r - 64 < n)
    (hm : n ≤ max e.high r) : (entryMark e r).window.getLsbD (max e.high r - n)
      = (decide (n = r) || (decide (n ≤ e.high) && e.window.getLsbD (e.high - n))) := by
  rw [entryMark]
  split
  · next h =>
    rw [Nat.max_eq_right (by omega)] at *
    have hone : (1 : U64).getLsbD (r - n) = decide (n = r) := by
      rw [show (1 : U64) = 1#64 from rfl, BitVec.getLsbD_one]
      rw [Bool.eq_iff_iff]
      simp only [Bool.and_eq_true, decide_eq_true_eq]
      omega
    have hold : (e.window <<< (r - e.high)).getLsbD (r - n) = (decide (n ≤ e.high) && e.window.getLsbD (e.high - n)) := by
      rw [BitVec.getLsbD_shiftLeft, show r - n - (r - e.high) = e.high - n by omega]
      congr 1
      rw [Bool.eq_iff_iff]
      simp only [Bool.and_eq_true, Bool.not_eq_true', decide_eq_true_eq, decide_eq_false_iff_not]
      omega
    rw [BitVec.getLsbD_or, hone, hold, Bool.or_comm]
  · next h =>
    rw [Nat.max_eq_left (by omega)] at *
    have hbit : (BitVec.ofNat 64 (2 ^ (e.high - r))).getLsbD (e.high - n) = decide (n = r) := by
      rw [BitVec.getLsbD_ofNat, Nat.testBit_two_pow, Bool.eq_iff_iff]
      simp only [Bool.and_eq_true, decide_eq_true_eq]
      omega
    rw [BitVec.getLsbD_or, hbit, decide_eq_true hm, Bool.true_and, Bool.or_comm]

/-- A marked id lies under the new mark with its bit set. -/
theorem entryMark_ends {e : LedgerEntry} {r : Nat} (h : entryUsable e r = true) : entryUsable (entryMark e r) r = false := by
  obtain ⟨_, hr, _⟩ := (entryUsable_iff e r).mp h
  rw [Bool.eq_false_iff]
  intro hu
  obtain ⟨_, hlow, hbit⟩ := (entryUsable_iff _ r).mp hu
  rw [entryMark_high] at hlow hbit
  rw [entryMark_window e r hr hlow (Nat.le_max_right _ _), decide_eq_true rfl] at hbit
  rcases hbit with hbit | hbit
  · omega
  · exact Bool.noConfusion hbit

/-- Another id is usable after the mark exactly where it was, above the new window's end. -/
theorem entryMark_others {e : LedgerEntry} {r n : Nat} (h : entryUsable e r = true) (hne : n ≠ r) :
    entryUsable (entryMark e r) n = true ↔ entryUsable e n = true ∧ max e.high r - 64 < n := by
  obtain ⟨_, hr, _⟩ := (entryUsable_iff e r).mp h
  obtain ⟨hcorrupt, htag⟩ := entryMark_flags e r
  rw [entryUsable_iff, entryUsable_iff, hcorrupt, htag, entryMark_high, and_assoc (c := max e.high r - 64 < n)]
  refine and_congr_right fun _ => ?_
  have hle := Nat.le_max_left e.high r
  have hwindow := entryMark_window e r (n := n) hr
  generalize max e.high r = m at hle hwindow ⊢
  by_cases hlow : m - 64 < n
  · have hold : e.high - 64 < n := by omega
    simp only [hlow, hold, true_and, and_true]
    by_cases hm : n ≤ m
    · rw [hwindow hlow hm, decide_eq_false hne, Bool.false_or, Bool.and_eq_false_iff, decide_eq_false_iff_not, Nat.not_le]
      exact or_iff_right (Nat.not_lt.mpr hm)
    · have hnew : e.high < n := by omega
      exact iff_of_true (.inl (Nat.lt_of_not_le hm)) (.inl hnew)
  · simp only [hlow, false_and, and_false]

/-! ### The ledger -/

theorem ledgerFind_map_key {l : List LedgerEntry} {f : LedgerEntry → LedgerEntry} (hf : ∀ e, (f e).key = e.key) (key : U128) :
    ledgerFind (l.map f) key = (ledgerFind l key).map f := by
  rw [ledgerFind, List.find?_map]
  simp only [Function.comp_def, hf]
  rfl

/-- Marking a signer's entry. -/
def markEntry (key : U128) (r : Nat) (e : LedgerEntry) : LedgerEntry := if e.key = key then entryMark e r else e

theorem markEntry_key (key : U128) (r : Nat) (e : LedgerEntry) : (markEntry key r e).key = e.key := by
  rw [markEntry]; split
  · exact entryMark_key e r
  · rfl

theorem ledgerMark_ledger (key : U128) (r : Nat) (s : State) :
    (ledgerMark key r s).key.vbat.ledger = (ledgerCreate key s).key.vbat.ledger.map (markEntry key r) := rfl

theorem key_of_ledgerFind {l : List LedgerEntry} {key : U128} {e : LedgerEntry} (h : ledgerFind l key = some e) : e.key = key := by
  simpa using List.find?_some h

/-- The entry a mark finds: the signer's, or the one created for it. -/
theorem ledgerFind_ledgerCreate (key : U128) (s : State) : ledgerFind (ledgerCreate key s).key.vbat.ledger key
    = some ((ledgerFind s.key.vbat.ledger key).getD ⟨key, 0, 0, false, true⟩) := by
  rw [ledgerCreate]
  cases h : ledgerFind s.key.vbat.ledger key with
  | some e => exact h
  | none =>
    show ledgerFind (s.key.vbat.ledger ++ [⟨key, 0, 0, false, true⟩]) key = _
    rw [ledgerFind] at h ⊢
    simp [List.find?_append, h]

theorem ledgerFind_ledgerCreate_other {key other : U128} (s : State) (h : other ≠ key) :
    ledgerFind (ledgerCreate key s).key.vbat.ledger other = ledgerFind s.key.vbat.ledger other := by
  rw [ledgerCreate]
  split
  · rfl
  · show ledgerFind (s.key.vbat.ledger ++ [⟨key, 0, 0, false, true⟩]) other = _
    rw [ledgerFind, List.find?_append]
    simp [ledgerFind, Ne.symm h]

theorem ledgerUsable_congr {s t : State} (h : t.key.vbat.ledger = s.key.vbat.ledger) (key : U128) (r : Nat) :
    ledgerUsable t key r = ledgerUsable s key r := by
  rw [ledgerUsable, ledgerUsable, h]

/-- A mark ends the use of a usable id under its signer (R42). -/
theorem ledgerUsable_ledgerMark {s : State} {key : U128} {r : Nat} (h : ledgerUsable s key r = true) :
    ledgerUsable (ledgerMark key r s) key r = false := by
  have hfind : ledgerFind (ledgerMark key r s).key.vbat.ledger key
      = some (entryMark ((ledgerFind s.key.vbat.ledger key).getD ⟨key, 0, 0, false, true⟩) r) := by
    rw [ledgerMark_ledger, ledgerFind_map_key (markEntry_key key r), ledgerFind_ledgerCreate, Option.map_some, markEntry,
      if_pos (key_of_ledgerFind (ledgerFind_ledgerCreate key s))]
  rw [ledgerUsable, hfind]
  rw [ledgerUsable] at h
  cases hl : ledgerFind s.key.vbat.ledger key with
  | some e =>
    rw [hl] at h
    exact entryMark_ends h
  | none =>
    by_cases hr : r = 0
    · subst hr; rfl
    · exact entryMark_ends ((entryUsable_iff _ _).mpr ⟨⟨rfl, rfl⟩, by simpa using Nat.pos_of_ne_zero hr, .inl (Nat.pos_of_ne_zero hr)⟩)

theorem ledgerUsable_ledgerMark_other {key other : U128} (s : State) (r n : Nat) (h : other ≠ key) :
    ledgerUsable (ledgerMark key r s) other n = ledgerUsable s other n := by
  have hfind : ledgerFind (ledgerMark key r s).key.vbat.ledger other = ledgerFind s.key.vbat.ledger other := by
    rw [ledgerMark_ledger, ledgerFind_map_key (markEntry_key key r), ledgerFind_ledgerCreate_other s h]
    cases hl : ledgerFind s.key.vbat.ledger other with
    | none => rfl
    | some e => rw [Option.map_some, markEntry, if_neg (key_of_ledgerFind hl ▸ h)]
  rw [ledgerUsable, ledgerUsable, hfind]

theorem ledgerCreate_frame (key : U128) (s : State) : ledgerCreate key s = { s with key := (ledgerCreate key s).key } := by
  rw [ledgerCreate]; split <;> rfl

theorem ledgerMark_frame (key : U128) (r : Nat) (s : State) : ledgerMark key r s = { s with key := (ledgerMark key r s).key } := by
  rw [ledgerMark, ledgerCreate_frame]
  rfl

end Sys2Proof.Machine

open Sys2Proof Sys2Proof.Machine

/-- Settles O60: the mark sets the id's bit under the new high-water mark and keeps the other bits of its window. -/
theorem aRoundIsReleasedOnce : Obligations.ARoundIsReleasedOnce := by
  refine ⟨fun e r h => ⟨entryMark_ends h, fun n hne => entryMark_others h hne⟩, fun s key r h => ⟨?_, fun other n hne =>
    ledgerUsable_ledgerMark_other s r n hne, ?_, ?_⟩⟩
  · rw [ledgerRecorded, ledgerUsable_ledgerMark h]; rfl
  · rw [ledgerMark_frame]
  · rw [ledgerMark_frame]
end

section
/-! PROOFS. What a store and a zeroing leave in memory: the bytes of the range, the bytes beside it, and the marks of its lines
(R44, R196, R285, R375, R376). -/

namespace Sys2Proof.Machine
set_option Elab.async false

/-! ### Marks -/

theorem mem_insertSet {l : List Nat} {j k : Nat} : j ∈ insertSet l k ↔ j = k ∨ j ∈ l := by
  induction l with
  | nil => simp [insertSet]
  | cons x l ih =>
    rw [insertSet]
    split
    · next h => subst h; simp
    · split
      · simp
      · rw [List.mem_cons, ih, List.mem_cons]; exact or_left_comm

theorem poisonAfter_poisoned (old : List Nat) (k n : Nat) : poisonAfter old k n true = (linesOf k n).foldl insertSet old := by
  simp only [poisonAfter, if_true]

theorem mem_foldl_insertSet {l ls : List Nat} {j : Nat} : j ∈ ls.foldl insertSet l ↔ j ∈ ls ∨ j ∈ l := by
  induction ls generalizing l with
  | nil => simp
  | cons x ls ih => rw [List.foldl_cons, ih, mem_insertSet, List.mem_cons]; exact or_left_comm.trans or_assoc.symm

theorem mem_linesOf {k n l : Nat} : l ∈ linesOf k n ↔ 0 < n ∧ k / 64 ≤ l ∧ l ≤ (k + n - 1) / 64 := by
  rw [linesOf]
  split
  · next h => simp [h]
  · next h =>
    simp only [lineOf, List.mem_map, List.mem_range]
    constructor
    · rintro ⟨i, hi, rfl⟩; omega
    · rintro ⟨_, h1, h2⟩; exact ⟨l - k / 64, by omega, by omega⟩

/-- Part of a range that was stored with poison in device memory reads as poisoned (R375). -/
theorem poisonedAt_store_poisoned (s : State) {k a n : Nat} {b : Bytes} (hk : k < 2 ^ 64) (hn : 0 < n) (ha : k ≤ a)
    (hb : a + n ≤ k + b.length) : (s.store k b true).poisonedAt a n = true := by
  have hmarks : (s.store k b true).mem.poison = (linesOf k b.length).foldl insertSet s.mem.poison := by
    rw [State.store, State.onStore_mem, if_neg (Nat.not_le.mpr hk)]
    exact poisonAfter_poisoned _ _ _
  rw [State.poisonedAt, List.any_eq_true]
  refine ⟨a / 64, mem_linesOf.mpr ⟨hn, Nat.le_refl _, by omega⟩, ?_⟩
  rw [hmarks, Bool.or_eq_true, List.contains_iff_mem, mem_foldl_insertSet]
  exact .inl (.inl (mem_linesOf.mpr ⟨by omega, by omega, by omega⟩))

/-- Poisoned data reach host memory as zeros, which takes no mark (R376). -/
theorem store_host_poisoned (s : State) {k : Nat} (b : Bytes) (hk : 2 ^ 64 ≤ k) :
    s.store k b true = s.store k (zeroBytes b.length) false := by
  rw [State.store, State.store]
  simp only [if_pos hk, if_true, Bool.false_eq_true, if_false]

theorem zeroBytes_length (n : Nat) : (zeroBytes n).length = n := List.length_replicate

/-- Device memory takes the bytes of data as they are, poisoned or not. -/
theorem cells_store_device (s : State) {k : Nat} (b : Bytes) (x : Bool) (hk : k < 2 ^ 64) :
    (s.store k b x).mem.cells = cellsPut s.mem.cells k b := by
  rw [State.store, State.onStore_mem, if_neg (Nat.not_le.mpr hk)]

/-- The whole lines of a zeroed range are clean. -/
theorem poisonedAt_zeroRange (s : State) {k n : Nat} (hk : k % 64 = 0) (hn : n % 64 = 0) :
    (s.zeroRange k n).poisonedAt k n = false := by
  rw [State.poisonedAt, List.any_eq_false]
  intro l hl
  obtain ⟨h1, h2⟩ := lineIn_of_mem_linesOf hk hn (Nat.le_refl k) (Nat.le_refl _) hl
  have hout (m : List Nat) : l ∉ m.filter fun n' => !decide (k ≤ n' * 64 ∧ n' * 64 + 64 ≤ k + n) := by
    rw [List.mem_filter]
    simp [h1, h2]
  rw [Bool.or_eq_true, List.contains_iff_mem, List.contains_iff_mem]
  exact fun h => h.elim (hout _) (hout _)

end Sys2Proof.Machine

open Sys2Proof Sys2Proof.Machine

/-- Settles O54: a store by where its range lies and whether it is poisoned, a zeroing by the range alone. -/
theorem memoryReadsWhatWasWritten : Obligations.MemoryReadsWhatWasWritten := by
  refine ⟨fun s k b x hw => ⟨store_wf k b x hw, fun a => byteAt_store_outside s k a b x, fun h => ?_, fun hk hx => ?_,
    fun hk hx n a hn ha hb => ?_⟩, fun s k n hw => ⟨zeroRange_wf k n hw, ?_, fun a => byteAt_zeroRange_outside s,
    poisonedAt_zeroRange s⟩⟩
  · rcases h with hk | rfl
    · rw [State.bytesAt, cells_store_device s b x hk]
      exact cellsGet_cellsPut_same k b hw
    · exact bytesAt_store_same k b hw
  · subst hx
    rw [store_host_poisoned s b hk]
    refine ⟨?_, ?_⟩
    · simpa only [zeroBytes_length] using bytesAt_store_same k (zeroBytes b.length) hw
    · rw [State.store, State.onStore_mem, if_pos hk]
  · subst hx
    exact poisonedAt_store_poisoned s hk hn ha hb
  · exact bytesAt_zeroRange_inside s (Nat.le_refl k) (Nat.le_refl _)
end

section
/-! PROOFS. What the operations of a round leave alone: the pages and the waits that a release write of its partition's slots rests
on, the contexts and partitions beside it, the completions that wait, and the canonical form of memory (R36, R43, R44, R356). -/

namespace Sys2Proof.Machine
set_option Elab.async false

/-- What release writes of a partition and completions rest on is as it was, but for cached translations, held messages, the
releases noted and commands that are muted no longer; no line is in error that was not. -/
structure SlotKeeps (p : Part) (s t : State) : Prop where
  dies : t.dies = s.dies
  sys : t.sys = s.sys
  managing : t.hub.managing = s.hub.managing
  phase : (t.part p).phase = (s.part p).phase
  resv : (t.part p).resv = (s.part p).resv
  image : (t.part p).img.image = (s.part p).img.image
  mem : ∃ c b x, (t.part p).mem = { (s.part p).mem with cached := c, badTables := b, xlatMisses := x }
  twin : ∃ m r h, (t.part p).twin = { (s.part p).twin with mute := m, releases := r, held := h }
  mute : ∀ q e, e ∈ (t.part q).twin.mute → e ∈ (s.part q).twin.mute
  bad : ∀ n ∈ t.mem.bad, n ∈ s.mem.bad

/-- An operation on one context of a partition: beside it only what such operations share changes. -/
structure RoundKeeps (p : Part) (k : Ctx) (s t : State) : Prop extends SlotKeeps p s t where
  only : OnlyContext p k s t
  cpl : ∀ fn, ∃ l, (t.hif fn).cplPending = (s.hif fn).cplPending ++ l
  wf : Memory.wf s.mem = true → Memory.wf t.mem = true

/-- What such an operation keeps of its partition's own state. -/
structure PartKeeps (k : Ctx) (x y : PartState) : Prop where
  ctx : ∀ j, j ≠ k → y.ctxs[j] = x.ctxs[j]
  phase : y.phase = x.phase
  resv : y.resv = x.resv
  image : y.img.image = x.img.image
  mem : ∃ c b m, y.mem = { x.mem with cached := c, badTables := b, xlatMisses := m }
  twin : ∃ m r h, y.twin = { x.twin with mute := m, releases := r, held := h }
  mute : ∀ e ∈ y.twin.mute, e ∈ x.twin.mute
  cpl : ∃ l, y.hif.cplPending = x.hif.cplPending ++ l

section
variable {p : Part} {k : Ctx} {s t u : State}

theorem SlotKeeps.refl (p : Part) (s : State) : SlotKeeps p s s :=
  ⟨rfl, rfl, rfl, rfl, rfl, rfl, ⟨_, _, _, rfl⟩, ⟨_, _, _, rfl⟩, fun _ _ => id, fun _ => id⟩

theorem SlotKeeps.trans (h : SlotKeeps p s t) (g : SlotKeeps p t u) : SlotKeeps p s u := by
  obtain ⟨_, _, _, hm⟩ := h.mem
  obtain ⟨_, _, _, gm⟩ := g.mem
  obtain ⟨_, _, _, ht⟩ := h.twin
  obtain ⟨_, _, _, gt⟩ := g.twin
  exact ⟨g.dies.trans h.dies, g.sys.trans h.sys, g.managing.trans h.managing, g.phase.trans h.phase, g.resv.trans h.resv,
    g.image.trans h.image, ⟨_, _, _, by rw [gm, hm]⟩, ⟨_, _, _, by rw [gt, ht]⟩, fun q e he => h.mute q e (g.mute q e he),
    fun n hn => h.bad n (g.bad n hn)⟩

theorem OnlyContext.refl (p : Part) (k : Ctx) (s : State) : OnlyContext p k s s := ⟨fun _ _ => rfl, fun _ _ => rfl⟩

theorem OnlyContext.trans (h : OnlyContext p k s t) (g : OnlyContext p k t u) : OnlyContext p k s u :=
  ⟨fun j hj => (g.1 j hj).trans (h.1 j hj), fun q hq => (g.2 q hq).trans (h.2 q hq)⟩

theorem RoundKeeps.refl (p : Part) (k : Ctx) (s : State) : RoundKeeps p k s s :=
  ⟨.refl p s, .refl p k s, fun _ => ⟨[], (List.append_nil _).symm⟩, id⟩

theorem RoundKeeps.trans (h : RoundKeeps p k s t) (g : RoundKeeps p k t u) : RoundKeeps p k s u := by
  refine ⟨h.toSlotKeeps.trans g.toSlotKeeps, h.only.trans g.only, fun fn => ?_, fun hw => g.wf (h.wf hw)⟩
  obtain ⟨l, hl⟩ := h.cpl fn
  obtain ⟨m, hm⟩ := g.cpl fn
  exact ⟨l ++ m, by rw [hm, hl, List.append_assoc]⟩

theorem RoundKeeps.forAll {α : Type} {l : List α} {f : α → State → State} (hf : ∀ a ∈ l, ∀ v, RoundKeeps p k v (f a v)) (s : State) :
    RoundKeeps p k s (forAll l f s) :=
  forAll_keeps (RoundKeeps p k s) l f s (.refl p k s) fun a ha _ hv => hv.trans (hf a ha _)

theorem RoundKeeps.foldl {α : Type} {l : List α} {f : State → α → State} (hf : ∀ v, ∀ a ∈ l, RoundKeeps p k v (f v a)) (s : State) :
    RoundKeeps p k s (l.foldl f s) := RoundKeeps.forAll (f := fun a v => f v a) (fun a ha v => hf v a ha) s

theorem RoundKeeps.when {b : Bool} {f : State → State} (hf : RoundKeeps p k s (f s)) : RoundKeeps p k s (when b f s) :=
  when_keeps (RoundKeeps p k s) b f s (.refl p k s) hf

/-- A change outside partitions, hub, dies and clock that leaves memory's lines in error and its form. -/
theorem RoundKeeps.of_parts (hparts : t.parts = s.parts) (hhub : t.hub = s.hub) (hdies : t.dies = s.dies) (hsys : t.sys = s.sys)
    (hbad : ∀ n ∈ t.mem.bad, n ∈ s.mem.bad) (hwf : Memory.wf s.mem = true → Memory.wf t.mem = true) : RoundKeeps p k s t := by
  have hpart (q : Part) : t.part q = s.part q := by rw [State.part, hparts]; rfl
  refine ⟨⟨hdies, hsys, by rw [hhub], by rw [hpart], by rw [hpart], by rw [hpart], ⟨_, _, _, by rw [hpart]⟩, ⟨_, _, _, by rw [hpart]⟩,
    fun q _ => by rw [hpart]; exact id, hbad⟩, ⟨fun j _ => ?_, fun q _ => hpart q⟩, fun fn => ⟨[], ?_⟩, hwf⟩
  · rw [State.ctx, hpart]; rfl
  · rw [hif_of_eq fn hhub hparts, List.append_nil]

/-- A change that leaves partitions, hub, dies, clock and memory. -/
theorem RoundKeeps.of_frame (hparts : t.parts = s.parts) (hhub : t.hub = s.hub) (hdies : t.dies = s.dies) (hsys : t.sys = s.sys)
    (hmem : t.mem = s.mem) : RoundKeeps p k s t :=
  .of_parts hparts hhub hdies hsys (fun _ => by rw [hmem]; exact id) (by rw [hmem]; exact id)

theorem roundKeeps_onPart (f : PartState → PartState) (h : PartKeeps k (s.part p) (f (s.part p))) :
    RoundKeeps p k s (s.onPart p f) := by
  have hpart := State.part_onPart s p f
  have hother (q : Part) (hq : q ≠ p) := State.part_onPart_other s p q f hq
  refine ⟨⟨rfl, rfl, rfl, by rw [hpart, h.phase], by rw [hpart, h.resv], by rw [hpart, h.image], by rw [hpart]; exact h.mem,
    by rw [hpart]; exact h.twin, fun q e => ?_, fun _ => id⟩, ⟨fun j hj => ?_, hother⟩, fun fn => ?_, id⟩
  · by_cases hq : q = p
    · subst hq; rw [hpart]; exact h.mute e
    · rw [hother q hq]; exact id
  · rw [State.ctx, hpart]; exact h.ctx j hj
  · cases fn with
    | f0 q => exact ⟨[], (List.append_nil _).symm⟩
    | part q =>
      rw [State.hif, State.hif]
      by_cases hq : q = p
      · subst hq; rw [hpart]; exact h.cpl
      · rw [hother q hq]; exact ⟨[], (List.append_nil _).symm⟩

theorem PartKeeps.refl (k : Ctx) (x : PartState) : PartKeeps k x x :=
  ⟨fun _ _ => rfl, rfl, rfl, rfl, ⟨_, _, _, rfl⟩, ⟨_, _, _, rfl⟩, fun _ => id, ⟨[], (List.append_nil _).symm⟩⟩

theorem roundKeeps_onCtx (p : Part) (k : Ctx) (f : RoundCtx → RoundCtx) (s : State) : RoundKeeps p k s (State.onCtx p k f s) :=
  roundKeeps_onPart _ { PartKeeps.refl k (s.part p) with ctx := fun j hj => State.vupd_other _ k j f hj }

theorem roundKeeps_onRng (f : RngState → RngState) (s : State) : RoundKeeps p k s (s.onRng f) := .of_frame rfl rfl rfl rfl rfl

theorem roundKeeps_onKey (f : KeyState → KeyState) (s : State) : RoundKeeps p k s (s.onKey f) := .of_frame rfl rfl rfl rfl rfl

/-! ### Memory -/

theorem mem_of_mem_badAfter {old : List Nat} {a n l : Nat} (h : l ∈ badAfter old a n) : l ∈ old := List.mem_of_mem_filter h

theorem roundKeeps_zeroRange (a n : Nat) (s : State) : RoundKeeps p k s (s.zeroRange a n) :=
  .of_parts rfl rfl rfl rfl (fun _ => mem_of_mem_badAfter) (zeroRange_wf a n)

theorem roundKeeps_store (a : Nat) (b : Bytes) (x : Bool) (s : State) : RoundKeeps p k s (s.store a b x) := by
  refine .of_parts rfl rfl rfl rfl (fun n hn => ?_) (store_wf a b x)
  rw [State.store, State.onStore_mem] at hn
  split at hn
  · exact hn
  · exact mem_of_mem_badAfter hn

theorem roundKeeps_deviceZero (q : Part) (va len : Nat) (s : State) : RoundKeeps p k s (deviceZero q va len s) := by
  refine .foldl (fun v (a, n) _ => ?_) s
  dsimp only
  split
  · split
    · split
      · exact roundKeeps_zeroRange ..
      · exact .refl ..
    · exact .refl ..
  · exact .refl ..

theorem roundKeeps_deviceWrite (q : Part) (va : Nat) (b : Bytes) (s : State) : RoundKeeps p k s (deviceWrite q va b s) := by
  refine .foldl (fun v (a, n) _ => ?_) s
  dsimp only
  split
  · split
    · split
      · exact roundKeeps_store ..
      · exact .refl ..
    · exact .refl ..
  · exact .refl ..

theorem roundKeeps_poisonRange (q : Part) (va len : Nat) (s : State) : RoundKeeps p k s (poisonRange q va len s) := by
  refine .foldl (fun v (a, n) _ => ?_) s
  dsimp only
  split
  · split
    · split
      · exact .of_parts rfl rfl rfl rfl (fun _ => id) id
      · exact .refl ..
    · exact .refl ..
  · exact .refl ..

theorem roundKeeps_writeVA (q : Part) (va : Nat) (b : Bytes) (perm : Nat) (x : Bool) (s : State) :
    RoundKeeps p k s (writeVA q va b perm x s) := by
  refine .foldl (fun v (a, n) _ => ?_) s
  dsimp only
  split
  · exact roundKeeps_store ..
  · exact .refl ..

theorem roundKeeps_zeroVA (q : Part) (va len perm : Nat) (s : State) : RoundKeeps p k s (zeroVA q va len perm s) := by
  refine .foldl (fun v (a, n) _ => ?_) s
  dsimp only
  split
  · exact roundKeeps_zeroRange ..
  · exact .refl ..

theorem roundKeeps_dropStaging (p : Part) (k : Ctx) (s : State) : RoundKeeps p k s (dropStaging p k s) := roundKeeps_zeroRange ..

theorem roundKeeps_poisonRound (p : Part) (k : Ctx) (s : State) : RoundKeeps p k s (poisonRound p k s) :=
  (roundKeeps_poisonRange p _ _ s).trans (roundKeeps_onCtx p k _ _)

/-! ### Events and completions -/

theorem queueEvent_cplPending (e : Event) (h : HifSet) : (queueEvent e h).cplPending = h.cplPending := by
  unfold queueEvent
  split
  · split <;> rfl
  · extract_lets need
    split
    · split <;> rfl
    · rfl

/-- A change of the partition's host-interface set, or of function 0's, that only adds completions. -/
theorem roundKeeps_onHif {fn : Fn} (hfn : ∀ q, fn = .part q → q = p) {f : HifSet → HifSet}
    (hf : ∀ h, ∃ l, (f h).cplPending = h.cplPending ++ l) (s : State) : RoundKeeps p k s (s.onHif fn f) := by
  cases fn with
  | part q =>
    obtain rfl := hfn q rfl
    exact roundKeeps_onPart _ { PartKeeps.refl k (s.part q) with cpl := hf _ }
  | f0 q =>
    refine ⟨⟨rfl, rfl, rfl, rfl, rfl, rfl, ⟨_, _, _, rfl⟩, ⟨_, _, _, rfl⟩, fun _ _ => id, fun _ => id⟩,
      ⟨fun _ _ => rfl, fun _ _ => rfl⟩, fun g => ?_, id⟩
    by_cases hg : g = .f0 q
    · rw [hg, State.hif_onHif]; exact hf _
    · rw [hif_onHif_other s _ g f hg]; exact ⟨[], (List.append_nil _).symm⟩

theorem roundKeeps_record (r : BufRec) (s : State) : RoundKeeps p k s (record r s) := by
  rw [record_frame]
  exact .of_frame rfl rfl rfl rfl rfl

theorem roundKeeps_post {fn : Fn} (hfn : ∀ q, fn = .part q → q = p) (cls : EventClass) (st : Status) (sev : Severity) (source : Nat)
    (det : U64) (s : State) : RoundKeeps p k s (post fn cls st sev source det s) := by
  rw [post]
  exact (roundKeeps_onHif hfn (fun h => ⟨[], by rw [queueEvent_cplPending, List.append_nil]⟩) s).trans (roundKeeps_record ..)

theorem roundKeeps_postRound (p : Part) (k j : Ctx) (st : Status) (sev : Severity) (kind value : Nat) (s : State) :
    RoundKeeps p k s (postRound p j st sev kind value s) := roundKeeps_post (fun _ h => (Fn.part.inj h).symm) ..

theorem roundKeeps_complete {c : Cmd} (hc : c.fn = .part p) (op : Nat) (st : Status) (aux result : Nat) (s : State) :
    RoundKeeps p k s (complete c op st aux result s) := by
  rcases complete_cases c op st aux result s with h | ⟨q, hq, _⟩ | ⟨q, hq, _, h⟩
  · rw [h]
    exact roundKeeps_onHif (fun q hq => (Fn.part.inj (hc.symm.trans hq)).symm) (fun h => ⟨_, rfl⟩) s
  · rw [hc] at hq; exact Fn.noConfusion hq
  · rw [h]
    obtain rfl := Fn.part.inj (hc.symm.trans hq)
    exact roundKeeps_onPart _ { PartKeeps.refl k (s.part p) with
      twin := ⟨_, _, _, rfl⟩, mute := fun _ => List.mem_of_mem_erase }

end

end Sys2Proof.Machine
end

section
/-! PROOFS. What the operations of a round leave of a context, and what they keep beside it (R36, R41, R44, R59, R288). -/

namespace Sys2Proof.Machine
set_option Elab.async false

/-! ### The contexts after an operation -/

theorem ctx_of_parts {s t : State} (h : t.parts = s.parts) (q : Part) (j : Ctx) : t.ctx q j = s.ctx q j := by
  rw [State.ctx, State.part, h]; rfl

theorem ctx_onPart_same (s : State) (p : Part) (f : PartState → PartState) (hf : ∀ x, (f x).ctxs = x.ctxs) (q : Part) (j : Ctx) :
    (s.onPart p f).ctx q j = s.ctx q j := by
  rw [State.ctx, State.ctx]
  by_cases hq : q = p
  · subst hq; rw [State.part_onPart, hf]
  · rw [State.part_onPart_other s p q f hq]

@[simp] theorem ctx_onTwin (s : State) (p : Part) (f : TwinState → TwinState) (q : Part) (j : Ctx) :
    (State.onTwin p f s).ctx q j = s.ctx q j := ctx_onPart_same s p (fun x => { x with twin := f x.twin }) (fun _ => rfl) q j
@[simp] theorem ctx_onMem (s : State) (p : Part) (f : PartMem → PartMem) (q : Part) (j : Ctx) :
    (State.onMem p f s).ctx q j = s.ctx q j := ctx_onPart_same s p (fun x => { x with mem := f x.mem }) (fun _ => rfl) q j
@[simp] theorem ctx_dropStaging (s : State) (p : Part) (k : Ctx) (q : Part) (j : Ctx) : (dropStaging p k s).ctx q j = s.ctx q j := rfl
@[simp] theorem ctx_cancelNoise (s : State) (p : Part) (k : Ctx) (q : Part) (j : Ctx) : (cancelNoise p k s).ctx q j = s.ctx q j := rfl

@[simp] theorem ctx_onHif (s : State) (fn : Fn) (f : HifSet → HifSet) (q : Part) (j : Ctx) : (s.onHif fn f).ctx q j = s.ctx q j := by
  cases fn with
  | f0 _ => rfl
  | part p => exact ctx_onPart_same s p (fun x => { x with hif := f x.hif }) (fun _ => rfl) q j

theorem record_parts (r : BufRec) (s : State) : (record r s).parts = s.parts := rfl

@[simp] theorem ctx_post (fn : Fn) (cls : EventClass) (st : Status) (sev : Severity) (source : Nat) (det : U64) (s : State) (q : Part)
    (j : Ctx) : (post fn cls st sev source det s).ctx q j = s.ctx q j := by
  rw [post, ctx_of_parts (record_parts ..), ctx_onHif]

@[simp] theorem ctx_postRound (p : Part) (k : Ctx) (st : Status) (sev : Severity) (kind value : Nat) (s : State) (q : Part) (j : Ctx) :
    (postRound p k st sev kind value s).ctx q j = s.ctx q j := ctx_post ..

@[simp] theorem ctx_complete (c : Cmd) (op : Nat) (st : Status) (aux result : Nat) (s : State) (q : Part) (j : Ctx) :
    (complete c op st aux result s).ctx q j = s.ctx q j := by
  rcases complete_cases c op st aux result s with h | ⟨_, _, _, h⟩ | ⟨_, _, _, h⟩ <;> rw [h]
  · exact ctx_onHif ..
  · exact ctx_onTwin ..

theorem parts_foldl {α : Type} {l : List α} {f : State → α → State} (hf : ∀ v a, (f v a).parts = v.parts) (s : State) :
    (l.foldl f s).parts = s.parts :=
  forAll_keeps (fun t => t.parts = s.parts) l (fun a v => f v a) s rfl fun a _ t ht => (hf t a).trans ht

@[simp] theorem writeVA_parts (p : Part) (va : Nat) (b : Bytes) (perm : Nat) (x : Bool) (s : State) :
    (writeVA p va b perm x s).parts = s.parts := parts_foldl (fun v (a, n) => by dsimp only; split <;> rfl) s

@[simp] theorem zeroVA_parts (p : Part) (va len perm : Nat) (s : State) : (zeroVA p va len perm s).parts = s.parts :=
  parts_foldl (fun v (a, n) => by dsimp only; split <;> rfl) s

@[simp] theorem poisonRange_parts (p : Part) (va len : Nat) (s : State) : (poisonRange p va len s).parts = s.parts :=
  parts_foldl (fun v (a, n) => by
    dsimp only
    split
    · split
      · split <;> rfl
      · rfl
    · rfl) s

@[simp] theorem deviceZero_parts (p : Part) (va len : Nat) (s : State) : (deviceZero p va len s).parts = s.parts :=
  parts_foldl (fun v (a, n) => by
    dsimp only
    split
    · split
      · split <;> rfl
      · rfl
    · rfl) s

@[simp] theorem deviceWrite_parts (p : Part) (va : Nat) (b : Bytes) (s : State) : (deviceWrite p va b s).parts = s.parts :=
  parts_foldl (fun v (a, n) => by
    dsimp only
    split
    · split
      · split <;> rfl
      · rfl
    · rfl) s

@[simp] theorem ctx_poisonRound (p : Part) (k : Ctx) (s : State) :
    (poisonRound p k s).ctx p k = { s.ctx p k with tilesPoisoned := true } := by
  rw [poisonRound, State.ctx_onCtx, ctx_of_parts (poisonRange_parts ..)]

end Sys2Proof.Machine
end

section
/-! PROOFS. The shared operations of a round, and the translation of a slot's pages after them (R36, R41, R43, R44, R199, R288). -/

namespace Sys2Proof.Machine
set_option Elab.async false

section
variable {p : Part} {k : Ctx} {s t : State}

/-! ### Operations that every round command shares -/

theorem noteWalk_keeps (s : State) (p : Part) (c : XCache) (n : Nat) (m : PartMem) :
    ∃ a b x, noteWalk s p c n m = { m with cached := a, badTables := b, xlatMisses := x } := by
  unfold noteWalk
  extract_lets va key m' level l mine
  split
  · exact ⟨_, _, _, rfl⟩
  · split
    · exact ⟨_, _, _, rfl⟩
    · split
      · exact ⟨_, _, _, rfl⟩
      · split <;> exact ⟨_, _, _, rfl⟩
    · exact ⟨_, _, _, rfl⟩

theorem foldl_noteWalk_keeps (s : State) (p : Part) (c : XCache) (l : List Nat) (m : PartMem) :
    ∃ a b x, l.foldl (fun m n => noteWalk s p c n m) m = { m with cached := a, badTables := b, xlatMisses := x } := by
  induction l generalizing m with
  | nil => exact ⟨_, _, _, rfl⟩
  | cons n l ih =>
    obtain ⟨a, b, x, h⟩ := noteWalk_keeps s p c n m
    obtain ⟨a', b', x', h'⟩ := ih (noteWalk s p c n m)
    exact ⟨a', b', x', by rw [List.foldl_cons, h', h]⟩

theorem roundKeeps_noteWalks (p : Part) (k : Ctx) (c : XCache) (va len : Nat) (s : State) : RoundKeeps p k s (noteWalks p c va len s) :=
  roundKeeps_onPart _ { PartKeeps.refl k (s.part p) with mem := foldl_noteWalk_keeps s p c _ _ }

@[simp] theorem ctx_noteWalks (p : Part) (c : XCache) (va len : Nat) (s : State) (q : Part) (j : Ctx) :
    (noteWalks p c va len s).ctx q j = s.ctx q j := ctx_onMem ..

theorem roundKeeps_onLedger (f : List LedgerEntry → List LedgerEntry) (s : State) : RoundKeeps p k s (onLedger f s) := roundKeeps_onKey _ s

theorem roundKeeps_ledgerCreate (key : U128) (s : State) : RoundKeeps p k s (ledgerCreate key s) := by
  rw [ledgerCreate_frame]; exact roundKeeps_onKey (fun _ => _) s

theorem roundKeeps_judgeEntry (p : Part) (k : Ctx) (key : U128) (s : State) : RoundKeeps p k s (judgeEntry p k key s) := by
  rw [judgeEntry]
  split
  · exact .refl p k s
  · exact (roundKeeps_onLedger _ s).trans (roundKeeps_postRound ..)

theorem roundKeeps_holdRound (p : Part) (k : Ctx) (cause : HoldCause) (s : State) : RoundKeeps p k s (holdRound p k cause s) := by
  unfold holdRound
  extract_lets c s'
  have hs' : RoundKeeps p k s s' := roundKeeps_onCtx ..
  split
  · exact hs'
  · exact hs'.trans (roundKeeps_postRound ..)

@[simp] theorem ctx_holdRound (p : Part) (k : Ctx) (cause : HoldCause) (s : State) :
    (holdRound p k cause s).ctx p k = { s.ctx p k with phase := .held, holdCause := cause } := by
  unfold holdRound
  extract_lets c s'
  have hs' : s'.ctx p k = { s.ctx p k with phase := .held, holdCause := cause } := State.ctx_onCtx ..
  split
  · exact hs'
  · rw [ctx_postRound, hs']

theorem finishFinalize_some {c : Cmd} (h : (s.ctx p k).finCmd = some c) (st : Status) (result : Nat) : finishFinalize p k st result s
    = complete c 0x13 st 0 result (State.onCtx p k (fun c => { c with finCmd := none, lastStatus := st }) s) := by
  rw [finishFinalize, h]

theorem roundKeeps_cancelNoise (p : Part) (k : Ctx) (s : State) : RoundKeeps p k s (cancelNoise p k s) := roundKeeps_onRng ..

theorem roundKeeps_freeEntry (p : Part) (k : Ctx) (r : Fin 4) (i : U32) (s : State) : RoundKeeps p k s (freeEntry p r i s) :=
  roundKeeps_onPart _ { PartKeeps.refl k (s.part p) with }

@[simp] theorem ctx_freeEntry (p : Part) (r : Fin 4) (i : U32) (s : State) (q : Part) (j : Ctx) :
    (freeEntry p r i s).ctx q j = s.ctx q j :=
  ctx_onPart_same s p (fun x => { x with ingest := vupd x.ingest r (Ingest.freeAt i) }) (fun _ => rfl) q j

theorem roundKeeps_dropMessages (p : Part) (k : Ctx) (s : State) : RoundKeeps p k s (dropMessages p k s) := by
  rw [dropMessages]
  have hfree : RoundKeeps p k s (forAll ((s.part p).ringEntries k) (fun (r, i) => freeEntry p r i) s) :=
    .forAll (fun a _ v => roundKeeps_freeEntry p k a.1 a.2 v) s
  generalize forAll ((s.part p).ringEntries k) (fun (r, i) => freeEntry p r i) s = v at hfree ⊢
  exact hfree.trans (roundKeeps_onPart _ { PartKeeps.refl k (v.part p) with twin := ⟨_, _, _, rfl⟩ })

theorem ctx_dropMessages (p : Part) (k : Ctx) (s : State) (q : Part) (j : Ctx) : (dropMessages p k s).ctx q j = s.ctx q j := by
  rw [dropMessages]
  refine (ctx_onPart_same _ p _ ?_ q j).trans (forAll_keeps (fun t => t.ctx q j = s.ctx q j) _ _ s rfl fun a _ t ht => ?_)
  · intro x; rfl
  · exact (ctx_freeEntry p a.1 a.2 t q j).trans ht

/-! ### Translation -/

theorem SlotKeeps.leafAt (h : SlotKeeps p s t) (va : Nat) : t.leafAt p va = s.leafAt p va := by
  obtain ⟨_, _, _, hm⟩ := h.mem
  rw [State.leafAt, State.leafAt, hm, h.image]

theorem SlotKeeps.leafKey (h : SlotKeeps p s t) (e : U64) (va : Nat) : t.leafKey p e va = s.leafKey p e va := by
  have hphys (d : Die) (c : Cluster) : t.physOf d c = s.physOf d c := by rw [State.physOf, h.dies]; rfl
  rw [State.leafKey, State.leafKey, hphys, h.resv]

theorem SlotKeeps.largeAt (h : SlotKeeps p s t) (va : Nat) : t.largeAt p va = s.largeAt p va := by
  obtain ⟨_, _, _, hm⟩ := h.mem
  rw [State.largeAt, State.largeAt, hm]

theorem SlotKeeps.entryLine (h : SlotKeeps p s t) (va level : Nat) : t.entryLine p va level = s.entryLine p va level := by
  obtain ⟨_, _, _, hm⟩ := h.mem
  rw [State.entryLine, State.entryLine, hm]
  rfl

/-- A walk meets no line in error exactly where no level's entry lies in one. -/
theorem entryBad_eq_false_iff (s : State) (p : Part) (va : Nat) : s.entryBad p va = false
    ↔ ∀ level, level < 4 → ∀ n, s.entryLine p va level = some n → n ∉ s.mem.bad := by
  rw [State.entryBad, State.badLevel]
  cases hb : s.mem.bad with
  | nil => simp
  | cons x l =>
    rw [Option.isSome_eq_false_iff, Option.isNone_iff_eq_none, List.find?_eq_none]
    simp only [List.mem_range]
    refine forall_congr' fun level => imp_congr_right fun _ => ?_
    cases s.entryLine p va level with
    | none => simp
    | some n => simp

theorem SlotKeeps.entryBad (h : SlotKeeps p s t) {va : Nat} (hs : s.entryBad p va = false) : t.entryBad p va = false := by
  rw [entryBad_eq_false_iff] at hs ⊢
  intro level hl n hn hbad
  exact hs level hl n (h.entryLine va level ▸ hn) (h.bad n hbad)

/-- A translation is a key where its walk ends in a leaf that gives one, with the permission. -/
theorem translate_eq_ok_iff {va perm key : Nat} : s.translate p va perm = .ok key ↔ va < 2 ^ 40 ∧ s.entryBad p va = false
    ∧ ∃ e, s.leafAt p va = some e ∧ leafMalformed (s.largeAt p va) e = false ∧ leafType e = 2 ∧ leafPerm e perm = true
      ∧ s.leafKey p e va = some key := by
  rw [State.translate]
  by_cases hva : 2 ^ 40 ≤ va
  · rw [if_pos hva]
    exact iff_of_false (fun h => nomatch h) (fun h => absurd h.1 (Nat.not_lt.mpr hva))
  · rw [if_neg hva]
    cases hb : s.entryBad p va with
    | true => simp
    | false =>
      simp only [Bool.false_eq_true, if_false, Nat.lt_of_not_le hva, true_and]
      cases hl : s.leafAt p va with
      | none => simp
      | some e =>
        cases hm : leafMalformed (s.largeAt p va) e with
        | true => simp [hm]
        | false =>
          by_cases ht : leafType e = 2
          · cases hp : leafPerm e perm with
            | true =>
              cases hk : s.leafKey p e va with
              | none => simp [hm, ht, hp, hk]
              | some n => simp [hm, ht, hp, hk]
            | false => simp [hm, ht, hp]
          · simp [hm, ht]

theorem SlotKeeps.translate (h : SlotKeeps p s t) {va perm key : Nat} (hs : s.translate p va perm = .ok key) :
    t.translate p va perm = .ok key := by
  rw [translate_eq_ok_iff] at hs ⊢
  obtain ⟨hva, hb, e, hl, hm, htype, hperm, hkey⟩ := hs
  exact ⟨hva, h.entryBad hb, e, by rw [h.leafAt, hl], by rw [h.largeAt, hm], htype, hperm, by rw [h.leafKey, hkey]⟩

/-- A page that answers neither a fault nor `none` in the first fault's search translates. -/
theorem firstFault_eq_none_iff {va len perm : Nat} : firstFault s p va len perm = none
    ↔ ∀ n ∈ pagesOf va (boundLen va len), ∃ key, s.translate p (max va (n * 2 ^ 16)) perm = .ok key := by
  rw [firstFault, List.findSome?_eq_none_iff]
  refine forall_congr' fun n => imp_congr_right fun _ => ?_
  cases s.translate p (max va (n * 2 ^ 16)) perm with
  | error e => simp
  | ok key => simp

theorem SlotKeeps.firstFault (h : SlotKeeps p s t) {va len perm : Nat} (hs : firstFault s p va len perm = none) :
    firstFault t p va len perm = none := by
  rw [firstFault_eq_none_iff] at hs ⊢
  intro n hn
  obtain ⟨key, hkey⟩ := hs n hn
  exact ⟨key, h.translate hkey⟩

/-- A range inside one page of the address space meets no fault where its first address translates. -/
theorem firstFault_onePage {va len perm key : Nat} (hpage : va % 2 ^ 16 + len ≤ 2 ^ 16) (hs : s.translate p va perm = .ok key) :
    Machine.firstFault s p va len perm = none := by
  obtain ⟨hva, _⟩ := translate_eq_ok_iff.mp hs
  rw [firstFault_eq_none_iff]
  intro n hn
  have hn' : n = va / 2 ^ 16 := by
    unfold pagesOf boundLen at hn
    split at hn
    · cases hn
    · obtain ⟨i, hi, rfl⟩ := List.mem_map.mp hn
      rw [List.mem_range] at hi
      omega
  subst hn'
  rw [Nat.max_eq_left (Nat.div_mul_le_self va (2 ^ 16))]
  exact ⟨key, hs⟩

end

end Sys2Proof.Machine
end

section
/-! PROOFS. Completions, and the release writes of a slot that meet no fault: a header is written, and what follows its write comes at
once (R40, R41, R43, R204, R356). -/

namespace Sys2Proof.Machine
set_option Elab.async false

section
variable {p : Part} {k : Ctx} {s t u : State} {c : Cmd} {op : Nat} {st : Status} {aux result : Nat}

/-! ### Completions -/

theorem completed_complete (h : Answers s c op) (st : Status) (aux result : Nat) :
    Completed s (complete c op st aux result s) c op st aux result := by
  have hpost : complete c op st aux result s = postCompletion c op st aux result s := by
    rw [Answers] at h
    rw [complete]
    cases hc : c.fn with
    | f0 q => rw [hc] at h; exact if_pos h
    | part q => rw [hc] at h; exact if_neg (by rw [h]; exact Bool.false_ne_true)
  exact ⟨_, by rw [hpost, postCompletion_pending], List.mem_singleton_self _⟩

theorem RoundKeeps.completed (h : RoundKeeps p k s t) (g : Completed t u c op st aux result) : Completed s u c op st aux result := by
  obtain ⟨l, hl⟩ := h.cpl c.fn
  obtain ⟨m, hm, hmem⟩ := g
  exact ⟨l ++ m, by rw [hm, hl, List.append_assoc], List.mem_append_right l hmem⟩

theorem Completed.keeps (h : Completed s t c op st aux result) (g : RoundKeeps p k t u) : Completed s u c op st aux result := by
  obtain ⟨l, hl, hmem⟩ := h
  obtain ⟨m, hm⟩ := g.cpl c.fn
  exact ⟨l ++ m, by rw [hm, hl, List.append_assoc], List.mem_append_left m hmem⟩

theorem SlotKeeps.answers (h : SlotKeeps p s t) (ha : Answers s c op) : Answers t c op := by
  rw [Answers] at ha ⊢
  cases hc : c.fn with
  | f0 q => rw [hc] at ha; exact ha.trans h.managing.symm
  | part q =>
    rw [hc] at ha
    dsimp only at ha ⊢
    rw [Bool.eq_false_iff, ne_eq, List.contains_iff_mem] at ha ⊢
    exact fun hm => ha (h.mute q _ hm)

/-- What follows the checks of a command: its operations keep what they keep, and then it completes. -/
theorem RoundKeeps.thenCompletes (h : RoundKeeps p k s t) (hc : c.fn = .part p) (ha : Answers s c op) (st : Status)
    (aux result : Nat) : RoundKeeps p k s (complete c op st aux result t)
      ∧ Completed s (complete c op st aux result t) c op st aux result :=
  ⟨h.trans (roundKeeps_complete hc ..), h.completed (completed_complete (h.answers ha) ..)⟩

theorem FromPart.answers (h : FromPart s c p op) : Answers s c op := by
  obtain ⟨hc, _, hm⟩ := h
  rw [Answers, hc]
  exact hm

/-! ### Release writes without a fault -/

theorem SlotKeeps.keepsSlots (h : SlotKeeps p s t) : (t.part p).twin.keepsSlots = (s.part p).twin.keepsSlots := by
  obtain ⟨_, _, _, ht⟩ := h.twin
  rw [ht]; rfl

theorem SlotKeeps.agentWaitsAny (h : SlotKeeps p s t) (a : FaultAgent) :
    agentWaitsAny (t.part p).mem a = agentWaitsAny (s.part p).mem a := by
  obtain ⟨_, _, _, hm⟩ := h.mem
  rw [hm]; rfl

theorem releaseRange_ends {va len : Nat} (hkeep : (s.part p).twin.keepsSlots = false)
    (hwait : agentWaitsAny (s.part p).mem (.slot k) = false) (hat : writeFrom (s.ctx p k) va len = va)
    (hfault : firstFault s p va len 4 = none) (f : Nat → Nat → State → State) : releaseRange p k va len f s
      = (State.onCtx p k (fun c => { c with writeAt := none }) (f va (va + len) (noteWalks p .pcie va len s)), true) := by
  have hwalks := (roundKeeps_noteWalks p k .pcie va len s).firstFault hfault
  simp only [releaseRange, hkeep, hwait, hat, Nat.add_sub_cancel_left, hwalks, Bool.false_eq_true, if_false]

theorem bytes256_length (x : U256) : (Crypto.bytes256 x).length = 32 := by
  rw [Crypto.bytes256, beBytes, List.length_reverse, leBytes_length]

theorem SlotHeader.bytes_length (h : SlotHeader) : h.bytes.length = 64 := by
  simp [SlotHeader.bytes, leBytes_length, zeroBytes_length, bytes256_length]

theorem HeaderAt.keeps {va key : Nat} (h : HeaderAt s p k va key) (hk : SlotKeeps p s t)
    (hw : (t.ctx p k).writeAt = none ∨ (t.ctx p k).writeAt = (s.ctx p k).writeAt) : HeaderAt t p k va key := by
  obtain ⟨halign, htr, hwait, hkeep, hat⟩ := h
  refine ⟨halign, hk.translate htr, (hk.agentWaitsAny _).trans hwait, hk.keepsSlots.trans hkeep, ?_⟩
  rcases hw with hw | hw
  · rw [writeFrom, hw]
  · rw [writeFrom, hw]; exact hat

theorem HeaderAt.firstFault {va key : Nat} (h : HeaderAt s p k va key) : firstFault s p va 64 4 = none :=
  firstFault_onePage (by have := h.1; omega) h.2.1

/-- A header whose slot page is there is written to its end. -/
theorem writeHeader_ends {key : Nat} (h : HeaderAt s p k (s.ctx p k).slotVA key) : ∃ u, writeHeader p k s = (u, true)
    ∧ RoundKeeps p k s u ∧ u.ctx p k = { s.ctx p k with writeAt := none } := by
  have hfault := h.firstFault
  obtain ⟨_, _, hwait, hkeep, hat⟩ := h
  have hwrite := releaseRange_ends (len := (s.ctx p k).header.bytes.length) hkeep hwait
    (by rw [SlotHeader.bytes_length]; exact hat) (by rw [SlotHeader.bytes_length]; exact hfault)
  rw [writeHeader, releaseWrite, hwrite]
  refine ⟨_, rfl, ((roundKeeps_noteWalks ..).trans (roundKeeps_writeVA ..)).trans (roundKeeps_onCtx ..), ?_⟩
  rw [State.ctx_onCtx, ctx_of_parts (writeVA_parts ..), ctx_noteWalks]

/-- Then what its end brings follows at once; re-enactment may leave the slot alone, and goes on likewise (R268). -/
theorem tryHeader_ends {key : Nat} (h : HeaderAt s p k (s.ctx p k).slotVA key) (w : SlotWait) :
    ∃ u, tryHeader p k w s = headerDone p k w u ∧ RoundKeeps p k s u
      ∧ ∃ a b, u.ctx p k = { s.ctx p k with headerWait := a, writeAt := b } := by
  rw [tryHeader]
  split
  · exact ⟨s, rfl, .refl p k s, _, _, rfl⟩
  · have hset : RoundKeeps p k s (setWait p k w s) := roundKeeps_onCtx ..
    have hctx : (setWait p k w s).ctx p k = { s.ctx p k with headerWait := w } := State.ctx_onCtx ..
    have hat : HeaderAt (setWait p k w s) p k ((setWait p k w s).ctx p k).slotVA key := by
      rw [hctx]; exact h.keeps hset.toSlotKeeps (.inr (by rw [hctx]))
    obtain ⟨u, hu, hkeeps, huctx⟩ := writeHeader_ends hat
    rw [hu]
    exact ⟨u, rfl, hset.trans hkeeps, w, none, by rw [huctx, hctx]⟩

/-! ### What the end of a header's write brings -/

theorem roundKeeps_setWait (p : Part) (k : Ctx) (w : SlotWait) (s : State) : RoundKeeps p k s (setWait p k w s) := roundKeeps_onCtx ..

theorem setWait_mem (p : Part) (k : Ctx) (w : SlotWait) (s : State) : (setWait p k w s).mem = s.mem := rfl

@[simp] theorem ctx_setWait (p : Part) (k : Ctx) (w : SlotWait) (s : State) :
    (setWait p k w s).ctx p k = { s.ctx p k with headerWait := w } := State.ctx_onCtx ..

/-- The end of a failed finalize: the round is held and ROUND_FINALIZE completes. -/
theorem headerDone_failHeader (hcmd : (s.ctx p k).finCmd = some c) (hc : c.fn = .part p) (ha : Answers s c 0x13) (cause : HoldCause)
    (st : Status) : RoundKeeps p k s (headerDone p k (.failHeader cause st) s)
      ∧ (headerDone p k (.failHeader cause st) s).ctx p k = { (s.ctx p k).discarded with
          headerWait := .none, phase := .held, holdCause := cause, finCmd := none, lastStatus := st }
      ∧ Completed s (headerDone p k (.failHeader cause st) s) c 0x13 st 0 0 := by
  let v := holdRound p k cause (cancelNoise p k (State.onCtx p k RoundCtx.discarded (dropStaging p k (setWait p k .none s))))
  have hv : RoundKeeps p k s v := ((((roundKeeps_setWait ..).trans (roundKeeps_dropStaging ..)).trans (roundKeeps_onCtx ..)).trans
    (roundKeeps_cancelNoise ..)).trans (roundKeeps_holdRound ..)
  have hctx : v.ctx p k = { (s.ctx p k).discarded with headerWait := .none, phase := .held, holdCause := cause } := by
    simp only [v, ctx_holdRound, ctx_cancelNoise, State.ctx_onCtx, ctx_dropStaging, ctx_setWait]
    rfl
  have hdone : headerDone p k (.failHeader cause st) s
      = complete c 0x13 st 0 0 (State.onCtx p k (fun c => { c with finCmd := none, lastStatus := st }) v) :=
    finishFinalize_some (by rw [hctx]; exact hcmd) st 0
  obtain ⟨hkeeps, hcompleted⟩ := (hv.trans (roundKeeps_onCtx p k (fun c => { c with finCmd := none, lastStatus := st }) v)).thenCompletes
    hc ha st 0 0
  rw [hdone]
  exact ⟨hkeeps, by rw [ctx_complete, State.ctx_onCtx, hctx], hcompleted⟩

/-- The context of a finalize that fails with this status, as its EMPTY header goes out (R41). -/
def RoundCtx.failedWith (st : Status) (c : RoundCtx) : RoundCtx :=
  { c with
    header := c.header.next .empty st
    tal := { c.tal with cover := [], lastStatus := if c.tal.step = 7 then c.tal.lastStatus else st }
    release := {}, finStep := .idle }

/-- The state in which that header is written. -/
def failing (p : Part) (k : Ctx) (st : Status) (s : State) : State :=
  cancelNoise p k (State.onCtx p k (RoundCtx.failedWith st) (dropStaging p k s))

theorem failFinalize_eq (cause : HoldCause) (st : Status) (s : State) :
    failFinalize p k cause st s = tryHeader p k (.failHeader cause st) (failing p k st s) := rfl

theorem roundKeeps_failing (p : Part) (k : Ctx) (st : Status) (s : State) : RoundKeeps p k s (failing p k st s) :=
  ((roundKeeps_dropStaging ..).trans (roundKeeps_onCtx ..)).trans (roundKeeps_cancelNoise ..)

@[simp] theorem ctx_failing (p : Part) (k : Ctx) (st : Status) (s : State) :
    (failing p k st s).ctx p k = (s.ctx p k).failedWith st := by
  rw [failing, ctx_cancelNoise, State.ctx_onCtx, ctx_dropStaging]

/-- A finalize that fails while its header can be written: the round is held, its header EMPTY, and ROUND_FINALIZE completes. -/
theorem failFinalize_holds {key : Nat} (h : HeaderAt s p k (s.ctx p k).slotVA key) (hcmd : (s.ctx p k).finCmd = some c)
    (hc : c.fn = .part p) (ha : Answers s c 0x13) (cause : HoldCause) (st : Status) :
    RoundKeeps p k s (failFinalize p k cause st s) ∧ Completed s (failFinalize p k cause st s) c 0x13 st 0 0
      ∧ ∃ a, (failFinalize p k cause st s).ctx p k = { ((s.ctx p k).failedWith st).discarded with
          headerWait := .none, writeAt := a, phase := .held, holdCause := cause, finCmd := none, lastStatus := st } := by
  have hfail := roundKeeps_failing p k st s
  have hctx := ctx_failing p k st s
  have hat : HeaderAt (failing p k st s) p k ((failing p k st s).ctx p k).slotVA key := by
    rw [hctx]; exact h.keeps hfail.toSlotKeeps (.inr (by rw [hctx]; rfl))
  obtain ⟨u, hu, hwrite, w, a, huctx⟩ := tryHeader_ends hat (.failHeader cause st)
  have hto := hfail.trans hwrite
  obtain ⟨hdone, hdctx, hcpl⟩ := headerDone_failHeader (by rw [huctx, hctx]; exact hcmd) hc (hto.answers ha) cause st
  rw [failFinalize_eq, hu]
  exact ⟨hto.trans hdone, hto.completed hcpl, a, by rw [hdctx, huctx, hctx]; rfl⟩

end

end Sys2Proof.Machine
end

section
/-! PROOFS. The commands that name a round, the ends of a round, and the zeroing of a payload (R36, R43, R44, R358, R359). -/

namespace Sys2Proof.Machine
set_option Elab.async false

section
variable {p : Part} {k : Ctx} {s t u : State} {c : Cmd} {op : Nat}

/-! ### Commands that name a round -/

theorem partCommand_fromPart (h : FromPart s c p op) (body : Part → State → State) : partCommand c op true body s = body p s := by
  obtain ⟨hc, hphase, _⟩ := h
  refine partCommand_body c op p body s hc ?_ ?_ ?_ <;> rcases hphase with h | h | h <;> rw [h] <;> decide

theorem roundCommand_fromPart (h : FromPart s c p op) (hr : NotReplaying s p) (i : Instr) (body : Part → State → State) :
    roundCommand c op i body s = body p s := by
  rw [roundCommand, partCommand_fromPart h, if_neg (by rw [beq_iff_eq]; exact hr.1)]

theorem withRound_named {r : RoundRef} (h : NamesRound s p k r) (body : Ctx → State → State) : withRound p c op r body s = body k s := by
  obtain ⟨hk, hphase, hid⟩ := h
  have hlt : r.context.toNat < 4 := hk ▸ k.isLt
  have hctx : (⟨r.context.toNat, hlt⟩ : Ctx) = k := Fin.ext hk
  rw [withRound, dif_pos hlt]
  simp only [hctx, hid]
  exact if_neg (by rintro (h | h); exacts [hphase h, h rfl])

theorem NotReplaying.replaying (h : NotReplaying s p) : (s.part p).twin.replaying = false := by
  obtain ⟨hphase, hstatus⟩ := h
  rw [TwinState.replaying, Bool.or_eq_false_iff, beq_eq_false_iff_ne, beq_eq_false_iff_ne]
  exact ⟨hphase, hstatus⟩

theorem NotReplaying.beatOf (h : NotReplaying s p) : s.beatOf p = s.sys.beat := by
  rw [State.beatOf, h.replaying]; rfl

theorem NotReplaying.keepsSlots (h : NotReplaying s p) : (s.part p).twin.keepsSlots = false := by
  rw [TwinState.keepsSlots, h.replaying]; rfl

/-! ### Completions on any function -/

theorem slotKeeps_onPart_other {q : Part} (hq : q ≠ p) (f : PartState → PartState)
    (hm : ∀ e ∈ (f (s.part q)).twin.mute, e ∈ (s.part q).twin.mute) : SlotKeeps p s (s.onPart q f) := by
  have hpart := State.part_onPart_other s q p f hq.symm
  refine ⟨rfl, rfl, rfl, by rw [hpart], by rw [hpart], by rw [hpart], ⟨_, _, _, by rw [hpart]⟩, ⟨_, _, _, by rw [hpart]⟩,
    fun r e => ?_, fun _ => id⟩
  by_cases hr : r = q
  · subst hr; rw [State.part_onPart]; exact hm e
  · rw [State.part_onPart_other s q r f hr]; exact id

theorem slotKeeps_complete (p : Part) (c : Cmd) (op : Nat) (st : Status) (aux result : Nat) (s : State) :
    SlotKeeps p s (complete c op st aux result s) := by
  by_cases hc : c.fn = .part p
  · exact (roundKeeps_complete (k := 0) hc ..).toSlotKeeps
  · rcases complete_cases c op st aux result s with h | ⟨q, _, _, h⟩ | ⟨q, hq, _, h⟩ <;> rw [h]
    · rw [postCompletion]
      cases hfn : c.fn with
      | f0 q => exact (roundKeeps_onHif (k := 0) (fun _ h => Fn.noConfusion h) (fun _ => ⟨_, rfl⟩) s).toSlotKeeps
      | part q => exact slotKeeps_onPart_other (fun e => hc (by rw [hfn, e])) _ fun _ => id
    · exact .refl p s
    · exact slotKeeps_onPart_other (fun e => hc (by rw [hq, e])) _ fun _ => List.mem_of_mem_erase

/-- The ROUND_UNMASKs of a context that ends: their commands complete, and none is left. -/
theorem ctx_endUnmasks (p : Part) (k : Ctx) (st : Status) (s : State) : (∀ j, j ≠ k → (endUnmasks p k st s).ctx p j = s.ctx p j)
    ∧ ∃ m, m.queue = [] ∧ (endUnmasks p k st s).ctx p k = { s.ctx p k with masked := m } := by
  unfold endUnmasks
  extract_lets q v
  have hv (j : Ctx) : (forAll q (fun j => complete j.cmd 0x12 st 0 j.applied) v).ctx p j = v.ctx p j :=
    forAll_keeps (fun t => t.ctx p j = v.ctx p j) _ _ v rfl fun _ _ _ ht => (ctx_complete ..).trans ht
  exact ⟨fun j hj => (hv j).trans (State.ctx_onCtx_other s p k j _ hj), _, rfl, (hv k).trans (State.ctx_onCtx ..)⟩

theorem slotKeeps_endUnmasks (p : Part) (k : Ctx) (st : Status) (s : State) : SlotKeeps p s (endUnmasks p k st s) := by
  unfold endUnmasks
  extract_lets q v
  exact forAll_keeps (SlotKeeps p s) _ _ v (roundKeeps_onCtx ..).toSlotKeeps fun _ _ _ ht => ht.trans (slotKeeps_complete ..)

theorem roundKeeps_endUnmasks (h : ∀ j ∈ (s.ctx p k).masked.queue, j.cmd.fn = .part p) (st : Status) :
    RoundKeeps p k s (endUnmasks p k st s) := by
  unfold endUnmasks
  extract_lets q v
  exact (roundKeeps_onCtx ..).trans (.forAll (fun j hj _ => roundKeeps_complete (h j hj) ..) v)

theorem endUnmasks_mem (p : Part) (k : Ctx) (st : Status) (s : State) : (endUnmasks p k st s).mem = s.mem := by
  unfold endUnmasks
  extract_lets q v
  exact forAll_keeps (fun t => t.mem = s.mem) _ _ v rfl fun _ _ _ ht => (complete_mem ..).trans ht

theorem endOpen_keeps (p : Part) (k : Ctx) (st : Status) (s : State) : SlotKeeps p s (endOpen p k st s)
    ∧ (∀ j, j ≠ k → (endOpen p k st s).ctx p j = s.ctx p j)
    ∧ ∃ o, (endOpen p k st s).ctx p k = { s.ctx p k with openCmd := o } := by
  rw [endOpen]
  split
  · exact ⟨(roundKeeps_onCtx ..).toSlotKeeps.trans (slotKeeps_complete ..),
      fun j hj => (ctx_complete ..).trans (State.ctx_onCtx_other s p k j _ hj), none, (ctx_complete ..).trans (State.ctx_onCtx ..)⟩
  · exact ⟨.refl p s, fun _ _ => rfl, _, rfl⟩

/-! ### The end of a round -/

theorem roundKeeps_freeCtx (p : Part) (k : Ctx) (s : State) : RoundKeeps p k s (freeCtx p k s) :=
  ((roundKeeps_dropStaging ..).trans (roundKeeps_dropMessages ..)).trans (roundKeeps_onCtx ..)

@[simp] theorem ctx_freeCtx (p : Part) (k : Ctx) (s : State) : (freeCtx p k s).ctx p k
    = { ({} : RoundCtx) with keptSigner := some (signerId (s.ctx p k).policy.signerKey) } := by
  rw [freeCtx, State.ctx_onCtx, ctx_dropMessages, ctx_dropStaging]

/-- What ROUND_ABORT does before its EMPTY header: accumulator, staging and mode staging are zeros, the round's messages and its
draw are gone, and the context reads as FREE (R44). -/
def aborted (p : Part) (k : Ctx) (cmd : Option Cmd) (s : State) : State :=
  State.onCtx p k (fun c => { c.abortedAs with abortCmd := cmd }) (cancelNoise p k (dropMessages p k
    (forAll (tget (s.part p).rxt.poolSlots k.val []) (fun a => deviceZero p a ((s.ctx p k).policy.largestMsg (s.imageOf p).rings))
      (deviceZero p (accRange s p k).1 (accRange s p k).2 (dropStaging p k s)))))

theorem abortRound_eq (cmd : Option Cmd) : abortRound p k cmd s = tryHeader p k .abortHeader (aborted p k cmd s) := rfl

theorem roundKeeps_aborted (p : Part) (k : Ctx) (cmd : Option Cmd) (s : State) : RoundKeeps p k s (aborted p k cmd s) :=
  (((((roundKeeps_dropStaging ..).trans (roundKeeps_deviceZero ..)).trans
    (.forAll (fun _ _ _ => roundKeeps_deviceZero ..) _)).trans (roundKeeps_dropMessages ..)).trans (roundKeeps_cancelNoise ..)).trans
    (roundKeeps_onCtx ..)

theorem ctx_aborted (p : Part) (k : Ctx) (cmd : Option Cmd) (s : State) :
    (aborted p k cmd s).ctx p k = { (s.ctx p k).abortedAs with abortCmd := cmd } := by
  have hslots (l : List Nat) (n : Nat) (v : State) : (forAll l (fun a => deviceZero p a n) v).ctx p k = v.ctx p k :=
    forAll_keeps (fun t => t.ctx p k = v.ctx p k) _ _ v rfl fun _ _ _ ht => (ctx_of_parts (deviceZero_parts ..) ..).trans ht
  rw [aborted, State.ctx_onCtx, ctx_cancelNoise, ctx_dropMessages, hslots, ctx_of_parts (deviceZero_parts ..), ctx_dropStaging]

/-! ### Zeroing a range of partition addresses -/

theorem pieces_cover {fuel va len i : Nat} (hf : len + va % 2 ^ 16 ≤ fuel * 2 ^ 16) (hi : i < len) :
    ∃ x ∈ pieces fuel va len, x.1 ≤ va + i ∧ va + i < x.1 + x.2 ∧ x.1 % 2 ^ 16 + x.2 ≤ 2 ^ 16 := by
  induction fuel generalizing va len i with
  | zero => omega
  | succ fuel ih =>
    rw [pieces, if_neg (by omega)]
    extract_lets n
    by_cases hn : i < n
    · exact ⟨(va, n), List.mem_cons_self, by omega, by omega, by simp only [n]; omega⟩
    · obtain ⟨x, hx, h1, h2, h3⟩ := ih (va := va + n) (len := len - n) (i := i - n) (by simp only [n]; omega) (by omega)
      exact ⟨x, List.mem_cons_of_mem _ hx, by omega, by omega, h3⟩

theorem pageSplit_cover {va len i : Nat} (hi : i < len) :
    ∃ x ∈ pageSplit va len, x.1 ≤ va + i ∧ va + i < x.1 + x.2 ∧ x.1 % 2 ^ 16 + x.2 ≤ 2 ^ 16 := pieces_cover (by omega) hi

/-- Two addresses of one page have one index in the tables of every level (R199). -/
theorem div_levelShift_congr {a b : Nat} (h : a / 2 ^ 16 = b / 2 ^ 16) (level : Nat) :
    a / 2 ^ levelShift level = b / 2 ^ levelShift level := by
  obtain ⟨m, hm⟩ : ∃ m, levelShift level = 16 + m := by
    match level with
    | 0 => exact ⟨19, rfl⟩
    | 1 => exact ⟨14, rfl⟩
    | 2 => exact ⟨9, rfl⟩
    | 3 => exact ⟨0, rfl⟩
    | n + 4 => exact ⟨0, rfl⟩
  rw [hm, Nat.pow_add, ← Nat.div_div_eq_div_mul, ← Nat.div_div_eq_div_mul, h]

theorem entryBad_samePage {a b : Nat} (h : a / 2 ^ 16 = b / 2 ^ 16) : s.entryBad p a = s.entryBad p b := by
  have hline (level : Nat) : s.entryLine p a level = s.entryLine p b level := by
    rw [State.entryLine, State.entryLine, tableOf, tableOf, div_levelShift_congr h]
  rw [State.entryBad, State.entryBad, State.badLevel, State.badLevel]
  simp only [hline]

/-- A leaf that maps one address of a page maps every address of it: only an absent leaf covers less than a page (R201, R362). -/
theorem leafAt_samePage {a b : Nat} (h : a / 2 ^ 16 = b / 2 ^ 16) {e : U64} (hl : s.leafAt p a = some e) (ht : leafType e = 2) :
    s.leafAt p b = some e := by
  have habsent : some absentOwned ≠ some e := fun he => by rw [← Option.some.inj he] at ht; exact absurd ht (by decide)
  have h25 : a / 2 ^ 25 = b / 2 ^ 25 := by omega
  rw [State.leafAt, ← h, ← h25]
  rw [State.leafAt] at hl
  split at hl
  · exact hl
  · split at hl
    · exact hl
    · split at hl
      · exact absurd hl habsent
      · split at hl
        · split at hl
          · exact absurd hl habsent
          · exact nomatch hl
        · exact nomatch hl

theorem leafKey_add (e : U64) {a d : Nat} (h : a % 2 ^ 16 + d < 2 ^ 16) :
    s.leafKey p e (a + d) = (s.leafKey p e a).map (· + d) := by
  have h16 : (a + d) % 2 ^ 16 = a % 2 ^ 16 + d := by omega
  have h25 : (a + d) % 2 ^ 25 = a % 2 ^ 25 + d := by omega
  rw [State.leafKey, State.leafKey, h16, h25]
  split
  · split
    · simp only [Option.map_some, sramKey, Nat.add_assoc]
    · rfl
  · simp only [Option.map_some, dramKey]
    split <;> simp only [Nat.add_assoc]
  · simp only [Option.map_some, hostKey, Nat.add_assoc]

/-- Within a page, translation moves with the address. -/
theorem translate_add {a d perm key : Nat} (h : a % 2 ^ 16 + d < 2 ^ 16) (ht : s.translate p (a + d) perm = .ok key) :
    ∃ base, s.translate p a perm = .ok base ∧ key = base + d := by
  have hpage : (a + d) / 2 ^ 16 = a / 2 ^ 16 := by omega
  obtain ⟨hva, hb, e, hl, hm, htype, hperm, hkey⟩ := translate_eq_ok_iff.mp ht
  rw [leafKey_add e h, Option.map_eq_some_iff] at hkey
  obtain ⟨base, hbase, hkey⟩ := hkey
  have hlarge : s.largeAt p a = s.largeAt p (a + d) := by
    rw [State.largeAt, State.largeAt, show (a + d) / 2 ^ 25 = a / 2 ^ 25 by omega]
  exact ⟨base, translate_eq_ok_iff.mpr ⟨by omega, (entryBad_samePage hpage).symm.trans hb, e, leafAt_samePage hpage hl htype,
    by rw [hlarge, hm], htype, hperm, hbase⟩, hkey.symm⟩

theorem byteAt_congr (h : t.mem = s.mem) (a : Nat) : t.byteAt a = s.byteAt a := by
  rw [State.byteAt, h]; rfl

/-- A byte that is zero, or that the zeroing reaches, is zero after it. -/
theorem byteAt_zeroRange_zero {a n key : Nat} (h : s.byteAt key = 0) : (s.zeroRange a n).byteAt key = 0 := by
  by_cases hin : a ≤ key ∧ key < a + n
  · exact byteAt_zeroRange_inside s hin
  · rw [byteAt_zeroRange_outside s (by omega), h]

/-- Every byte of a range that translates reads zero once the range is zeroed (R44). -/
theorem byteAt_zeroVA {va len perm i key : Nat} (hi : i < len) (ht : s.translate p (va + i) perm = .ok key) :
    (zeroVA p va len perm s).byteAt key = 0 := by
  obtain ⟨x, hx, hle, hlt, hpage⟩ := pageSplit_cover (va := va) hi
  obtain ⟨d, hd⟩ := Nat.exists_eq_add_of_le hle
  rw [hd] at ht hlt
  obtain ⟨base, hbase, rfl⟩ := translate_add (by omega) ht
  obtain ⟨l, m, hsplit⟩ := List.append_of_mem hx
  rw [zeroVA, hsplit, List.foldl_append, List.foldl_cons]
  refine forAll_keeps (fun t => t.byteAt (base + d) = 0) m _ _ ?_ fun y _ t hzero => ?_
  · simp only [hbase]
    exact byteAt_zeroRange_inside _ ⟨by omega, by omega⟩
  · dsimp only
    split
    · exact byteAt_zeroRange_zero hzero
    · exact hzero

end

end Sys2Proof.Machine
end

section
/-! PROOFS. How a finalize is held, and how a round ends: ROUND_ABORT and RESULT_ACK (R36, R41, R43, R44, R148, R263). -/

namespace Sys2Proof.Machine
set_option Elab.async false

section
variable {p : Part} {k : Ctx} {s : State} {c : Cmd} {key : Nat}

/-! ### Holds of a finalize -/

theorem failFinalize_after {t : State} (hto : RoundKeeps p k s t) (hslot : (t.ctx p k).slotVA = (s.ctx p k).slotVA)
    (hat : (t.ctx p k).writeAt = (s.ctx p k).writeAt) (h : HeaderAt s p k (s.ctx p k).slotVA key)
    (hcmd : (t.ctx p k).finCmd = some c) (hc : c.fn = .part p) (ha : Answers s c 0x13) (cause : HoldCause) (st : Status) :
    RoundKeeps p k s (failFinalize p k cause st t) ∧ Completed s (failFinalize p k cause st t) c 0x13 st 0 0
      ∧ ∃ a, (failFinalize p k cause st t).ctx p k = { ((t.ctx p k).failedWith st).discarded with
          headerWait := .none, writeAt := a, phase := .held, holdCause := cause, finCmd := none, lastStatus := st } := by
  obtain ⟨hkeeps, hcpl, hctx⟩ := failFinalize_holds (hslot ▸ h.keeps hto.toSlotKeeps (.inr hat)) hcmd hc (hto.answers ha) cause st
  exact ⟨hto.trans hkeeps, hto.completed hcpl, hctx⟩

theorem execFinalizeDeadline_holds (hphase : (s.ctx p k).phase = .finalizing) (hcmd : (s.ctx p k).finCmd = some c)
    (hc : c.fn = .part p) (ha : Answers s c 0x13) (hlate : (s.ctx p k).finDeadline < s.beatOf p) (hstall : entropyStalled s p k = true)
    (h : HeaderAt s p k (s.ctx p k).slotVA key) :
    ∃ t, exec (.finalizeDeadline p k) s = .next t ∧ (t.ctx p k).phase = .held ∧ (t.ctx p k).holdCause = .entropy
      ∧ (t.ctx p k).header.state = .empty ∧ (t.ctx p k).finCmd = none ∧ OnlyContext p k s t
      ∧ Completed s t c 0x13 .entropyFail 0 0 := by
  have hexec : exec (.finalizeDeadline p k) s = .next (failFinalize p k .entropy .entropyFail s) := by
    change execFinalizeDeadline p k s = _
    rw [execFinalizeDeadline, decide_eq_true (by omega), when_true, finalizeDeadline, hphase, hstall, decide_eq_true (by omega)]
    rfl
  obtain ⟨hkeeps, hcpl, a, hctx⟩ := failFinalize_holds h hcmd hc ha .entropy .entropyFail
  exact ⟨_, hexec, by rw [hctx], by rw [hctx], by rw [hctx]; rfl, by rw [hctx], hkeeps.only, hcpl⟩

theorem execReleasePipelineDone_poisons (hphase : (s.ctx p k).phase = .finalizing) (hcmd : (s.ctx p k).finCmd = some c)
    (hc : c.fn = .part p) (ha : Answers s c 0x13) (hfin : (s.ctx p k).finStep = .pipeline) (hstep : (s.ctx p k).tal.step = 6)
    (hcount : 0 < countNonfinite s p k) (hpolicy : (s.ctx p k).policy.nonfiniteRelease = false)
    (h : HeaderAt s p k (s.ctx p k).slotVA key) :
    ∃ t, exec (.releasePipelineDone p k) s = .next t ∧ (t.ctx p k).phase = .held ∧ (t.ctx p k).holdCause = .poison
      ∧ roundPoisoned t p k = true ∧ (t.ctx p k).header.state = .empty ∧ (t.ctx p k).finCmd = none ∧ OnlyContext p k s t
      ∧ Completed s t c 0x13 .poisonedInput 0 0 := by
  let v := State.onCtx p k (fun c => { c with tal := { c.tal with nonfinite := min (countNonfinite s p k) 0xFFFFFFFF } }) s
  have hvctx : v.ctx p k = { s.ctx p k with tal := { (s.ctx p k).tal with nonfinite := min (countNonfinite s p k) 0xFFFFFFFF } } :=
    State.ctx_onCtx ..
  have hpctx : (poisonRound p k v).ctx p k = { v.ctx p k with tilesPoisoned := true } := ctx_poisonRound p k v
  have hexec : exec (.releasePipelineDone p k) s = .next (poisonRelease p k v) := by
    change execReleasePipelineDone p k s = _
    have hends : endPipeline p k (countNonfinite s p k) s = poisonRelease p k v :=
      if_pos (by rw [decide_eq_true hcount, State.ctx_onCtx, hpolicy]; rfl)
    simp only [execReleasePipelineDone, hphase, hfin, hstep, hends, bne_self_eq_false, Bool.or_self, Bool.false_eq_true, if_false]
  have hto : RoundKeeps p k s (poisonRound p k v) := (roundKeeps_onCtx ..).trans (roundKeeps_poisonRound ..)
  obtain ⟨hkeeps, hcpl, a, hctx⟩ := failFinalize_after hto (by rw [hpctx, hvctx]) (by rw [hpctx, hvctx]) h (by rw [hpctx, hvctx]; exact hcmd)
    hc ha .poison .poisonedInput
  exact ⟨_, hexec, by rw [poisonRelease, hctx], by rw [poisonRelease, hctx],
    by rw [poisonRelease, roundPoisoned, hctx, hpctx]; rfl, by rw [poisonRelease, hctx]; rfl, by rw [poisonRelease, hctx], hkeeps.only, hcpl⟩

theorem record_mem (r : BufRec) (s : State) : (record r s).mem = s.mem := rfl

theorem post_mem (fn : Fn) (cls : EventClass) (st : Status) (sev : Severity) (source : Nat) (det : U64) (s : State) :
    (post fn cls st sev source det s).mem = s.mem := by
  rw [post, record_mem, State.onHif_mem]

theorem holdRound_mem (p : Part) (k : Ctx) (cause : HoldCause) (s : State) : (holdRound p k cause s).mem = s.mem := by
  unfold holdRound
  extract_lets c s'
  split
  · rfl
  · exact post_mem ..

theorem holdAbsent_holds (hcmd : (s.ctx p k).finCmd = some c) (hc : c.fn = .part p) (ha : Answers s c 0x13) :
    ((holdAbsent p k s).ctx p k).phase = .held ∧ ((holdAbsent p k s).ctx p k).holdCause = .twinAbsent
      ∧ OnlyContext p k s (holdAbsent p k s) ∧ (holdAbsent p k s).mem = s.mem
      ∧ Completed s (holdAbsent p k s) c 0x13 .twinAbsent 0 0 := by
  have hcmd' : ((holdRound p k .twinAbsent s).ctx p k).finCmd = some c := by rw [ctx_holdRound]; exact hcmd
  have hto : RoundKeeps p k s (State.onCtx p k (fun c => { c with finCmd := none, lastStatus := .twinAbsent })
    (holdRound p k .twinAbsent s)) := (roundKeeps_holdRound ..).trans (roundKeeps_onCtx ..)
  obtain ⟨hkeeps, hcpl⟩ := hto.thenCompletes hc ha .twinAbsent 0 0
  rw [holdAbsent, finishFinalize_some hcmd']
  exact ⟨by rw [ctx_complete, State.ctx_onCtx, ctx_holdRound], by rw [ctx_complete, State.ctx_onCtx, ctx_holdRound], hkeeps.only,
    by rw [complete_mem, State.onCtx_mem, holdRound_mem], hcpl⟩

theorem execTwinReleaseTimeout_eq {b : Nat} (hphase : (s.ctx p k).phase = .finalizing) (hfin : (s.ctx p k).finStep = .waitTwin)
    (hsent : (s.ctx p k).fpSentAt = some b) (hb : b + 64 ≤ s.sys.beat) :
    exec (.twinReleaseTimeout p k) s = .next (holdAbsent p k s) := by
  change execTwinReleaseTimeout p k s = _
  simp only [execTwinReleaseTimeout, hphase, hfin, hsent, decide_eq_true hb]
  rfl

theorem execTwinNoiseTimeout_eq {b : Nat} (hphase : (s.ctx p k).phase = .finalizing) (hfin : (s.ctx p k).finStep = .waitNoise)
    (hsent : (s.ctx p k).noiseSentAt = some b) (hb : b + 64 ≤ s.sys.beat) :
    exec (.twinNoiseTimeout p k) s = .next (holdAbsent p k s) := by
  change execTwinNoiseTimeout p k s = _
  simp only [execTwinNoiseTimeout, hphase, hfin, hsent, decide_eq_true hb]
  rfl

/-! ### ROUND_ABORT (R44) -/

theorem abortCommand_named {r : RoundRef} (h : NamesRound s p k r) (hphase : (s.ctx p k).phase = .opened ∨ (s.ctx p k).phase = .closing
    ∨ (s.ctx p k).phase = .closed ∨ (s.ctx p k).phase = .held) :
    abortCommand c r p s = abortRound p k (some c) (endOpen p k .ok (endUnmasks p k .invalidState s)) := by
  rw [abortCommand, withRound_named h]
  rcases hphase with hp | hp | hp | hp <;> rw [hp]

theorem execRoundAbort_frees {r : RoundRef} (hf : FromPart s c p 0x14) (hr : NotReplaying s p) (hn : NamesRound s p k r)
    (hphase : (s.ctx p k).phase = .opened ∨ (s.ctx p k).phase = .closing ∨ (s.ctx p k).phase = .closed ∨ (s.ctx p k).phase = .held)
    (h : HeaderAt s p k (s.ctx p k).slotVA key) :
    ∃ t, exec (.roundAbort c r) s = .next t ∧ (t.ctx p k).phase = .free ∧ (t.ctx p k).aborting = true
      ∧ (t.ctx p k).bitmap = [] ∧ (t.ctx p k).header.state = .empty ∧ (t.ctx p k).headerWait = .none
      ∧ (t.ctx p k).abortCmd = some c ∧ ∀ j, j ≠ k → t.ctx p j = s.ctx p j := by
  have hexec : exec (.roundAbort c r) s
      = .next (abortRound p k (some c) (endOpen p k .ok (endUnmasks p k .invalidState s))) := by
    change execRoundAbort c r s = _
    rw [execRoundAbort, roundCommand_fromPart hf hr, abortCommand_named hn hphase]
  obtain ⟨humask, m, _, hm⟩ := ctx_endUnmasks p k .invalidState s
  obtain ⟨hopen, homit, o, ho⟩ := endOpen_keeps p k .ok (endUnmasks p k .invalidState s)
  rw [hm] at ho
  generalize endOpen p k .ok (endUnmasks p k .invalidState s) = v at hexec hopen homit ho
  have hslot : SlotKeeps p s (aborted p k (some c) v) :=
    ((slotKeeps_endUnmasks ..).trans hopen).trans (roundKeeps_aborted ..).toSlotKeeps
  have hctx : (aborted p k (some c) v).ctx p k = { (v.ctx p k).abortedAs with abortCmd := some c } := ctx_aborted ..
  have hva : ((aborted p k (some c) v).ctx p k).slotVA = (s.ctx p k).slotVA := by rw [hctx, ho]; rfl
  have hat : HeaderAt (aborted p k (some c) v) p k ((aborted p k (some c) v).ctx p k).slotVA key := by
    rw [hva]; exact h.keeps hslot (.inl (by rw [hctx]; rfl))
  obtain ⟨u, hu, hwrite, w, a, huctx⟩ := tryHeader_ends hat .abortHeader
  have hend : headerDone p k .abortHeader u = setWait p k .none u := rfl
  have hto : RoundKeeps p k v (setWait p k .none u) := ((roundKeeps_aborted ..).trans hwrite).trans (roundKeeps_setWait ..)
  rw [abortRound_eq, hu, hend] at hexec
  have hfinal : (setWait p k .none u).ctx p k
      = { (v.ctx p k).abortedAs with abortCmd := some c, headerWait := .none, writeAt := a } := by rw [ctx_setWait, huctx, hctx]
  exact ⟨_, hexec, by rw [hfinal]; rfl, by rw [hfinal]; rfl, by rw [hfinal]; rfl, by rw [hfinal]; rfl, by rw [hfinal], by rw [hfinal],
    fun j hj => by rw [hto.only.1 j hj, homit j hj, humask j hj]⟩

theorem execAbortZeroingComplete_completes (hab : (s.ctx p k).aborting = true) (hw : (s.ctx p k).headerWait = .none)
    (hcmd : (s.ctx p k).abortCmd = some c) (hc : c.fn = .part p) (ha : Answers s c 0x14) :
    ∃ t, exec (.abortZeroingComplete p k) s = .next t
      ∧ t.ctx p k = { ({} : RoundCtx) with keptSigner := (s.ctx p k).keptSigner } ∧ OnlyContext p k s t ∧ t.mem = s.mem
      ∧ Completed s t c 0x14 .ok 0 0 := by
  let v := State.onCtx p k (fun c => { ({} : RoundCtx) with keptSigner := c.keptSigner }) s
  have hexec : exec (.abortZeroingComplete p k) s = .next (done c 0x14 .ok v) := by
    change execAbortZeroingComplete p k s = _
    simp only [execAbortZeroingComplete, hab, hw, hcmd]
    rfl
  obtain ⟨hkeeps, hcpl⟩ := (roundKeeps_onCtx p k _ s : RoundKeeps p k s v).thenCompletes hc ha .ok 0 0
  exact ⟨_, hexec, by rw [done, ctx_complete, State.ctx_onCtx], hkeeps.only, by rw [done, complete_mem, State.onCtx_mem], hcpl⟩

/-! ### RESULT_ACK (R43) -/

theorem tryAckZero_ends (hkeep : (s.part p).twin.keepsSlots = false) (hwait : agentWaitsAny (s.part p).mem (.slot k) = false)
    (hat : writeFrom (s.ctx p k) ((s.ctx p k).slotVA + 64) (s.ctx p k).header.length = (s.ctx p k).slotVA + 64)
    (hfault : firstFault s p ((s.ctx p k).slotVA + 64) (s.ctx p k).header.length 4 = none) :
    RoundKeeps p k s (tryAckZero p k s)
      ∧ (tryAckZero p k s).ctx p k = { s.ctx p k with headerWait := .none, writeAt := none }
      ∧ ∀ i key, i < (s.ctx p k).header.length → s.translate p ((s.ctx p k).slotVA + 64 + i) 4 = .ok key →
          (tryAckZero p k s).byteAt key = 0 := by
  let va := (s.ctx p k).slotVA + 64
  let len := (s.ctx p k).header.length
  let v := setWait p k .ackPayload s
  have hset : RoundKeeps p k s v := roundKeeps_setWait ..
  have hvctx : v.ctx p k = { s.ctx p k with headerWait := .ackPayload } := ctx_setWait ..
  have hzero : releaseZero p k va len v
      = (State.onCtx p k (fun c => { c with writeAt := none }) (zeroVA p va (va + len - va) 4 (noteWalks p .pcie va len v)), true) :=
    releaseRange_ends (hset.toSlotKeeps.keepsSlots.trans hkeep) ((hset.toSlotKeeps.agentWaitsAny _).trans hwait) (by rw [hvctx]; exact hat)
      (hset.toSlotKeeps.firstFault hfault) _
  have hack : tryAckZero p k s = setWait p k .none (State.onCtx p k (fun c => { c with writeAt := none })
      (zeroVA p va len 4 (noteWalks p .pcie va len v))) := by
    rw [tryAckZero, hzero, Nat.add_sub_cancel_left]
  have hwalks : RoundKeeps p k s (noteWalks p .pcie va len v) := hset.trans (roundKeeps_noteWalks ..)
  rw [hack]
  refine ⟨((hwalks.trans (roundKeeps_zeroVA ..)).trans (roundKeeps_onCtx ..)).trans (roundKeeps_setWait ..), ?_, fun i key hi ht => ?_⟩
  · rw [ctx_setWait, State.ctx_onCtx, ctx_of_parts (zeroVA_parts ..), ctx_noteWalks, hvctx]
  · rw [byteAt_congr (setWait_mem ..), byteAt_congr (State.onCtx_mem ..)]
    exact byteAt_zeroVA hi (hwalks.toSlotKeeps.translate ht)

theorem execResultAck_zeroes {r : RoundRef} (hf : FromPart s c p 0x15) (hr : NotReplaying s p) (hn : NamesRound s p k r)
    (hphase : (s.ctx p k).phase = .released) (hacking : (s.ctx p k).acking = false)
    (hwait : agentWaitsAny (s.part p).mem (.slot k) = false)
    (hat : writeFrom (s.ctx p k) ((s.ctx p k).slotVA + 64) (s.ctx p k).header.length = (s.ctx p k).slotVA + 64)
    (hfault : firstFault s p ((s.ctx p k).slotVA + 64) (s.ctx p k).header.length 4 = none) :
    ∃ t, exec (.resultAck c r) s = .next t ∧ (t.ctx p k).phase = .released ∧ (t.ctx p k).acking = true
      ∧ (t.ctx p k).ackCmd = some c ∧ (t.ctx p k).headerWait = .none ∧ OnlyContext p k s t
      ∧ ∀ i key, i < (s.ctx p k).header.length → s.translate p ((s.ctx p k).slotVA + 64 + i) 4 = .ok key → t.byteAt key = 0 := by
  let v := State.onCtx p k (fun x => { x with acking := true, ackCmd := some c }) s
  have hexec : exec (.resultAck c r) s = .next (tryAckZero p k v) := by
    change execResultAck c r s = _
    rw [execResultAck, roundCommand_fromPart hf hr, ackCommand, withRound_named hn, hphase, hacking]
    rfl
  have hv : RoundKeeps p k s v := roundKeeps_onCtx ..
  have hvctx : v.ctx p k = { s.ctx p k with acking := true, ackCmd := some c } := State.ctx_onCtx ..
  obtain ⟨hkeeps, hctx, hzero⟩ := tryAckZero_ends (hv.toSlotKeeps.keepsSlots.trans hr.keepsSlots)
    ((hv.toSlotKeeps.agentWaitsAny _).trans hwait) (by rw [hvctx]; exact hat) (by rw [hvctx]; exact hv.toSlotKeeps.firstFault hfault)
  rw [hvctx] at hctx hzero
  exact ⟨_, hexec, by rw [hctx]; exact hphase, by rw [hctx], by rw [hctx], by rw [hctx], (hv.trans hkeeps).only,
    fun i key hi ht => hzero i key hi (hv.toSlotKeeps.translate ht)⟩

theorem execResultAckComplete_frees (hphase : (s.ctx p k).phase = .released) (hacking : (s.ctx p k).acking = true)
    (hw : (s.ctx p k).headerWait = .none) (hcmd : (s.ctx p k).ackCmd = some c) (ha : Answers s c 0x15)
    (h : HeaderAt s p k (s.ctx p k).slotVA key) :
    ∃ t, exec (.resultAckComplete p k) s = .next t
      ∧ t.ctx p k = { ({} : RoundCtx) with keptSigner := some (s.ctx p k).policy.signer } ∧ Completed s t c 0x15 .ok 0 0
      ∧ ∀ j, j ≠ k → t.ctx p j = s.ctx p j := by
  let v := State.onCtx p k (fun c => { c with header := { c.header with state := .retired, gen := (c.header.gen + 1) % 2 ^ 32 } }) s
  have hexec : exec (.resultAckComplete p k) s = .next (tryHeader p k .ackHeader v) := by
    change execResultAckComplete p k s = _
    rw [execResultAckComplete, hphase, hacking, hw]
    rfl
  have hv : RoundKeeps p k s v := roundKeeps_onCtx ..
  have hvctx : v.ctx p k = { s.ctx p k with header := { (s.ctx p k).header with
    state := .retired, gen := ((s.ctx p k).header.gen + 1) % 2 ^ 32 } } := State.ctx_onCtx ..
  have hat : HeaderAt v p k (v.ctx p k).slotVA key := by
    rw [hvctx]; exact h.keeps hv.toSlotKeeps (.inr (by rw [hvctx]))
  obtain ⟨u, hu, hwrite, w, a, huctx⟩ := tryHeader_ends hat .ackHeader
  have hsctx : (setWait p k .none u).ctx p k = { u.ctx p k with headerWait := .none } := ctx_setWait ..
  have hend : headerDone p k .ackHeader u = done c 0x15 .ok (freeCtx p k (setWait p k .none u)) := by
    have hack : ((setWait p k .none u).ctx p k).ackCmd = some c := by rw [hsctx, huctx, hvctx]; exact hcmd
    simp only [headerDone, hack]
  have hto : RoundKeeps p k s (freeCtx p k (setWait p k .none u)) :=
    ((hv.trans hwrite).trans (roundKeeps_setWait ..)).trans (roundKeeps_freeCtx ..)
  rw [hu, hend, done] at hexec
  refine ⟨_, hexec, ?_, hto.completed (completed_complete (hto.answers ha) ..), fun j hj => ?_⟩
  · rw [ctx_complete, ctx_freeCtx, hsctx, huctx, hvctx]; rfl
  · rw [ctx_complete, hto.only.1 j hj]

end

end Sys2Proof.Machine

open Sys2Proof Sys2Proof.Machine

/-- Settles O19: a failed finalize ends in one header write and one hold, ROUND_ABORT empties the context before its header, and
RESULT_ACK zeroes every translated byte of the payload. -/
theorem releaseFailsAndRoundsEnd : Obligations.ReleaseFailsAndRoundsEnd := by
  refine ⟨fun s p k c hphase hcmd hc ha => ⟨fun key hlate hstall h => execFinalizeDeadline_holds hphase hcmd hc ha hlate hstall h,
    fun key hfin hstep hn hpol h => execReleasePipelineDone_poisons hphase hcmd hc ha hfin hstep hn hpol h,
    fun b hfin hsent hb => ⟨_, execTwinReleaseTimeout_eq hphase hfin hsent hb, holdAbsent_holds hcmd hc ha⟩,
    fun b hfin hsent hb => ⟨_, execTwinNoiseTimeout_eq hphase hfin hsent hb, holdAbsent_holds hcmd hc ha⟩⟩,
    fun s c p k r key hf hr hn hphase h => execRoundAbort_frees hf hr hn hphase h,
    fun s p k c hab hw hcmd hc ha => execAbortZeroingComplete_completes hab hw hcmd hc ha,
    fun s c p k r hf hr hn hphase hacking hwait hat hfault => execResultAck_zeroes hf hr hn hphase hacking hwait hat hfault,
    fun s p k c key hphase hacking hw hcmd ha h => execResultAckComplete_frees hphase hacking hw hcmd ha h⟩
end

section
/-! PROOFS. A release whose PAYLOAD_LEN is not its payload's length: what O18's clause on the slot write leaves open (R40, R43, R149). -/

namespace Sys2Proof.Machine
set_option Elab.async false

/-- The ROUND_FINALIZE of the counterexample. -/
def shortCmd : Cmd := ⟨.part 0, 0⟩

/-- A context that writes its slot: the policy's one element makes a payload of 64 bytes, PAYLOAD_LEN says 0. The slot's header ends
at the end of page 0. -/
def shortCtx : RoundCtx :=
  { phase := .finalizing, finStep := .writing, finCmd := some shortCmd, slotVA := 0xFFC0, policy := { stretchLen := 1 } }

/-- That context in a partition whose page 0 is mapped for release writes, and no other page. -/
def shortState : State :=
  State.onCtx 0 0 (fun _ => shortCtx) (State.onMem 0 (fun m => { m with leaves := [(0, dramLeaf 0 0 false 0x10)] }) State.reset)

theorem shortState_ctx : shortState.ctx 0 0 = shortCtx := State.ctx_onCtx ..

theorem shortState_headerAt : HeaderAt shortState 0 0 0xFFC0 (dramKey 0 0xFFC0) := by
  refine ⟨rfl, rfl, rfl, rfl, rfl⟩

theorem shortState_answers : Answers shortState shortCmd 0x13 := rfl

/-- The payload's first page faults, so the write waits and the round is not RELEASED. -/
theorem shortState_waits : ((tryPayload 0 0 shortState).ctx 0 0).phase = .finalizing := rfl

theorem exec_slotWriteComplete_short : exec (.slotWriteComplete 0 0) shortState = .next (tryPayload 0 0 shortState) := by
  change execSlotWriteComplete 0 0 shortState = _
  rw [execSlotWriteComplete, shortState_ctx]
  rfl

end Sys2Proof.Machine

open Sys2Proof Sys2Proof.Machine

/-- Refutes O18: in the clause on the slot write nothing ties PAYLOAD_LEN, whose pages are mapped, to the payload that is written. A
context that says 0 and has 64 bytes to write faults on them, and its round stays in FINALIZING. -/
theorem not_releaseIsFormedAndWritten : ¬ Obligations.ReleaseIsFormedAndWritten := by
  rintro ⟨_, _, hwrite, _⟩
  have hheader : HeaderAt shortState 0 0 (shortState.ctx 0 0).slotVA (dramKey 0 0xFFC0) := by
    rw [shortState_ctx]; exact shortState_headerAt
  obtain ⟨t, hexec, hreleased, _⟩ := hwrite shortState 0 0 shortCmd (dramKey 0 0xFFC0) (by rw [shortState_ctx]; rfl)
    (by rw [shortState_ctx]; rfl) (by rw [shortState_ctx]; rfl) (by rw [shortState_ctx]; rfl) rfl shortState_answers hheader
    rfl (by rw [shortState_ctx]; rfl)
  obtain rfl := Host.Outcome.next.inj (exec_slotWriteComplete_short.symm.trans hexec)
  exact absurd (shortState_waits.symm.trans hreleased) (by decide)
end

section
/-! PROOFS. ROUND_OPEN, the end of admission, and the end of close work (R29, R30, R31, R36, R45, R59). -/

namespace Sys2Proof.Machine
set_option Elab.async false

section
variable {p : Part} {k : Ctx} {s : State} {c : Cmd}

/-! ### ROUND_OPEN -/

theorem execRoundOpen_claims {s1 : State} {pv sv sb ob : U64} {b : Bytes} {o : OpenClaim} (hf : FromPart s c p 0x10)
    (hr : NotReplaying s p) (hphase : (s.part p).phase = .loaded) (himage : (s.part p).img.image ≠ none) (htest : testHolds s p = false)
    (hread : readOperand p pv.toNat policyBytes s = (s1, .ok b)) (hslot : slotFault s1 p sv.toNat sb.toNat = none)
    (hchecks : openChecks (judgeSigner p b s1) p c b sv.toNat sb.toNat ob.toNat = .ok (k, o)) :
    exec (.roundOpen c pv sv sb ob) s
      = .next (State.onCtx p k (fun x => { x with claim := some o, keptSigner := none }) (judgeSigner p b s1)) := by
  change execRoundOpen c pv sv sb ob s = _
  rw [execRoundOpen, roundCommand_fromPart hf hr, openRound, if_neg (by rw [htest]; exact Bool.false_ne_true),
    if_neg (by rintro (h | h); exacts [h hphase, himage h])]
  simp only [hread, hslot, hchecks]

theorem headerDone_openHeader (hcmd : (s.ctx p k).openCmd = some c) (hc : c.fn = .part p) (ha : Answers s c 0x10) :
    RoundKeeps p k s (headerDone p k .openHeader s)
      ∧ (headerDone p k .openHeader s).ctx p k = { s.ctx p k with headerWait := .none, openCmd := none }
      ∧ Completed s (headerDone p k .openHeader s) c 0x10 .ok k.val (s.ctx p k).openBeat := by
  have hctx : (setWait p k .none s).ctx p k = { s.ctx p k with headerWait := .none } := ctx_setWait ..
  have hdone : headerDone p k .openHeader s = complete c 0x10 .ok k.val (s.ctx p k).openBeat
      (State.onCtx p k (fun c => { c with openCmd := none }) (setWait p k .none s)) := by
    simp only [headerDone, hctx, hcmd]
  obtain ⟨hkeeps, hcpl⟩ := ((roundKeeps_setWait p k .none s).trans
    (roundKeeps_onCtx p k (fun c => { c with openCmd := none }) _)).thenCompletes hc ha .ok k.val (s.ctx p k).openBeat
  rw [hdone]
  exact ⟨hkeeps, by rw [ctx_complete, State.ctx_onCtx, hctx], hcpl⟩

/-- The state in which a round that opens writes its EMPTY header. -/
def opening (p : Part) (k : Ctx) (o : OpenClaim) (s : State) : State :=
  let v := when o.claimsEntry (ledgerCreate o.policy.signer) s
  let w := State.onCtx p k (fun _ => openedCtx (v.imageOf p) o) v
  deviceZero p (accRange w p k).1 (accRange w p k).2 w

theorem opening_keeps (o : OpenClaim) (s : State) : RoundKeeps p k s (opening p k o s)
    ∧ ∃ i, (opening p k o s).ctx p k = openedCtx i o := by
  unfold opening
  extract_lets v w
  have hv : RoundKeeps p k s v := .when (roundKeeps_ledgerCreate _ s)
  have hw : RoundKeeps p k s w := hv.trans (roundKeeps_onCtx ..)
  exact ⟨hw.trans (roundKeeps_deviceZero ..), v.imageOf p, (ctx_of_parts (deviceZero_parts ..) ..).trans (State.ctx_onCtx ..)⟩

theorem execRoundOpenEffect_eq {o : OpenClaim} (hclaim : (s.ctx p k).claim = some o) (hbeat : o.openBeat ≤ s.beatOf p)
    (hphase : (s.part p).phase = .loaded) :
    exec (.roundOpenEffect p k) s = .next (tryHeader p k .openHeader (opening p k o s)) := by
  change execRoundOpenEffect p k s = _
  simp only [execRoundOpenEffect, openEffect, hclaim, if_neg (Nat.not_lt.mpr hbeat), hphase, ne_eq, not_true_eq_false, if_false,
    reduceCtorEq]
  rfl

theorem execRoundOpenEffect_opens {o : OpenClaim} {key : Nat} (hclaim : (s.ctx p k).claim = some o) (hbeat : o.openBeat ≤ s.beatOf p)
    (hphase : (s.part p).phase = .loaded) (h : HeaderAt s p k o.slotVA key) (hc : o.cmd.fn = .part p) (ha : Answers s o.cmd 0x10) :
    ∃ t, exec (.roundOpenEffect p k) s = .next t ∧ (t.ctx p k).phase = .opened ∧ (t.ctx p k).policy = o.policy
      ∧ (t.ctx p k).openBeat = o.openBeat ∧ (t.ctx p k).lastBeat = o.openBeat + o.policy.deadlineBeats - 1
      ∧ (t.ctx p k).admitted = 0 ∧ (t.ctx p k).duplicates = 0 ∧ (t.ctx p k).late = 0 ∧ (t.ctx p k).bitmap = []
      ∧ (t.ctx p k).header.state = .empty ∧ (t.ctx p k).header.roundId = o.policy.roundId ∧ (t.ctx p k).claim = none
      ∧ OnlyContext p k s t ∧ Completed s t o.cmd 0x10 .ok k.val o.openBeat := by
  have hexec := execRoundOpenEffect_eq hclaim hbeat hphase
  obtain ⟨hopen, i, hctx⟩ := opening_keeps (p := p) (k := k) o s
  generalize opening p k o s = v at hexec hopen hctx
  have hat : HeaderAt v p k (v.ctx p k).slotVA key := by
    rw [hctx]; exact h.keeps hopen.toSlotKeeps (.inl (by rw [hctx]; rfl))
  obtain ⟨u, hu, hwrite, w, a, huctx⟩ := tryHeader_ends hat .openHeader
  rw [hctx] at huctx
  have hto := hopen.trans hwrite
  obtain ⟨hdone, hdctx, hcpl⟩ := headerDone_openHeader (by rw [huctx]; rfl) hc (hto.answers ha)
  rw [huctx] at hdctx hcpl
  rw [hu] at hexec
  exact ⟨_, hexec, by rw [hdctx]; rfl, by rw [hdctx]; rfl, by rw [hdctx]; rfl, by rw [hdctx]; rfl, by rw [hdctx]; rfl, by rw [hdctx]; rfl,
    by rw [hdctx]; rfl, by rw [hdctx]; rfl, by rw [hdctx]; rfl, by rw [hdctx]; rfl, by rw [hdctx]; rfl, (hto.trans hdone).only,
    hto.completed hcpl⟩

/-! ### The end of admission -/

/-- An operation on one context that leaves its phase and its last beat. -/
structure Admits (p : Part) (k : Ctx) (s t : State) : Prop where
  keeps : RoundKeeps p k s t
  phase : (t.ctx p k).phase = (s.ctx p k).phase
  lastBeat : (t.ctx p k).lastBeat = (s.ctx p k).lastBeat

theorem Admits.refl (p : Part) (k : Ctx) (s : State) : Admits p k s s := ⟨.refl p k s, rfl, rfl⟩

theorem Admits.trans {t u : State} (h : Admits p k s t) (g : Admits p k t u) : Admits p k s u :=
  ⟨h.keeps.trans g.keeps, g.phase.trans h.phase, g.lastBeat.trans h.lastBeat⟩

theorem admits_onCtx (f : RoundCtx → RoundCtx) (hphase : ∀ c, (f c).phase = c.phase) (hlast : ∀ c, (f c).lastBeat = c.lastBeat)
    (s : State) : Admits p k s (State.onCtx p k f s) :=
  ⟨roundKeeps_onCtx .., by rw [State.ctx_onCtx, hphase], by rw [State.ctx_onCtx, hlast]⟩

theorem admits_deviceWrite (va : Nat) (b : Bytes) (s : State) : Admits p k s (deviceWrite p va b s) :=
  ⟨roundKeeps_deviceWrite .., by rw [ctx_of_parts (deviceWrite_parts ..)], by rw [ctx_of_parts (deviceWrite_parts ..)]⟩

theorem admits_classifyRound (p : Part) (k : Ctx) (s : State) : Admits p k s (classifyRound p k s) := by
  refine admits_onCtx _ (fun c => ?_) (fun c => ?_) s
  · split <;> rfl
  · split <;> rfl

theorem admits_sumHeaders (p : Part) (k : Ctx) (s : State) : Admits p k s (sumHeaders p k s) := by
  unfold sumHeaders
  extract_lets c q
  split
  · exact .refl p k s
  · extract_lets heads v
    have hv : Admits p k s v := forAll_keeps (Admits p k s) _ _ s (.refl p k s) fun _ _ _ ht => ht.trans (admits_deviceWrite ..)
    refine hv.trans (admits_onCtx _ (fun _ => ?_) (fun _ => ?_) v)
    · rfl
    · rfl

theorem admits_endAdmission (p : Part) (k : Ctx) (s : State) : Admits p k s (endAdmission p k s) := by
  unfold endAdmission
  extract_lets c v
  split
  · have hv : Admits p k s v := admits_onCtx (fun c => { c with stampsDone := true }) (fun _ => rfl) (fun _ => rfl) s
    exact hv.trans ((when_keeps (Admits p k v) _ _ v (.refl p k v) (admits_sumHeaders p k v)).trans (admits_classifyRound ..))
  · exact .refl p k s

theorem enterClosing_closes (p : Part) (k : Ctx) (s : State) : RoundKeeps p k s (enterClosing p k s)
    ∧ ((enterClosing p k s).ctx p k).phase = .closing ∧ ((enterClosing p k s).ctx p k).lastBeat = (s.ctx p k).lastBeat := by
  have h := admits_endAdmission p k (State.onCtx p k (fun c => { c with phase := .closing }) s)
  exact ⟨(roundKeeps_onCtx ..).trans h.keeps, h.phase.trans (by rw [State.ctx_onCtx]), h.lastBeat.trans (by rw [State.ctx_onCtx])⟩

/-- Admission ends with its last beat cut to a given one. -/
theorem enterClosing_cut (b : Nat) (s : State) :
    let t := enterClosing p k (State.onCtx p k (fun x => { x with lastBeat := min x.lastBeat b }) s)
    RoundKeeps p k s t ∧ (t.ctx p k).phase = .closing ∧ (t.ctx p k).lastBeat = min (s.ctx p k).lastBeat b := by
  obtain ⟨hkeeps, hphase, hlast⟩ := enterClosing_closes p k (State.onCtx p k (fun x => { x with lastBeat := min x.lastBeat b }) s)
  exact ⟨(roundKeeps_onCtx ..).trans hkeeps, hphase, hlast.trans (by rw [State.ctx_onCtx])⟩

theorem execRoundClose_closes {r : RoundRef} (hf : FromPart s c p 0x11) (hr : NotReplaying s p) (hn : NamesRound s p k r)
    (hphase : (s.ctx p k).phase = .opened) :
    ∃ t, exec (.roundClose c r) s = .next t ∧ (t.ctx p k).phase = .closing
      ∧ (t.ctx p k).lastBeat = min (s.ctx p k).lastBeat (s.sys.beat - 1) ∧ (t.ctx p k).lastStatus = .ok
      ∧ OnlyContext p k s t ∧ Completed s t c 0x11 .ok 0 0 := by
  let v := enterClosing p k (State.onCtx p k (fun x => { x with lastBeat := min x.lastBeat (s.beatOf p - 1) }) s)
  have hexec : exec (.roundClose c r) s = .next (roundDone p k c 0x11 .ok v) := by
    change execRoundClose c r s = _
    rw [execRoundClose, roundCommand_fromPart hf hr, closeRound, withRound_named hn, hphase]
  obtain ⟨hv, hclosing, hlast⟩ := enterClosing_cut (p := p) (k := k) (s.beatOf p - 1) s
  obtain ⟨hkeeps, hcpl⟩ := (RoundKeeps.trans (t := v) hv (roundKeeps_onCtx p k (fun x => { x with lastStatus := .ok }) v)).thenCompletes
    hf.1 hf.answers .ok 0 0
  have hctx : (roundDone p k c 0x11 .ok v).ctx p k = { v.ctx p k with lastStatus := .ok } := by
    rw [roundDone, done, ctx_complete, State.ctx_onCtx]
  exact ⟨_, hexec, by rw [hctx]; exact hclosing, by rw [hctx, ← hr.beatOf]; exact hlast, by rw [hctx], hkeeps.only, hcpl⟩

theorem execAdmissionDeadline_closes (hphase : (s.ctx p k).phase = .opened) (hlast : (s.ctx p k).lastBeat < s.beatOf p) :
    exec (.admissionDeadline p k) s = .next (enterClosing p k s) := by
  change execAdmissionDeadline p k s = _
  rw [execAdmissionDeadline, decide_eq_true (by omega), when_true, admissionDeadline, hphase, decide_eq_true (by omega)]
  rfl

theorem execCohortLimitReached_closes (hphase : (s.ctx p k).phase = .opened)
    (hfull : (s.ctx p k).policy.maxCohort ≤ (s.ctx p k).admitted) : exec (.cohortLimitReached p k) s
      = .next (enterClosing p k (State.onCtx p k (fun x => { x with lastBeat := min x.lastBeat (s.beatOf p - 1) }) s)) := by
  change execCohortLimitReached p k s = _
  rw [execCohortLimitReached, cohortLimit, hphase, decide_eq_true hfull]
  rfl

/-! ### The end of close work -/

/-- An operation on one context that leaves its phase and memory. -/
structure NotesOnly (p : Part) (k : Ctx) (s t : State) : Prop where
  keeps : RoundKeeps p k s t
  mem : t.mem = s.mem
  phase : (t.ctx p k).phase = (s.ctx p k).phase

theorem NotesOnly.refl (p : Part) (k : Ctx) (s : State) : NotesOnly p k s s := ⟨.refl p k s, rfl, rfl⟩

theorem NotesOnly.trans {t u : State} (h : NotesOnly p k s t) (g : NotesOnly p k t u) : NotesOnly p k s u :=
  ⟨h.keeps.trans g.keeps, g.mem.trans h.mem, g.phase.trans h.phase⟩

/-- An event of a round, where its count calls for one. -/
theorem notesOnly_when_postRound (b : Bool) (st : Status) (sev : Severity) (kind value : Nat) (s : State) :
    NotesOnly p k s (when b (postRound p k st sev kind value) s) :=
  when_keeps (NotesOnly p k s) b _ s (.refl p k s) ⟨roundKeeps_postRound .., post_mem .., by rw [ctx_postRound]⟩

/-- The summary events of a round leave its phase, and memory (R377). -/
theorem notesOnly_noteClose (p : Part) (k : Ctx) (s : State) : NotesOnly p k s (noteClose p k s) := by
  unfold noteClose
  extract_lets c rejected one
  split
  · exact .refl p k s
  · have hnoted : NotesOnly p k s (State.onCtx p k (fun c => { c with lateNoted := true }) s) :=
      ⟨roundKeeps_onCtx .., rfl, by rw [State.ctx_onCtx]⟩
    exact ((hnoted.trans (notesOnly_when_postRound ..)).trans (notesOnly_when_postRound ..)).trans (notesOnly_when_postRound ..)

theorem execCloseWorkComplete_closes (hready : closeReady s p k = true) :
    ∃ t, exec (.closeWorkComplete p k) s = .next t ∧ (t.ctx p k).phase = .closed ∧ OnlyContext p k s t ∧ t.mem = s.mem := by
  let v := State.onCtx p k (fun c => { c with
    phase := .closed, shared := { c.shared with acceptDigest :=
      if c.policy.mode = .shared then acceptDigest c.shared.acceptedSet else c.shared.acceptDigest } }) s
  have hexec : exec (.closeWorkComplete p k) s = .next (noteClose p k v) := by
    change execCloseWorkComplete p k s = _
    rw [execCloseWorkComplete, closeWorkComplete, hready, when_true]
  obtain ⟨hkeeps, hmem, hphase⟩ := notesOnly_noteClose p k v
  exact ⟨_, hexec, hphase.trans (by rw [State.ctx_onCtx]), (RoundKeeps.trans (t := v) (roundKeeps_onCtx ..) hkeeps).only, hmem⟩

theorem execRecoveryTimeout_ready (hready : closeReady s p k = true) : exec (.recoveryTimeout p k) s = .next s := by
  change execRecoveryTimeout p k s = _
  have hnone (b : Nat) : recoveryTimeout p k b s = s := by
    rw [recoveryTimeout, hready, Bool.not_true, Bool.and_false, when_false]
  exact congrArg _ (when_keeps (· = s) _ _ s rfl (hnone _))

theorem byteAt_poisonRange (q : Part) (va len : Nat) (s : State) (a : Nat) : (poisonRange q va len s).byteAt a = s.byteAt a := by
  refine forAll_keeps (fun t => t.byteAt a = s.byteAt a) _ (fun x t => _) s rfl fun (x, n) _ t ht => ?_
  dsimp only
  split
  · split
    · split
      · exact ht
      · exact ht
    · exact ht
  · exact ht

theorem byteAt_poisonRound (p : Part) (k : Ctx) (s : State) (a : Nat) : (poisonRound p k s).byteAt a = s.byteAt a := by
  rw [poisonRound, byteAt_congr (State.onCtx_mem ..), byteAt_poisonRange]

theorem execRecoveryTimeout_holds (hphase : (s.ctx p k).phase = .closing)
    (hlate : (s.ctx p k).lastBeat + (s.ctx p k).policy.recoveryBeats < s.beatOf p) (hready : closeReady s p k = false)
    (hqueue : ∀ j ∈ (s.ctx p k).masked.queue, j.cmd.fn = .part p) :
    ∃ t, exec (.recoveryTimeout p k) s = .next t ∧ (t.ctx p k).phase = .held ∧ (t.ctx p k).holdCause = .recovery
      ∧ roundPoisoned t p k = true ∧ (t.ctx p k).masked.queue = [] ∧ OnlyContext p k s t ∧ ∀ a, t.byteAt a = s.byteAt a := by
  have hexec : exec (.recoveryTimeout p k) s
      = .next (holdRound p k .recovery (poisonRound p k (endUnmasks p k .invalidState s))) := by
    change execRecoveryTimeout p k s = _
    rw [execRecoveryTimeout, decide_eq_true (by omega), when_true, recoveryTimeout, hphase, hready, decide_eq_true (by omega),
      beq_self_eq_true, Bool.not_false, Bool.and_self, Bool.and_self, when_true]
  obtain ⟨_, m, hm, hctx⟩ := ctx_endUnmasks p k .invalidState s
  have hkeeps : RoundKeeps p k s (poisonRound p k (endUnmasks p k .invalidState s)) :=
    (roundKeeps_endUnmasks hqueue .invalidState).trans (roundKeeps_poisonRound ..)
  have hbytes (a : Nat) : (poisonRound p k (endUnmasks p k .invalidState s)).byteAt a = s.byteAt a := by
    rw [byteAt_poisonRound, byteAt_congr (endUnmasks_mem ..)]
  have hpctx := ctx_poisonRound p k (endUnmasks p k .invalidState s)
  rw [hctx] at hpctx
  generalize poisonRound p k (endUnmasks p k .invalidState s) = v at hexec hkeeps hbytes hpctx
  have hheld := ctx_holdRound p k .recovery v
  rw [hpctx] at hheld
  exact ⟨_, hexec, by rw [hheld], by rw [hheld], by rw [roundPoisoned, hheld]; rfl, by rw [hheld]; exact hm,
    (hkeeps.trans (roundKeeps_holdRound ..)).only, fun a => by rw [byteAt_congr (holdRound_mem ..), hbytes]⟩

end

end Sys2Proof.Machine

open Sys2Proof Sys2Proof.Machine

/-- Settles O17: an open is one header write, admission ends through one entry to CLOSING, and close work that is ready goes before
the recovery hold. -/
theorem roundsOpenAndClose : Obligations.RoundsOpenAndClose := by
  refine ⟨fun s s1 c p pv sv sb ob b k o hf hr hphase himage htest hread hslot => fun hchecks =>
      execRoundOpen_claims hf hr hphase himage htest hread hslot hchecks,
    fun s p k o key hclaim hbeat hphase h hc ha => execRoundOpenEffect_opens hclaim hbeat hphase h hc ha,
    fun s c p k r hf hr hn hphase => execRoundClose_closes hf hr hn hphase, fun s p k hphase hlast => ?_, fun s p k hphase hfull => ?_,
    fun s p k hready => ⟨execRecoveryTimeout_ready hready, execCloseWorkComplete_closes hready⟩,
    fun s p k hphase hlate hready hqueue => execRecoveryTimeout_holds hphase hlate hready hqueue⟩
  · obtain ⟨hkeeps, hclosing, hbeat⟩ := enterClosing_closes p k s
    exact ⟨_, execAdmissionDeadline_closes hphase hlast, hclosing, hbeat, hkeeps.only⟩
  · obtain ⟨hkeeps, hclosing, hbeat⟩ := enterClosing_cut (p := p) (k := k) (s.beatOf p - 1) s
    exact ⟨_, execCohortLimitReached_closes hphase hfull, hclosing, hbeat, hkeeps.only⟩
end

section
/-! PROOFS. What sending a message over a fabric connection leaves alone, and the twins' messages that rest on it (R224, R258, R259). -/

namespace Sys2Proof.Machine
set_option Elab.async false

section
variable {s t u : State} {n : Nat}

/-! ### One connection and the wire -/

/-- An operation that puts packets of connection `n` on the wire, within one message. -/
structure SendsOn (n : Nat) (s t : State) : Prop where
  frame : t = { s with rxt := t.rxt, tx := t.tx, ports := t.ports }
  txMsg : (t.conn n).txMsg = (s.conn n).txMsg
  others : OtherConns n s t

theorem SendsOn.refl (n : Nat) (s : State) : SendsOn n s s := ⟨rfl, rfl, fun _ _ => rfl⟩

theorem SendsOn.trans (h : SendsOn n s t) (g : SendsOn n t u) : SendsOn n s u :=
  ⟨by rw [g.frame, h.frame], g.txMsg.trans h.txMsg, fun m hm => (g.others m hm).trans (h.others m hm)⟩

theorem emit_frame (q : RPort) (b : SubPort) (f : TxFrame) (s : State) :
    emit q b f s = { s with tx := (emit q b f s).tx, ports := (emit q b f s).ports } := by
  unfold emit
  extract_lets x
  split <;> rfl

theorem sendsOn_emit (q : RPort) (b : SubPort) (f : TxFrame) (s : State) : SendsOn n s (emit q b f s) := by
  have hrxt : (emit q b f s).rxt = s.rxt := by rw [emit_frame]
  have hconn (m : Nat) : (emit q b f s).conn m = s.conn m := by rw [State.conn, hrxt]; rfl
  exact ⟨by rw [emit_frame], by rw [hconn], fun m _ => hconn m⟩

theorem sendsOn_onConn (f : Conn → Conn) (hf : (f (s.conn n)).txMsg = (s.conn n).txMsg) : SendsOn n s (s.onConn n f) :=
  ⟨rfl, by rw [conn_onConn, hf], fun m hm => conn_onConn_other s n m f hm⟩

theorem sendsOn_sendPacket (n : Nat) (op : U8) (msg : U32) (off flags : Nat) (payload : Bytes) (s : State) :
    SendsOn n s (sendPacket n op msg off flags payload s) := by
  unfold sendPacket
  extract_lets c key iv head body path k f
  exact (sendsOn_onConn _ rfl).trans (sendsOn_emit ..)

/-- A message on a READY connection whose key may be used goes out whole, and the next one has the next number (R224). -/
theorem sendMessage_sends (op : U8) (start : Nat) (b : Bytes) (hready : (s.conn n).state = .ready) (hseal : sealable s n = true) :
    sendMessage n op start b s = { s with rxt := (sendMessage n op start b s).rxt, tx := (sendMessage n op start b s).tx,
                                          ports := (sendMessage n op start b s).ports }
      ∧ ((sendMessage n op start b s).conn n).txMsg = (s.conn n).txMsg + 1 ∧ OtherConns n s (sendMessage n op start b s) := by
  unfold sendMessage
  extract_lets c v
  have hv : SendsOn n s v := forAll_keeps (SendsOn n s) _ _ s (.refl n s) fun (off, d, fl) _ _ ht => ht.trans (sendsOn_sendPacket ..)
  clear_value v
  rw [if_neg (not_not.mpr hready), if_neg (by rw [hseal]; exact Bool.false_ne_true)]
  refine ⟨?_, ?_, fun m hm => ?_⟩
  · rw [hv.frame]; rfl
  · rw [conn_onConn, hv.txMsg]
  · rw [conn_onConn_other _ _ _ _ hm]; exact hv.others m hm

/-! ### Messages of a partition, sent or not -/

/-- A partition whose pages that left unsent are counted. -/
def PartState.gone (g : Nat) (x : PartState) : PartState := { x with gonePages := g }

/-- An operation that sends a message, or drops its stale pages and counts them. -/
structure SendKeeps (s t : State) : Prop where
  frame : t = { s with parts := t.parts, rxt := t.rxt, tx := t.tx, ports := t.ports }
  part : ∀ q, ∃ g, t.part q = (s.part q).gone g

theorem SendKeeps.refl (s : State) : SendKeeps s s := ⟨rfl, fun _ => ⟨_, rfl⟩⟩

theorem SendKeeps.ctx (h : SendKeeps s t) (q : Part) (j : Ctx) : t.ctx q j = s.ctx q j := by
  obtain ⟨g, hg⟩ := h.part q
  rw [State.ctx, hg]; rfl

theorem SendKeeps.twin (h : SendKeeps s t) (q : Part) : (t.part q).twin = (s.part q).twin := by
  obtain ⟨g, hg⟩ := h.part q
  rw [hg]; rfl

theorem SendKeeps.mem (h : SendKeeps s t) : t.mem = s.mem := by rw [h.frame]

theorem SendKeeps.key (h : SendKeeps s t) : t.key = s.key := by rw [h.frame]

theorem sendKeeps_sendMessage (n : Nat) (op : U8) (start : Nat) (b : Bytes) (s : State) : SendKeeps s (sendMessage n op start b s) := by
  by_cases hready : (s.conn n).state = .ready
  · cases hseal : sealable s n with
    | true =>
      obtain ⟨hframe, _, _⟩ := sendMessage_sends (n := n) op start b hready hseal
      exact ⟨by rw [hframe], fun q => ⟨_, by rw [hframe]; rfl⟩⟩
    | false =>
      have hdrop : sendMessage n op start b s = State.onPart (s.conn n).part
          (fun x => x.gone (min (x.gonePages + max 1 ((b.length + 4095) / 4096)) 0xFFFFFFFF)) s := by
        rw [sendMessage, if_neg (not_not.mpr hready), if_pos (by rw [hseal]; rfl)]
        rfl
      rw [hdrop]
      refine ⟨rfl, fun q => ?_⟩
      by_cases hq : q = (s.conn n).part
      · rw [hq, State.part_onPart]; exact ⟨_, rfl⟩
      · rw [State.part_onPart_other _ _ _ _ hq]; exact ⟨_, rfl⟩
  · rw [sendMessage, if_pos hready]; exact .refl s

theorem sendKeeps_twinSend (p : Part) (typ beat : Nat) (body : Bytes) (s : State) : SendKeeps s (twinSend p typ beat body s) := by
  rw [twinSend]
  split
  · exact .refl s
  · exact sendKeeps_sendMessage ..

theorem sendKeeps_sendNoise (p : Part) (k : Ctx) (s : State) : SendKeeps s (sendNoise p k s) := by
  rw [sendNoise]
  split
  · exact sendKeeps_twinSend ..
  · exact .refl s

/-! ### Twin messages -/

section
variable {p : Part} {r : Bytes} {f : State → State}

theorem twinMessage_taken (h : r.all (· == 0) = true) (f : State → State) (s : State) : twinMessage r f s = .next (f s) := by
  rw [twinMessage, if_pos h]

/-- A message with a reserved byte set does nothing (R417). -/
theorem twinMessage_discarded (h : r.all (· == 0) = false) (f : State → State) (s : State) : twinMessage r f s = .next s := by
  rw [twinMessage, if_neg (by rw [h]; exact Bool.false_ne_true)]

theorem execTwinNeed_answers {b : U64} {e : OrderEntry} {x : Bytes} (hr : r.all (· == 0) = true) (hpair : (s.part p).paired = true)
    (hsilent : (s.part p).silent = false) (hphase : (s.part p).phase ≠ .fenced) (hbytes : stampedBytes s p e = some x)
    (hready : (s.conn (s.part p).twin.conn).state = .ready) (hseal : sealable s (s.part p).twin.conn = true) :
    ∃ t, exec (.twinNeed ⟨p, r⟩ b [e]) s = .next t ∧ t = { s with rxt := t.rxt, tx := t.tx, ports := t.ports }
      ∧ (t.conn (s.part p).twin.conn).txMsg = (s.conn (s.part p).twin.conn).txMsg + 1
      ∧ OtherConns (s.part p).twin.conn s t := by
  have hexec : exec (.twinNeed ⟨p, r⟩ b [e]) s = .next (twinSend p 4 b.toNat (orderBytes e ++ x) s) := by
    change execTwinNeed ⟨p, r⟩ b [e] s = _
    rw [execTwinNeed, twinMessage_taken hr, hpair, hsilent]
    simp only [Bool.not_false, Bool.and_self, if_true, forAll_cons, forAll_nil, hbytes]
  rw [twinSend, if_neg (by rw [beq_iff_eq]; exact hphase)] at hexec
  exact ⟨_, hexec, sendMessage_sends _ _ _ hready hseal⟩

end

end

end Sys2Proof.Machine
end

section
/-! PROOFS. The input log, the stamping of held messages, and the secondary's part in a pair (R259, R260, R262, R265, R266). -/

namespace Sys2Proof.Machine
set_option Elab.async false

section
variable {p : Part} {s t u : State}

theorem part_onTwin_other (s : State) (p q : Part) (f : TwinState → TwinState) (h : q ≠ p) : (State.onTwin p f s).part q = s.part q :=
  State.part_onPart_other s p q (fun x => { x with twin := f x.twin }) h

theorem part_onRx_other (s : State) (p q : Part) (f : PartRxt → PartRxt) (h : q ≠ p) : (State.onRx p f s).part q = s.part q :=
  State.part_onPart_other s p q (fun x => { x with rxt := f x.rxt }) h

/-! ### What the log changes of a twin -/

/-- A twin that has gone on with its log. -/
structure TwinState.Logs (w x : TwinState) : Prop where
  eq : ∃ a b c d e, x = { w with logHead := a, logUsed := b, logOff := c, records := d, logStopped := e }

/-- An operation that may write records of a partition's log, and leaves every other partition and the rest of its twin. -/
structure LogKeeps (p : Part) (s t : State) : Prop where
  twin : (s.part p).twin.Logs (t.part p).twin
  others : ∀ q, q ≠ p → t.part q = s.part q

theorem TwinState.Logs.refl (w : TwinState) : w.Logs w := ⟨_, _, _, _, _, rfl⟩

theorem TwinState.Logs.trans {w x y : TwinState} (h : w.Logs x) (g : x.Logs y) : w.Logs y := by
  obtain ⟨_, _, _, _, _, rfl⟩ := h
  obtain ⟨_, _, _, _, _, rfl⟩ := g
  exact ⟨_, _, _, _, _, rfl⟩

theorem LogKeeps.refl (p : Part) (s : State) : LogKeeps p s s := ⟨.refl _, fun _ _ => rfl⟩

theorem LogKeeps.trans (h : LogKeeps p s t) (g : LogKeeps p t u) : LogKeeps p s u :=
  ⟨h.twin.trans g.twin, fun q hq => (g.others q hq).trans (h.others q hq)⟩

theorem LogKeeps.of_parts (h : t.parts = s.parts) : LogKeeps p s t := by
  have hpart (q : Part) : t.part q = s.part q := by rw [State.part, h]; rfl
  exact ⟨by rw [hpart]; exact .refl _, fun q _ => hpart q⟩

theorem logKeeps_onPart (f : PartState → PartState) (h : (s.part p).twin.Logs (f (s.part p)).twin) : LogKeeps p s (s.onPart p f) :=
  ⟨by rw [State.part_onPart]; exact h, fun q hq => State.part_onPart_other s p q f hq⟩

theorem logKeeps_onTwin (f : TwinState → TwinState) (h : (s.part p).twin.Logs (f (s.part p).twin)) :
    LogKeeps p s (State.onTwin p f s) := logKeeps_onPart _ h

theorem logKeeps_onHif {fn : Fn} (hfn : ∀ q, fn = .part q → q = p) (f : HifSet → HifSet) (s : State) : LogKeeps p s (s.onHif fn f) := by
  cases fn with
  | f0 q => exact .of_parts rfl
  | part q =>
    obtain rfl := hfn q rfl
    exact logKeeps_onPart _ (.refl _)

theorem logKeeps_post {fn : Fn} (hfn : ∀ q, fn = .part q → q = p) (cls : EventClass) (st : Status) (sev : Severity) (source : Nat)
    (det : U64) (s : State) : LogKeeps p s (post fn cls st sev source det s) := by
  rw [post]
  exact (logKeeps_onHif hfn _ s).trans (.of_parts (record_parts ..))

theorem logKeeps_postBoth (p : Part) (cls : EventClass) (st : Status) (sev : Severity) (source : Nat) (det : U64) (s : State) :
    LogKeeps p s (postBoth p cls st sev source det s) := by
  rw [postBoth, postF0]
  exact (logKeeps_post (fun _ h => (Fn.part.inj h).symm) ..).trans (logKeeps_post (fun _ h => Fn.noConfusion h) ..)

theorem logKeeps_logRecordAt (p : Part) (beat kind aux : Nat) (body : Bytes) (s : State) :
    LogKeeps p s (logRecordAt p beat kind aux body s) := by
  unfold logRecordAt
  extract_lets x
  split
  · exact .refl p s
  · split
    split
    · extract_lets v
      have hv : LogKeeps p s v := logKeeps_onTwin _ ⟨_, _, _, _, _, rfl⟩
      exact (hv.trans (.of_parts (deviceWrite_parts ..))).trans (.of_parts (deviceWrite_parts ..))
    · exact (logKeeps_onTwin _ ⟨_, _, _, _, _, rfl⟩).trans (logKeeps_postBoth ..)

theorem logKeeps_logFabric (p : Part) (n : Nat) (b : Bytes) (s : State) : LogKeeps p s (logFabric p n b s) := by
  unfold logFabric
  extract_lets key iv body
  exact logKeeps_logRecordAt ..

/-- Releasing what a message occupied changes its partition's rings or slots, not its twin. -/
theorem freeSource_onPart (p : Part) (k : Ctx) (va : Nat) (src : StampSource) :
    ∃ f : PartState → PartState, (∀ x, (f x).twin = x.twin) ∧ ∀ s, freeSource p k va src s = State.onPart p f s := by
  cases src with
  | ring r i =>
    refine ⟨_, ?_, fun _ => rfl⟩
    exact fun _ => rfl
  | conn _ _ =>
    refine ⟨_, ?_, fun _ => rfl⟩
    exact fun _ => rfl
  | forwarded =>
    refine ⟨_, ?_, fun _ => rfl⟩
    exact fun _ => rfl

theorem logKeeps_freeSource (p : Part) (k : Ctx) (va : Nat) (src : StampSource) (s : State) : LogKeeps p s (freeSource p k va src s) := by
  obtain ⟨f, hf, heq⟩ := freeSource_onPart p k va src
  rw [heq]
  exact logKeeps_onPart _ (by rw [hf]; exact .refl _)

theorem logKeeps_stampNow (p : Part) (k : Ctx) (tag : U64) (beat va len : Nat) (b : Bytes) (src : StampSource) (s : State) :
    LogKeeps p s (stampNow p k tag beat va len b src s) := by
  unfold stampNow
  extract_lets q st v w
  have hv : LogKeeps p s v := logKeeps_onPart _ (.refl _)
  have hw : LogKeeps p s w := hv.trans (logKeeps_logRecordAt ..)
  split
  · exact (hw.trans (logKeeps_onPart _ (.refl _))).trans (logKeeps_freeSource ..)
  · exact hw

/-! ### Stamping held messages (R259) -/

/-- An operation that stamps held messages: orders, held messages and fabric messages seen may go, and the log goes on. -/
structure Stamps (p : Part) (s t : State) : Prop where
  twin : ∃ h f o, { (s.part p).twin with held := h, seenFabric := f, orders := o }.Logs (t.part p).twin
  orders : (s.part p).twin.orders = [] → (t.part p).twin.orders = []
  others : ∀ q, q ≠ p → t.part q = s.part q

theorem Stamps.refl (p : Part) (s : State) : Stamps p s s := ⟨⟨_, _, _, .refl _⟩, id, fun _ _ => rfl⟩

theorem Stamps.trans (h : Stamps p s t) (g : Stamps p t u) : Stamps p s u := by
  obtain ⟨_, _, _, _, _, _, _, _, ht⟩ := h.twin
  obtain ⟨_, _, _, _, _, _, _, _, gt⟩ := g.twin
  exact ⟨⟨_, _, _, ⟨_, _, _, _, _, by rw [gt, ht]⟩⟩, fun ho => g.orders (h.orders ho),
    fun q hq => (g.others q hq).trans (h.others q hq)⟩

/-- The first held message of an entry, taken out by its value, goes as the first one that has the entry. -/
theorem erase_find_eq_eraseP {α : Type} [DecidableEq α] {f : α → Bool} {l : List α} {a : α} (h : l.find? f = some a) :
    l.erase a = l.eraseP f := by
  induction l with
  | nil => exact nomatch h
  | cons b l ih =>
    rw [List.find?_cons] at h
    split at h
    · next hb =>
      obtain rfl := Option.some.inj h
      rw [List.erase_cons_head, List.eraseP_cons_of_pos hb]
    · next hb =>
      have hba : b ≠ a := by
        rintro rfl
        exact Bool.noConfusion (hb.symm.trans (List.find?_some h))
      rw [List.erase_cons_tail (by simpa using hba), List.eraseP_cons_of_neg (by rw [hb]; exact Bool.false_ne_true), ih h]

/-- A stamped entry takes the first held message of that entry with it, or a fabric message seen. -/
theorem stampEntry_twin (p : Part) (beat : Nat) (e : OrderEntry) (s : State) : ∃ f, { (s.part p).twin with
    held := (s.part p).twin.held.eraseP (fun h => h.entry == e), seenFabric := f }.Logs ((stampEntry p beat e s).part p).twin := by
  rw [stampEntry]
  cases hfind : (s.twin p).held.find? fun h => h.entry == e with
  | some h =>
    have hstamp := (logKeeps_stampNow p h.ctx h.tag beat h.msgVA e.length.toNat (deviceRead s p h.msgVA e.length.toNat) h.source
      (State.onTwin p (fun w => { w with held := w.held.erase h }) s)).twin
    rw [State.part_onTwin] at hstamp
    have herase : (s.part p).twin.held.erase h = (s.part p).twin.held.eraseP (fun h => h.entry == e) := erase_find_eq_eraseP hfind
    rw [← herase]
    exact ⟨_, hstamp⟩
  | none =>
    have hkept : (s.part p).twin.held.eraseP (fun h => h.entry == e) = (s.part p).twin.held :=
      List.eraseP_of_forall_not fun h hh => List.find?_eq_none.mp hfind h hh
    rw [hkept]
    dsimp only
    rw [State.part_onTwin]
    exact ⟨_, .refl _⟩

theorem stamps_stampEntry (p : Part) (beat : Nat) (e : OrderEntry) (s : State) : Stamps p s (stampEntry p beat e s) := by
  obtain ⟨f, hlog⟩ := stampEntry_twin p beat e s
  refine ⟨⟨_, _, _, hlog⟩, fun ho => ?_, fun q hq => ?_⟩
  · obtain ⟨_, _, _, _, _, heq⟩ := hlog
    rw [heq]; exact ho
  · rw [stampEntry]
    split
    · exact ((logKeeps_stampNow ..).others q hq).trans (part_onTwin_other _ _ _ _ hq)
    · exact part_onTwin_other _ _ _ _ hq

theorem stamps_dropOrders (f : List (Nat × List OrderEntry) → List (Nat × List OrderEntry)) (hf : f [] = []) (s : State) :
    Stamps p s (State.onTwin p (fun w => { w with orders := f w.orders }) s) := by
  refine ⟨⟨(s.part p).twin.held, (s.part p).twin.seenFabric, f (s.part p).twin.orders, ?_⟩, fun ho => ?_, fun q hq => part_onTwin_other _ _ _ _ hq⟩
  · rw [State.part_onTwin]; exact .refl _
  · rw [State.part_onTwin]; change f (s.part p).twin.orders = []; rw [ho, hf]

theorem stamps_stampOrder (p : Part) (o : Nat × List OrderEntry) (s : State) : Stamps p s (stampOrder p o s) := by
  rw [stampOrder]
  exact forAll_keeps (Stamps p s) _ _ _ (stamps_dropOrders (·.erase o) rfl s) fun _ _ _ ht => ht.trans (stamps_stampEntry ..)

/-- Stamped one after the other, all held messages are gone. -/
theorem held_stampAll {l : List HeldMsg} (h : (s.part p).twin.held = l) :
    ((forAll l (fun m t => stampEntry p t.sys.beat m.entry t) s).part p).twin.held = [] := by
  induction l generalizing s with
  | nil => exact h
  | cons m l ih =>
    rw [forAll_cons]
    refine ih ?_
    obtain ⟨f, _, _, _, _, _, heq⟩ := stampEntry_twin p s.sys.beat m.entry s
    rw [heq]
    change (s.part p).twin.held.eraseP (fun h => h.entry == m.entry) = l
    rw [h]
    exact List.eraseP_cons_of_pos (beq_self_eq_true m.entry)

theorem stampHeld_stamps (p : Part) (s : State) : Stamps p s (stampHeld p s) ∧ ((stampHeld p s).part p).twin.held = []
    ∧ ((stampHeld p s).part p).twin.orders = [] := by
  unfold stampHeld
  extract_lets w v
  have hdrop := stamps_dropOrders (p := p) (fun _ => []) rfl s
  have hempty : ((State.onTwin p (fun w => { w with orders := [] }) s).part p).twin.orders = [] := by rw [State.part_onTwin]
  have hv : Stamps p (State.onTwin p (fun w => { w with orders := [] }) s) v :=
    forAll_keeps (Stamps p _) _ _ _ (.refl p _) fun _ _ _ ht => ht.trans (stamps_stampOrder ..)
  have hlast : Stamps p v (forAll (v.twin p).held (fun h s => stampEntry p s.sys.beat h.entry s) v) :=
    forAll_keeps (Stamps p v) _ _ _ (.refl p v) fun _ _ _ ht => ht.trans (stamps_stampEntry ..)
  exact ⟨(hdrop.trans hv).trans hlast, held_stampAll rfl, hlast.orders (hv.orders hempty)⟩

/-! ### A twin that enters ALONE (R262) -/

/-- The agreement of a checkpoint changes only what the twin keeps of checkpoints and of its log (R264, R266). -/
theorem tryAgree_keeps (p : Part) (s : State) : (∀ q, q ≠ p → (tryAgree p s).part q = s.part q)
    ∧ ((tryAgree p s).part p).twin.phase = (s.part p).twin.phase
    ∧ ((tryAgree p s).part p).twin.actingPrimary = (s.part p).twin.actingPrimary
    ∧ ((tryAgree p s).part p).twin.held = (s.part p).twin.held ∧ ((tryAgree p s).part p).twin.orders = (s.part p).twin.orders := by
  unfold tryAgree
  extract_lets w
  split
  · exact ⟨fun _ _ => rfl, rfl, rfl, rfl, rfl⟩
  · extract_lets both
    split
    · exact ⟨fun _ _ => rfl, rfl, rfl, rfl, rfl⟩
    · exact ⟨fun q hq => part_onTwin_other _ _ _ _ hq, by rw [State.part_onTwin]; rfl, by rw [State.part_onTwin]; rfl,
        by rw [State.part_onTwin]; rfl, by rw [State.part_onTwin]; rfl⟩

theorem enterAlone_keeps (p : Part) (s : State) : ((enterAlone p s).part p).twin.phase = .alone
    ∧ ((enterAlone p s).part p).twin.actingPrimary = (s.part p).twin.secondary ∧ ((enterAlone p s).part p).twin.held = []
    ∧ ((enterAlone p s).part p).twin.orders = [] ∧ ∀ q, q ≠ p → (enterAlone p s).part q = s.part q := by
  unfold enterAlone
  extract_lets sec v w
  have hv : (v.part p).twin = { (s.part p).twin with phase := .alone, actingPrimary := sec } := by
    simp only [v]; rw [State.part_onTwin]
  have hw : LogKeeps p v w := logKeeps_postBoth ..
  obtain ⟨hstamps, hheld, horders⟩ := stampHeld_stamps p w
  obtain ⟨hothers, hphase, hacting, hkept, hleft⟩ := tryAgree_keeps p (stampHeld p w)
  obtain ⟨_, _, _, _, _, _, _, _, htwin⟩ := hstamps.twin
  obtain ⟨_, _, _, _, _, hlog⟩ := hw.twin
  refine ⟨?_, ?_, hkept.trans hheld, hleft.trans horders, fun q hq => ?_⟩
  · rw [hphase, htwin, hlog, hv]
  · rw [hacting, htwin, hlog, hv]; rfl
  · rw [hothers q hq, hstamps.others q hq, hw.others q hq]
    exact part_onTwin_other _ _ _ _ hq

theorem execTwinFpTimeout_stays (h : s.sys.beat < (s.part p).twin.lastPeerFp + 64) : exec (.twinFpTimeout p) s = .next s := by
  change execTwinFpTimeout p s = _
  have hlate : decide ((s.twin p).lastPeerFp + 64 ≤ s.sys.beat) = false := decide_eq_false (Nat.not_le.mpr h)
  rw [execTwinFpTimeout, hlate, Bool.and_false, when_false]

theorem execTwinFpTimeout_leaves (hphase : (s.part p).twin.phase = .bound) (h : (s.part p).twin.lastPeerFp + 64 ≤ s.sys.beat) :
    exec (.twinFpTimeout p) s = .next (enterAlone p s) := by
  change execTwinFpTimeout p s = _
  have hlate : decide ((s.twin p).lastPeerFp + 64 ≤ s.sys.beat) = true := decide_eq_true h
  have hbound : (s.twin p).phase = .bound := hphase
  rw [execTwinFpTimeout, hlate, hbound, beq_self_eq_true, Bool.and_self, when_true]

/-! ### FWD at a silent secondary (R260) -/

theorem takeForwarded_keeps (p : Part) (beat : Nat) (e : OrderEntry) (b : Bytes) (s : State) :
    ((takeForwarded p beat e b s).part p).twin.seenFabric = (s.part p).twin.seenFabric ++ [e]
      ∧ ((takeForwarded p beat e b s).part p).twin.bulk = (s.part p).twin.bulk ++ [(beat, e.number.toNat, b)] := by
  obtain ⟨_, _, _, _, _, hlog⟩ := (logKeeps_logFabric p e.number.toNat b s).twin
  unfold takeForwarded
  extract_lets v
  rw [State.part_onTwin]
  change (v.part p).twin.seenFabric ++ [e] = _ ∧ (v.part p).twin.bulk ++ _ = _
  have hv : (v.part p).twin = ((logFabric p e.number.toNat b s).part p).twin := rfl
  rw [hv, hlog]
  exact ⟨rfl, rfl⟩

theorem deviceWrite_frame (p : Part) (va : Nat) (b : Bytes) (s : State) :
    deviceWrite p va b s = { s with mem := (deviceWrite p va b s).mem } := by
  refine forAll_keeps (fun t => t = { s with mem := t.mem }) _ (fun x t => _) s rfl fun (x, n) _ t ht => ?_
  dsimp only
  split
  · split
    · split
      · rw [State.store, ht]; rfl
      · exact ht
    · exact ht
  · exact ht

theorem execTwinFwd_holds {r : Bytes} {b tag : U64} {e : OrderEntry} {x : Bytes} {k : Ctx} {va : Nat} (hr : r.all (· == 0) = true)
    (hsilent : (s.part p).silent = true) (hsource : e.source ≠ 3) (hnew : hasEntry (s.part p).twin e = false)
    (hctx : poolCtx s p tag = some k) (hfree : freeStage s p k = some va) :
    ∃ t, exec (.twinFwd ⟨p, r⟩ b e tag x) s = .next t ∧ t = { s with parts := t.parts, mem := t.mem }
      ∧ (t.part p).twin.held = (s.part p).twin.held ++ [⟨e, k, tag, va, .forwarded⟩]
      ∧ (t.part p).stamps = (s.part p).stamps ∧ ∀ q, q ≠ p → t.part q = s.part q := by
  let v := deviceWrite p va x s
  let w := State.onRx p (fun r => { r with poolSlots := tupd r.poolSlots k.val [] (· ++ [va]) }) v
  have hexec : exec (.twinFwd ⟨p, r⟩ b e tag x) s
      = .next (State.onTwin p (fun w => { w with held := w.held ++ [⟨e, k, tag, va, .forwarded⟩] }) w) := by
    change execTwinFwd ⟨p, r⟩ b e tag x s = _
    rw [execTwinFwd, twinMessage_taken hr]
    have hnew' : hasEntry (s.twin p) e = false := hnew
    simp only [hsilent, Bool.not_true, Bool.false_eq_true, if_false, hsource, holdForwarded, hnew', hctx, hfree]
    rfl
  have hv : v = { s with mem := v.mem } := deviceWrite_frame ..
  have hpart (q : Part) : v.part q = s.part q := by rw [hv]; rfl
  have hw : w.part p = { s.part p with rxt := (w.part p).rxt } := by
    simp only [w]
    rw [State.part_onRx, hpart]
  refine ⟨_, hexec, ?_, ?_, ?_, fun q hq => ?_⟩
  · rw [State.onTwin, State.onPart, show w = { v with parts := w.parts } from rfl, hv]
  · rw [State.part_onTwin, hw]
  · rw [State.part_onTwin, hw]
  · rw [part_onTwin_other _ _ _ _ hq, ← hpart q]
    exact part_onRx_other _ _ _ _ hq

theorem execTwinFwd_known {r : Bytes} {b tag : U64} {e : OrderEntry} {x : Bytes} (hr : r.all (· == 0) = true)
    (hsilent : (s.part p).silent = true) (hsource : e.source ≠ 3) (hknown : hasEntry (s.part p).twin e = true) :
    exec (.twinFwd ⟨p, r⟩ b e tag x) s = .next s := by
  change execTwinFwd ⟨p, r⟩ b e tag x s = _
  have hknown' : hasEntry (s.twin p) e = true := hknown
  rw [execTwinFwd, twinMessage_taken hr]
  simp only [hsilent, Bool.not_true, Bool.false_eq_true, if_false, hsource, holdForwarded, hknown', if_true]

theorem execTwinFwd_fabric {r : Bytes} {b tag : U64} {e : OrderEntry} {x : Bytes} (hr : r.all (· == 0) = true)
    (hsilent : (s.part p).silent = true) (hsource : e.source = 3) :
    exec (.twinFwd ⟨p, r⟩ b e tag x) s = .next (takeForwarded p b.toNat e x s) := by
  change execTwinFwd ⟨p, r⟩ b e tag x s = _
  rw [execTwinFwd, twinMessage_taken hr]
  simp only [hsilent, Bool.not_true, Bool.false_eq_true, if_false, hsource, if_true]

/-! ### Messages that no order named (R259) -/

theorem OnlyPart.trans (h : OnlyPart p s t) (g : OnlyPart p t u) : OnlyPart p s u := by
  obtain ⟨hframe, hothers⟩ := h
  obtain ⟨gframe, gothers⟩ := g
  exact ⟨by rw [gframe, hframe], fun q hq => (gothers q hq).trans (hothers q hq)⟩

theorem onlyPart_onPart (p : Part) (f : PartState → PartState) (s : State) : OnlyPart p s (State.onPart p f s) :=
  ⟨rfl, fun q hq => State.part_onPart_other s p q f hq⟩

theorem onlyPart_freeSource (p : Part) (k : Ctx) (va : Nat) (src : StampSource) (s : State) :
    OnlyPart p s (freeSource p k va src s) ∧ ((freeSource p k va src s).part p).twin = (s.part p).twin := by
  obtain ⟨f, hf, heq⟩ := freeSource_onPart p k va src
  rw [heq, State.part_onPart, hf]
  exact ⟨onlyPart_onPart p f s, rfl⟩

theorem onlyPart_forAll_freeSource (p : Part) (l : List HeldMsg) (s : State) :
    OnlyPart p s (forAll l (fun h => freeSource p h.ctx h.msgVA h.source) s)
      ∧ ((forAll l (fun h => freeSource p h.ctx h.msgVA h.source) s).part p).twin = (s.part p).twin := by
  refine forAll_keeps (fun t => OnlyPart p s t ∧ (t.part p).twin = (s.part p).twin) l _ s ⟨⟨rfl, fun _ _ => rfl⟩, rfl⟩
    fun h _ t ht => ?_
  obtain ⟨hpart, htwin⟩ := onlyPart_freeSource p h.ctx h.msgVA h.source t
  exact ⟨ht.1.trans hpart, htwin.trans ht.2⟩

theorem execUnnamedMessageDiscard_drops (p : Part) (s : State) : ∃ t, exec (.unnamedMessageDiscard p) s = .next t ∧ OnlyPart p s t
    ∧ (t.part p).twin = { (s.part p).twin with held := (s.part p).twin.held.filter (fun h =>
        !decide ((s.ctx p h.ctx).lastBeat + (s.part p).twin.orderDelay < s.sys.beat)) } := by
  let old (h : HeldMsg) : Bool := decide ((s.ctx p h.ctx).lastBeat + (s.twin p).orderDelay < s.sys.beat)
  let v := State.onTwin p (fun w => { w with held := w.held.filter fun h => !old h }) s
  have hexec : exec (.unnamedMessageDiscard p) s
      = .next (forAll ((s.twin p).held.filter old) (fun h => freeSource p h.ctx h.msgVA h.source) v) := rfl
  have hv : OnlyPart p s v := onlyPart_onPart ..
  obtain ⟨hpart, htwin⟩ := onlyPart_forAll_freeSource p ((s.twin p).held.filter old) v
  exact ⟨_, hexec, hv.trans hpart, by rw [htwin]; simp only [v]; rw [State.part_onTwin]; rfl⟩

end

end Sys2Proof.Machine
end

section
/-! PROOFS. What a divergence leaves of the pair: its state and its count of divergences through the hold of every round, or through
the restore and the first re-enacted beat (R259, R267). -/

namespace Sys2Proof.Machine
set_option Elab.async false

/-- What the pair's state machine and its divergence count hold. -/
def TwinState.pairMark (w : TwinState) : TwinPhase × Nat := (w.phase, w.divergences)

def State.pairMark (s : State) (p : Part) : TwinPhase × Nat := (s.part p).twin.pairMark

section
variable {p q : Part} {s t : State}

theorem pairMark_eq_iff {d : TwinPhase × Nat} :
    s.pairMark p = d ↔ (s.part p).twin.phase = d.1 ∧ (s.part p).twin.divergences = d.2 := by
  rw [State.pairMark, TwinState.pairMark]
  exact Prod.ext_iff

theorem pairMark_of_parts (h : t.parts = s.parts) : t.pairMark p = s.pairMark p := by
  rw [State.pairMark, State.part, h]; rfl

theorem pairMark_onPart (f : PartState → PartState) (hf : ∀ x, (f x).twin.pairMark = x.twin.pairMark) (s : State) :
    (s.onPart q f).pairMark p = s.pairMark p := by
  rw [State.pairMark, State.pairMark]
  by_cases hp : p = q
  · subst hp; rw [State.part_onPart, hf]
  · rw [State.part_onPart_other s q p f hp]

theorem pairMark_onTwin (f : TwinState → TwinState) (hf : ∀ w, (f w).pairMark = w.pairMark) (s : State) :
    (State.onTwin q f s).pairMark p = s.pairMark p :=
  pairMark_onPart (fun x => { x with twin := f x.twin }) (fun _ => hf _) s

@[simp] theorem pairMark_onCtx (k : Ctx) (f : RoundCtx → RoundCtx) (s : State) : (State.onCtx q k f s).pairMark p = s.pairMark p :=
  pairMark_onPart (fun x => { x with ctxs := vupd x.ctxs k f }) (fun _ => rfl) s

@[simp] theorem pairMark_onImg (f : PartImage → PartImage) (s : State) : (State.onImg q f s).pairMark p = s.pairMark p :=
  pairMark_onPart (fun x => { x with img := f x.img }) (fun _ => rfl) s

@[simp] theorem pairMark_onMem (f : PartMem → PartMem) (s : State) : (State.onMem q f s).pairMark p = s.pairMark p :=
  pairMark_onPart (fun x => { x with mem := f x.mem }) (fun _ => rfl) s

@[simp] theorem pairMark_freeEntry (r : Fin 4) (i : U32) (s : State) : (freeEntry q r i s).pairMark p = s.pairMark p :=
  pairMark_onPart (fun x => { x with ingest := vupd x.ingest r (Ingest.freeAt i) }) (fun _ => rfl) s

@[simp] theorem pairMark_onStore (f : MemState → MemState) (s : State) : (s.onStore f).pairMark p = s.pairMark p := rfl
@[simp] theorem pairMark_store (a : Nat) (b : Bytes) (x : Bool) (s : State) : (s.store a b x).pairMark p = s.pairMark p := rfl
@[simp] theorem pairMark_onConn (n : Nat) (f : Conn → Conn) (s : State) : (s.onConn n f).pairMark p = s.pairMark p := rfl
@[simp] theorem pairMark_onCluster (d : Die) (c : Cluster) (f : ClusterRun → ClusterRun) (s : State) :
    (s.onCluster d c f).pairMark p = s.pairMark p := rfl
@[simp] theorem pairMark_onUnit (d : Die) (c : Cluster) (u : UnitIx) (f : UnitState → UnitState) (s : State) :
    (s.onUnit d c u f).pairMark p = s.pairMark p := rfl

theorem pairMark_forAll {α : Type} {l : List α} {f : α → State → State} (hf : ∀ a t, (f a t).pairMark p = t.pairMark p) (s : State) :
    (forAll l f s).pairMark p = s.pairMark p :=
  forAll_keeps (fun t => t.pairMark p = s.pairMark p) l f s rfl fun a _ t ht => (hf a t).trans ht

theorem LogKeeps.pairMark (h : LogKeeps q s t) : t.pairMark p = s.pairMark p := by
  rw [State.pairMark, State.pairMark]
  by_cases hp : p = q
  · obtain ⟨_, _, _, _, _, heq⟩ := h.twin
    subst hp; rw [heq]; rfl
  · rw [h.others p hp]

theorem SlotKeeps.pairMark (h : SlotKeeps p s t) : t.pairMark p = s.pairMark p := by
  obtain ⟨_, _, _, heq⟩ := h.twin
  rw [State.pairMark, heq]; rfl

/-! ### A hold from outside (R36, R41) -/

theorem postFault_pairMark (va agent access : Nat) (cause : Status) (resume : Bool) (source : Nat) (who : FaultAgent) (s : State) :
    (postFault p va agent access cause resume source who s).1.pairMark p = s.pairMark p := by
  unfold postFault
  extract_lets m h page
  split
  · rfl
  · split
    · rfl
    · split
      · exact pairMark_onPart _ (fun _ => by rfl) s
      · split
        · exact pairMark_onMem ..
        · dsimp only
          split
          · exact (logKeeps_postBoth ..).pairMark.trans (pairMark_onMem ..)
          · exact pairMark_onMem ..

theorem writeHeader_pairMark (p : Part) (k : Ctx) (s : State) : (writeHeader p k s).1.pairMark p = s.pairMark p := by
  have hwalks (va len : Nat) : (noteWalks p .pcie va len s).pairMark p = s.pairMark p := (roundKeeps_noteWalks p k ..).toSlotKeeps.pairMark
  have hwrite (va : Nat) (b : Bytes) (u : State) : (writeVA p va b 4 false u).pairMark p = u.pairMark p :=
    pairMark_of_parts (writeVA_parts ..)
  unfold writeHeader releaseWrite releaseRange
  split
  · rfl
  · split
    · rfl
    · extract_lets at_ v
      split
      · rw [pairMark_onCtx, hwrite, hwalks]
      · rw [postFault_pairMark, pairMark_onCtx, hwrite, hwalks]

theorem complete_pairMark (c : Cmd) (op : Nat) (st : Status) (aux result : Nat) (s : State) :
    (complete c op st aux result s).pairMark p = s.pairMark p := (slotKeeps_complete p ..).pairMark

theorem finishFinalize_pairMark (k : Ctx) (st : Status) (result : Nat) (s : State) :
    (finishFinalize p k st result s).pairMark p = s.pairMark p := by
  rw [finishFinalize]
  split
  · rw [complete_pairMark, pairMark_onCtx]
  · exact pairMark_onCtx ..

/-- A finalize that fails before its header is written keeps what a failure keeps; its end keeps it too. -/
theorem failFinalize_pairMark (k : Ctx) (cause : HoldCause) (st : Status) (s : State) :
    (failFinalize p k cause st s).pairMark p = s.pairMark p := by
  have hfail : (failing p k st s).pairMark p = s.pairMark p := (roundKeeps_failing ..).toSlotKeeps.pairMark
  have hdone (u : State) : (headerDone p k (.failHeader cause st) u).pairMark p = u.pairMark p :=
    (finishFinalize_pairMark ..).trans (((((roundKeeps_setWait p k .none u).trans (roundKeeps_dropStaging ..)).trans
      (roundKeeps_onCtx p k RoundCtx.discarded _)).trans (roundKeeps_cancelNoise ..)).trans
      (roundKeeps_holdRound p k cause _)).toSlotKeeps.pairMark
  have hwrite := writeHeader_pairMark p k (setWait p k (.failHeader cause st) (failing p k st s))
  rw [(roundKeeps_setWait ..).toSlotKeeps.pairMark, hfail] at hwrite
  rw [failFinalize_eq, tryHeader]
  split
  · rw [hdone, hfail]
  · split
    · next h => rw [h] at hwrite; rw [hdone, hwrite]
    · next h => rw [h] at hwrite; exact hwrite

theorem holdOutside_pairMark (k : Ctx) (cause : HoldCause) (s : State) : (holdOutside p k cause s).pairMark p = s.pairMark p := by
  have hhold (u : State) : (holdRound p k cause u).pairMark p = u.pairMark p := (roundKeeps_holdRound ..).toSlotKeeps.pairMark
  unfold holdOutside
  extract_lets c
  split
  · rw [hhold, pairMark_onCtx]
  · rw [hhold]; exact (slotKeeps_endUnmasks ..).pairMark
  · exact hhold s
  · split
    · rfl
    · split
      · rfl
      · exact failFinalize_pairMark ..
  · rfl

theorem secondDivergence_pairMark (p : Part) (s : State) :
    (secondDivergence p s).pairMark p = (.diverged, (s.part p).twin.divergences) := by
  unfold secondDivergence
  extract_lets v w
  rw [pairMark_forAll fun k t => holdOutside_pairMark k .diverged t]
  have hw : w.pairMark p = v.pairMark p := (logKeeps_postBoth ..).pairMark
  rw [hw, State.pairMark, State.part_onTwin]
  rfl

/-! ### The restore and the first re-enacted beat (R267) -/

theorem abortCluster_pairMark (d : Die) (c : Cluster) (s : State) : (abortCluster d c s).pairMark p = s.pairMark p := by
  unfold abortCluster
  extract_lets r v w
  have hv : v.pairMark p = s.pairMark p := by
    simp only [v]
    split
    · refine pairMark_forAll (fun e t => ?_) s
      exact pairMark_onCtx ..
    · rfl
  have hw : w.pairMark p = v.pairMark p := by
    refine pairMark_forAll (fun m t => ?_) v
    exact pairMark_onConn ..
  split
  · rw [pairMark_forAll fun u t => pairMark_onUnit d c u _ t, pairMark_onCluster, undoJournal, pairMark_onStore, hw, hv]
  · rfl

theorem stopClusters_pairMark (q : Part) (s : State) : (stopClusters q s).pairMark p = s.pairMark p := by
  have habort (d : Die) (t : State) : (abortDie d t).pairMark p = t.pairMark p :=
    pairMark_forAll (fun c u => abortCluster_pairMark d c u) t
  unfold stopClusters
  extract_lets v w
  have hv : v.pairMark p = s.pairMark p := pairMark_forAll habort s
  have hw : w.pairMark p = s.pairMark p :=
    (pairMark_forAll (fun d t => pairMark_forAll (fun c u => pairMark_onCluster d c _ u) t) v).trans hv
  rw [pairMark_onImg, hw]

theorem restore_pairMark (q : Part) (c : Checkpoint) (s : State) : (restore q c s).pairMark p = s.pairMark p := by
  unfold restore
  extract_lets v x w
  have hv : v.pairMark p = s.pairMark p := by
    simp only [v]
    unfold freeStamped
    extract_lets y src
    refine (pairMark_forAll (fun (r, i) t => pairMark_freeEntry r i t) _).trans ?_
    exact (pairMark_onStore _ _).trans (stopClusters_pairMark q s)
  have hw : w.pairMark p = v.pairMark p := pairMark_of_parts rfl
  rw [pairMark_onPart _ (fun _ => by rfl), hw, hv]

theorem switchJob_pairMark (q : Part) (s : State) : (switchJob q s).pairMark p = s.pairMark p := by
  cases h : (s.part q).img.switchTo with
  | none => rw [switchJob, h]
  | some j =>
    rw [switchJob_eq h, pairMark_onImg]
    exact pairMark_of_parts (onlyContexts_forAll_switchOf ..).parts

theorem quietCluster_pairMark (q : Part) (d : Die) (c : Cluster) (s : State) : (quietCluster q d c s).pairMark p = s.pairMark p := by
  unfold quietCluster
  extract_lets kept u
  rw [pairMark_forAll fun n t => pairMark_onUnit d c n _ t]
  exact pairMark_onCluster ..

theorem startCluster_pairMark (q : Part) (n : Nat) (d : Die) (c : Cluster) (s : State) :
    (startCluster q n d c s).pairMark p = s.pairMark p := by
  rw [startCluster]
  cases refOf s q n c with
  | none => rfl
  | some g =>
    dsimp -zeta only
    by_cases hidle : (isDone s q d c || (s.cluster d c).waitFault || clockOff s d) = true
    · rw [if_pos hidle]
    · rw [if_neg hidle]
      extract_lets dir u y
      have hu : u.pairMark p = s.pairMark p := pairMark_onCluster ..
      have hy : y.pairMark p = s.pairMark p := (pairMark_forAll (fun n t => pairMark_onUnit d c n _ t) u).trans hu
      split
      · rw [pairMark_store, hy]
      · exact hy

theorem startBeat_pairMark (q : Part) (k : BeatKind) (s : State) : (startBeat q k s).pairMark p = s.pairMark p := by
  unfold startBeat
  extract_lets v w
  have hv : v.pairMark p = s.pairMark p := pairMark_onImg ..
  have hw : w.pairMark p = s.pairMark p := (pairMark_forAll (fun (_, d, c) t => quietCluster_pairMark q d c t) v).trans hv
  split
  · exact (pairMark_forAll (fun (n, d, c) t => startCluster_pairMark q n d c t) w).trans hw
  · exact hw

theorem startReplayBeat_pairMark (q : Part) (n : Nat) (s : State) : (startReplayBeat q n s).pairMark p = s.pairMark p := by
  unfold startReplayBeat
  extract_lets k v
  have hv : v.pairMark p = s.pairMark p := by
    simp only [v]
    split
    · rw [switchJob_pairMark, pairMark_onImg]
    · rfl
  rw [startBeat_pairMark, hv]

theorem muteOthers_pairMark (q : Part) (l : List (U32 × U8)) (s : State) : (muteOthers q l s).pairMark p = s.pairMark p := by
  unfold muteOthers
  exact pairMark_onPart _ (fun _ => by rfl) s

theorem beginReplay_pairMark (q : Part) (c : Checkpoint) (stop : Nat) (s : State) :
    (beginReplay q c stop s).pairMark p = s.pairMark p := by
  unfold beginReplay
  extract_lets v w x owed
  have hv : v.pairMark p = s.pairMark p := restore_pairMark ..
  have hw : w.pairMark p = v.pairMark p := pairMark_onTwin _ (fun _ => by rfl) v
  have hx : x.pairMark p = w.pairMark p := pairMark_onTwin _ (fun _ => by rfl) w
  rw [startReplayBeat_pairMark, muteOthers_pairMark, hx, hw, hv]

/-! ### A divergence (R267) -/

/-- A divergence is counted; with no checkpoint to go back to, the pair stops comparing. -/
theorem diverge_counts (p : Part) (b : Nat) (s : State) : ((diverge p b s).part p).twin.divergences = sat32 (s.part p).twin.divergences
    ∧ ((s.part p).twin.ckpt = none → ((diverge p b s).part p).twin.phase = .diverged) := by
  unfold diverge
  extract_lets v u w
  have hv : (v.part p).twin = { (s.part p).twin with divergences := sat32 (s.part p).twin.divergences } := by
    simp only [v]; rw [State.part_onTwin]
  obtain ⟨_, _, _, _, _, hu⟩ := (logKeeps_postBoth p .twin .twinDiverged .error (p.val ||| (v.part p).twin.peerMember <<< 3)
    (detail 2 b) v).twin
  have hw : w.divergences = sat32 (s.part p).twin.divergences ∧ w.ckpt = (s.part p).twin.ckpt := by
    have htwin : w = _ := hu
    rw [htwin, hv]
    exact ⟨rfl, rfl⟩
  obtain ⟨hphase, hcount⟩ := pairMark_eq_iff.mp (secondDivergence_pairMark p u)
  split
  · next c hc =>
    have hnone : (s.part p).twin.ckpt ≠ none := by rw [← hw.2, hc]; exact Option.some_ne_none c
    refine ⟨?_, fun h => absurd h hnone⟩
    split
    · exact hcount.trans hw.1
    · obtain ⟨_, hreplay⟩ := pairMark_eq_iff.mp (beginReplay_pairMark (p := p) p c b
        (State.onTwin p (fun w => { w with phase := .replaying }) u))
      rw [hreplay, State.pairMark, State.part_onTwin]
      exact hw.1
  · exact ⟨hcount.trans hw.1, fun _ => hphase⟩

theorem execOrderMissing_diverges {b : U64} {l : List OrderEntry} (hsilent : (s.part p).silent = true)
    (hphase : (s.part p).twin.phase = .bound)
    (horder : (s.part p).twin.orders.find? (fun o => o.1 == b.toNat) = some (b.toNat, l))
    (hlate : b.toNat + (s.part p).twin.orderDelay < s.sys.beat) (hmiss : ∃ e ∈ l, hasEntry (s.part p).twin e = false) :
    ∃ t, exec (.orderMissing p b) s = .next t ∧ (t.part p).twin.divergences = sat32 (s.part p).twin.divergences
      ∧ ((s.part p).twin.ckpt = none → (t.part p).twin.phase = .diverged) := by
  let v := stampOrder p (b.toNat, l.filter (hasEntry (s.twin p)))
    (State.onTwin p (fun w => { w with orders := w.orders.erase (b.toNat, l) }) s)
  have hall : l.all (hasEntry (s.twin p)) = false := by
    obtain ⟨e, he, hno⟩ := hmiss
    rw [List.all_eq_false]
    exact ⟨e, he, by rw [State.twin, hno]; exact Bool.false_ne_true⟩
  have hexec : exec (.orderMissing p b) s = .next (diverge p (s.sys.beat - 1) v) := by
    change execOrderMissing p b s = _
    have hfind : (s.twin p).orders.find? (fun o => o.1 == b.toNat) = some (b.toNat, l) := horder
    have hbound : (s.twin p).phase = .bound := hphase
    have hdue : decide (b.toNat + (s.twin p).orderDelay < s.sys.beat) = true := decide_eq_true hlate
    simp only [execOrderMissing, hfind, hsilent, hbound, hdue, hall, beq_self_eq_true, Bool.and_self, Bool.not_false, if_true]
    rfl
  have hv : Stamps p s v := (stamps_dropOrders (·.erase (b.toNat, l)) rfl s).trans (stamps_stampOrder ..)
  obtain ⟨_, _, _, _, _, _, _, _, htwin⟩ := hv.twin
  obtain ⟨hcount, hdiverged⟩ := diverge_counts p (s.sys.beat - 1) v
  exact ⟨_, hexec, hcount.trans (by rw [htwin]), fun h => hdiverged (by rw [htwin]; exact h)⟩

end

end Sys2Proof.Machine
end

section
/-! PROOFS. NOISE and RELEASE between twins (R41, R42, R263). -/

namespace Sys2Proof.Machine
set_option Elab.async false

section
variable {p : Part} {k : Ctx} {s t : State}

/-- Each of the twins' messages with a reserved byte set does nothing (R417). -/
theorem twinMessages_discarded {h : TwinHead} (hr : h.reserved.all (· == 0) = false) :
    (∀ b f, exec (.twinFp h b f) s = .next s ∧ exec (.twinRelease h b f) s = .next s) ∧
    (∀ b l, exec (.twinOrder h b l) s = .next s ∧ exec (.twinNeed h b l) s = .next s) ∧
    (∀ b e tag x, exec (.twinFwd h b e tag x) s = .next s) ∧ (∀ id x, exec (.twinNoise h id x) s = .next s) ∧
    ∀ b c, exec (.twinCkpt h b c) s = .next s := by
  refine ⟨fun b f => ⟨?_, ?_⟩, fun b l => ⟨?_, ?_⟩, fun b e tag x => ?_, fun id x => ?_, fun b c => ?_⟩
  · change execTwinFp h b f s = _; rw [execTwinFp, twinMessage_discarded hr]
  · change execTwinRelease h b f s = _; rw [execTwinRelease, twinMessage_discarded hr]
  · change execTwinOrder h b l s = _; rw [execTwinOrder, twinMessage_discarded hr]
  · change execTwinNeed h b l s = _; rw [execTwinNeed, twinMessage_discarded hr]
  · change execTwinFwd h b e tag x s = _; rw [execTwinFwd, twinMessage_discarded hr]
  · change execTwinNoise h id x s = _; rw [execTwinNoise, twinMessage_discarded hr]
  · change execTwinCkpt h b c s = _; rw [execTwinCkpt, twinMessage_discarded hr]

/-! ### NOISE (R263) -/

theorem roundCtx_congr (h : ∀ j, t.ctx p j = s.ctx p j) (id : Nat) : roundCtx t p id = roundCtx s p id := by
  rw [roundCtx, roundCtx]
  simp only [h]

/-- The seed of the release is formed from the contributions at hand, and step 2 runs (R263, R320). -/
theorem formSeed_runs (p : Part) (k : Ctx) (s : State) : (formSeed p k s).mem = s.mem
    ∧ ((formSeed p k s).ctx p k).partnerNoise = (s.ctx p k).partnerNoise ∧ ((formSeed p k s).ctx p k).finStep = .pipeline
    ∧ ((formSeed p k s).ctx p k).release.key ≠ none := by
  unfold formSeed seedRelease
  extract_lets c own other
  rw [State.ctx_onCtx]
  exact ⟨rfl, rfl, rfl, Option.some_ne_none _⟩

theorem execTwinNoise_none {r : Bytes} {id : U64} {x : U256} (hr : r.all (· == 0) = true) (hctx : roundCtx s p id.toNat = none) :
    exec (.twinNoise ⟨p, r⟩ id x) s = .next s := by
  change execTwinNoise ⟨p, r⟩ id x s = _
  simp only [execTwinNoise, twinMessage_taken hr, hctx]

theorem execTwinNoise_gives {r : Bytes} {id : U64} {x : U256} (hr : r.all (· == 0) = true) (hctx : roundCtx s p id.toNat = some k) :
    ∃ t, exec (.twinNoise ⟨p, r⟩ id x) s = .next t ∧ (t.ctx p k).partnerNoise = some x ∧ t.mem = s.mem
      ∧ ((s.ctx p k).phase = .finalizing → (s.ctx p k).finStep = .waitNoise → (s.ctx p k).ownNoise ≠ none →
          (t.ctx p k).finStep = .pipeline ∧ (t.ctx p k).release.key ≠ none) := by
  let waits := (s.ctx p k).phase == .finalizing && (s.ctx p k).finStep == .waitNoise && (s.ctx p k).ownNoise.isSome
  let answers := (s.ctx p k).ownNoise.isSome && ((s.ctx p k).partnerNoise != some x || (s.ctx p k).phase != .finalizing)
  let v := when answers (sendNoise p k) (State.onCtx p k (fun c => { c with partnerNoise := some x }) s)
  have hexec : exec (.twinNoise ⟨p, r⟩ id x) s = .next (when waits (formSeed p k) v) := by
    change execTwinNoise ⟨p, r⟩ id x s = _
    simp only [execTwinNoise, twinMessage_taken hr, hctx]
    rfl
  have hv : SendKeeps (State.onCtx p k (fun c => { c with partnerNoise := some x }) s) v :=
    when_keeps (SendKeeps _) answers _ _ (.refl _) (sendKeeps_sendNoise ..)
  have hnoise : (v.ctx p k).partnerNoise = some x := by rw [hv.ctx, State.ctx_onCtx]
  have hmem : v.mem = s.mem := hv.mem
  obtain ⟨hsmem, hsnoise, hsstep, hskey⟩ := formSeed_runs p k v
  cases hw : waits with
  | true =>
    rw [hw, when_true] at hexec
    exact ⟨_, hexec, hsnoise.trans hnoise, hsmem.trans hmem, fun _ _ _ => ⟨hsstep, hskey⟩⟩
  | false =>
    rw [hw, when_false] at hexec
    refine ⟨_, hexec, hnoise, hmem, fun hphase hstep hown => ?_⟩
    have hwait : waits = true := by
      simp only [waits, hphase, hstep, Option.isSome_iff_ne_none.mpr hown, beq_self_eq_true, Bool.and_self]
    exact Bool.noConfusion (hw.symm.trans hwait)

/-! ### The comparison of release fingerprints (R41) -/

/-- Judging an entry changes the ledger, and posts an event. -/
theorem judgeEntry_mem (p : Part) (k : Ctx) (key : U128) (s : State) : (judgeEntry p k key s).mem = s.mem := by
  rw [judgeEntry]
  split
  · rfl
  · exact post_mem ..

theorem record_key (r : BufRec) (s : State) : (record r s).key = s.key := rfl

theorem post_key (fn : Fn) (cls : EventClass) (st : Status) (sev : Severity) (source : Nat) (det : U64) (s : State) :
    (post fn cls st sev source det s).key = s.key := by
  rw [post, record_key, State.onHif_key]

/-- The ledger after judging an entry depends on the ledger alone. -/
theorem judgeEntry_ledger_congr (h : t.key = s.key) (key : U128) :
    (judgeEntry p k key t).key.vbat.ledger = (judgeEntry p k key s).key.vbat.ledger := by
  rw [judgeEntry, judgeEntry, h]
  split
  · rw [h]
  · rw [postRound, post_key, postRound, post_key]
    rw [onLedger, onLedger, State.onKey_key, State.onKey_key, h]

theorem roundKeeps_replaying {t : State} (h : RoundKeeps p k s t) : (t.part p).twin.replaying = (s.part p).twin.replaying := by
  obtain ⟨_, _, _, ht⟩ := h.twin
  rw [ht]; rfl

/-- With an entry that can take the round, the ledger marks it and the slot write begins (R40, R42). -/
theorem ledgerStep_writes (hreplay : (s.part p).twin.replaying = false)
    (husable : ledgerUsable (judgeEntry p k (s.ctx p k).policy.signer s) (s.ctx p k).policy.signer (s.ctx p k).policy.roundId = true) :
    ((ledgerStep p k s).ctx p k).finStep = .writing
      ∧ ledgerRecorded (ledgerStep p k s) (s.ctx p k).policy.signer (s.ctx p k).policy.roundId = true
      ∧ (ledgerStep p k s).mem = s.mem := by
  have hjudge := roundKeeps_judgeEntry p k (s.ctx p k).policy.signer s
  have hnot : replayedRelease (judgeEntry p k (s.ctx p k).policy.signer s) p k = false := by
    rw [replayedRelease, roundKeeps_replaying hjudge, hreplay, Bool.false_and]
  have hstep : ledgerStep p k s = State.onCtx p k (fun c => { c with finStep := .writing })
      (ledgerMark (s.ctx p k).policy.signer (s.ctx p k).policy.roundId (judgeEntry p k (s.ctx p k).policy.signer s)) := by
    simp only [ledgerStep, hnot, husable, Bool.false_eq_true, if_false, if_true]
  rw [hstep]
  refine ⟨by rw [State.ctx_onCtx], ?_, ?_⟩
  · have hmark := ledgerUsable_ledgerMark husable
    generalize ledgerMark (s.ctx p k).policy.signer (s.ctx p k).policy.roundId (judgeEntry p k (s.ctx p k).policy.signer s) = v at hmark
    rw [ledgerRecorded, Bool.not_eq_true']
    exact (ledgerUsable_congr rfl _ _).trans hmark
  · rw [State.onCtx_mem, ledgerMark_frame]; exact judgeEntry_mem ..

/-! ### A finalize that fails, whether or not its header can be written -/

/-- An operation that leaves the keys and the step of the round's release. -/
structure StepKeeps (p : Part) (k : Ctx) (s t : State) : Prop where
  key : t.key = s.key
  finStep : (t.ctx p k).finStep = (s.ctx p k).finStep

theorem StepKeeps.refl (p : Part) (k : Ctx) (s : State) : StepKeeps p k s s := ⟨rfl, rfl⟩

theorem StepKeeps.trans {u : State} (h : StepKeeps p k s t) (g : StepKeeps p k t u) : StepKeeps p k s u :=
  ⟨g.key.trans h.key, g.finStep.trans h.finStep⟩

theorem stepKeeps_onCtx (f : RoundCtx → RoundCtx) (hf : ∀ c, (f c).finStep = c.finStep) (s : State) :
    StepKeeps p k s (State.onCtx p k f s) := ⟨rfl, by rw [State.ctx_onCtx, hf]⟩

theorem stepKeeps_post (fn : Fn) (cls : EventClass) (st : Status) (sev : Severity) (source : Nat) (det : U64) (s : State) :
    StepKeeps p k s (post fn cls st sev source det s) := ⟨post_key .., by rw [ctx_post]⟩

theorem stepKeeps_onMem (f : PartMem → PartMem) (s : State) : StepKeeps p k s (State.onMem p f s) := ⟨rfl, by rw [ctx_onMem]⟩

theorem stepKeeps_writeVA (q : Part) (va : Nat) (b : Bytes) (perm : Nat) (x : Bool) (s : State) :
    StepKeeps p k s (writeVA q va b perm x s) := by
  refine ⟨?_, by rw [ctx_of_parts (writeVA_parts ..)]⟩
  refine forAll_keeps (fun t => t.key = s.key) _ (fun x t => _) s rfl fun (a, n) _ t ht => ?_
  dsimp only
  split
  · exact ht
  · exact ht

theorem stepKeeps_postFault (va agent access : Nat) (cause : Status) (resume : Bool) (source : Nat) (who : FaultAgent) (s : State) :
    StepKeeps p k s (postFault p va agent access cause resume source who s).1 := by
  unfold postFault
  extract_lets m h page
  split
  · exact .refl p k s
  · split
    · exact .refl p k s
    · split
      · exact ⟨rfl, by rw [ctx_onPart_same s p _ (fun _ => by rfl)]⟩
      · split
        · dsimp only
          exact stepKeeps_onMem ..
        · dsimp only
          split
          · exact ((stepKeeps_onMem ..).trans (stepKeeps_post ..)).trans (stepKeeps_post ..)
          · exact stepKeeps_onMem ..

theorem stepKeeps_writeHeader (p : Part) (k : Ctx) (s : State) : StepKeeps p k s (writeHeader p k s).1 := by
  have hwrite (va len x : Nat) (b : Bytes) (a : Option Nat) : StepKeeps p k s
      (State.onCtx p k (fun c => { c with writeAt := a }) (writeVA p x b 4 false (noteWalks p .pcie va len s))) :=
    ((stepKeeps_onMem ..).trans (stepKeeps_writeVA ..)).trans (stepKeeps_onCtx _ (fun _ => by rfl) _)
  unfold writeHeader releaseWrite releaseRange
  split
  · exact .refl p k s
  · split
    · exact .refl p k s
    · extract_lets at_ v
      split
      · exact hwrite ..
      · dsimp only
        refine StepKeeps.trans ?_ (stepKeeps_postFault ..)
        exact hwrite ..

theorem stepKeeps_complete (c : Cmd) (op : Nat) (st : Status) (aux result : Nat) (s : State) :
    StepKeeps p k s (complete c op st aux result s) := by
  refine ⟨?_, by rw [ctx_complete]⟩
  rcases complete_cases c op st aux result s with h | ⟨_, _, _, h⟩ | ⟨_, _, _, h⟩ <;> rw [h]
  · exact State.onHif_key ..
  · rfl

theorem stepKeeps_holdRound (p : Part) (k : Ctx) (cause : HoldCause) (s : State) : StepKeeps p k s (holdRound p k cause s) := by
  unfold holdRound
  extract_lets c s'
  have hs' : StepKeeps p k s s' := stepKeeps_onCtx (fun c => { c with phase := .held, holdCause := cause }) (fun _ => rfl) s
  split
  · exact hs'
  · exact hs'.trans (stepKeeps_post ..)

theorem stepKeeps_finishFinalize (p : Part) (k : Ctx) (st : Status) (result : Nat) (s : State) :
    StepKeeps p k s (finishFinalize p k st result s) := by
  rw [finishFinalize]
  split
  · exact (stepKeeps_onCtx _ (fun _ => by rfl) s).trans (stepKeeps_complete ..)
  · exact stepKeeps_onCtx _ (fun _ => by rfl) s

/-- What follows the header of a failed finalize leaves the keys, and no step of the release. -/
theorem headerDone_failHeader_idle (cause : HoldCause) (st : Status) (s : State) :
    (headerDone p k (.failHeader cause st) s).key = s.key ∧ ((headerDone p k (.failHeader cause st) s).ctx p k).finStep = .idle := by
  let v := cancelNoise p k (State.onCtx p k RoundCtx.discarded (dropStaging p k (setWait p k .none s)))
  have hdone : headerDone p k (.failHeader cause st) s = finishFinalize p k st 0 (holdRound p k cause v) := rfl
  have hkeeps := (stepKeeps_holdRound p k cause v).trans (stepKeeps_finishFinalize p k st 0 _)
  have hv : (v.ctx p k).finStep = .idle := by
    simp only [v, ctx_cancelNoise, State.ctx_onCtx]
    rfl
  rw [hdone]
  exact ⟨hkeeps.key, hkeeps.finStep.trans hv⟩

theorem failFinalize_idle (p : Part) (k : Ctx) (cause : HoldCause) (st : Status) (s : State) :
    (failFinalize p k cause st s).key = s.key ∧ ((failFinalize p k cause st s).ctx p k).finStep = .idle := by
  have hwait : StepKeeps p k (failing p k st s) (setWait p k (.failHeader cause st) (failing p k st s)) :=
    stepKeeps_onCtx _ (fun _ => by rfl) _
  have hwrite := hwait.trans (stepKeeps_writeHeader p k _)
  have hkey : (failing p k st s).key = s.key := rfl
  have hidle : ((failing p k st s).ctx p k).finStep = .idle := by rw [ctx_failing]; rfl
  rw [failFinalize_eq, tryHeader]
  split
  · obtain ⟨hdkey, hdidle⟩ := headerDone_failHeader_idle (p := p) (k := k) cause st (failing p k st s)
    exact ⟨hdkey.trans hkey, hdidle⟩
  · split
    · next u h =>
      rw [h] at hwrite
      obtain ⟨hdkey, hdidle⟩ := headerDone_failHeader_idle (p := p) (k := k) cause st u
      exact ⟨(hdkey.trans hwrite.key).trans hkey, hdidle⟩
    · next u h =>
      rw [h] at hwrite
      exact ⟨hwrite.key.trans hkey, hwrite.finStep.trans hidle⟩

/-! ### RELEASE (R41) -/

/-- A partner's fingerprint of a round that waits for it is compared at once, after the answer to it where there is one. -/
theorem execTwinRelease_compares {r : Bytes} {id : U64} {f own : U128} (hr : r.all (· == 0) = true)
    (hctx : roundCtx s p id.toNat = some k) (hphase : (s.ctx p k).phase = .finalizing) (hstep : (s.ctx p k).finStep = .waitTwin)
    (hown : (s.ctx p k).releaseFp = some own) : ∃ v, SendKeeps s v
      ∧ let w := State.onCtx p k (fun c => { c with partnerFp := some f }) v
        exec (.twinRelease ⟨p, r⟩ id f) s = .next (if own = f then ledgerStep p k w else failFinalize p k .diverged .twinDiverged w) := by
  let v := match releasedFp s p id.toNat with
    | some own => twinSend p 6 (s.sys.beat - 1) (leBytes 8 id.toNat ++ zeroBytes 8 ++ beBytes 16 own.toNat) s
    | none => s
  have hv : SendKeeps s v := by
    simp only [v]
    split
    · exact sendKeeps_twinSend ..
    · exact .refl s
  have hexec : exec (.twinRelease ⟨p, r⟩ id f) s = .next (match roundCtx v p id.toNat with
      | none => v
      | some k =>
        let s := State.onCtx p k (fun c => { c with partnerFp := some f }) v
        when ((s.ctx p k).phase == .finalizing && (s.ctx p k).finStep == .waitTwin) (compareRelease p k) s) := by
    change execTwinRelease ⟨p, r⟩ id f s = _
    rw [execTwinRelease]
    exact twinMessage_taken hr _ s
  refine ⟨v, hv, ?_⟩
  extract_lets w
  have hw : w.ctx p k = { s.ctx p k with partnerFp := some f } := by
    simp only [w]
    rw [State.ctx_onCtx, hv.ctx]
  rw [hexec, roundCtx_congr (s := s) (fun j => hv.ctx p j), hctx]
  change Host.Outcome.next (when ((w.ctx p k).phase == .finalizing && (w.ctx p k).finStep == .waitTwin) (compareRelease p k) w) = _
  simp only [compareRelease, hw, hphase, hstep, hown, beq_self_eq_true, Bool.and_self, when_true]

theorem execTwinRelease_settles {r : Bytes} {id : U64} {f own : U128} (hr : r.all (· == 0) = true)
    (hctx : roundCtx s p id.toNat = some k) (hphase : (s.ctx p k).phase = .finalizing) (hstep : (s.ctx p k).finStep = .waitTwin)
    (hown : (s.ctx p k).releaseFp = some own) (hreplay : (s.part p).twin.replaying = false) :
    let q := (s.ctx p k).policy
    (own = f → ledgerUsable (judgeEntry p k q.signer s) q.signer q.roundId = true → ∃ t, exec (.twinRelease ⟨p, r⟩ id f) s = .next t
      ∧ (t.ctx p k).finStep = .writing ∧ ledgerRecorded t q.signer q.roundId = true ∧ t.mem = s.mem) ∧
    (own ≠ f → ∃ t, exec (.twinRelease ⟨p, r⟩ id f) s = .next t ∧ t.key = s.key ∧ (t.ctx p k).finStep = .idle) := by
  obtain ⟨v, hv, hexec⟩ := execTwinRelease_compares (f := f) hr hctx hphase hstep hown
  let w := State.onCtx p k (fun c => { c with partnerFp := some f }) v
  have hw : w.ctx p k = { s.ctx p k with partnerFp := some f } := by
    simp only [w]
    rw [State.ctx_onCtx, hv.ctx]
  have hkey : w.key = s.key := hv.key
  intro q
  refine ⟨fun heq husable => ?_, fun hne => ?_⟩
  · have hreplay' : (w.part p).twin.replaying = false := by
      rw [roundKeeps_replaying (roundKeeps_onCtx p k _ v), hv.twin, hreplay]
    have hpolicy : (w.ctx p k).policy = q := by rw [hw]
    have hledger := ledgerStep_writes (p := p) (k := k) hreplay' (by
      rw [hpolicy, ledgerUsable_congr (judgeEntry_ledger_congr hkey _)]; exact husable)
    obtain ⟨hwriting, hrecorded, hmem⟩ := hledger
    rw [hpolicy] at hrecorded
    exact ⟨_, hexec.trans (by rw [if_pos heq]), hwriting, hrecorded, hmem.trans hv.mem⟩
  · obtain ⟨hfkey, hidle⟩ := failFinalize_idle p k .diverged .twinDiverged w
    exact ⟨_, hexec.trans (by rw [if_neg hne]), hfkey.trans hkey, hidle⟩

end

end Sys2Proof.Machine

open Sys2Proof Sys2Proof.Machine

/-- Settles O50: the twins' messages, each taken by its own rule, and the pair's state through ALONE and through a divergence. -/
theorem twinsExchangeAndCompare : Obligations.TwinsExchangeAndCompare := by
  refine ⟨fun s h hr => twinMessages_discarded hr,
    fun s p r b f hr hbound => ?_,
    fun s p hphase => ⟨execTwinFpTimeout_stays, fun hlate => ⟨_, execTwinFpTimeout_leaves hphase hlate, enterAlone_keeps p s⟩⟩,
    fun s p r b l hr hsilent => ?_,
    fun s p r b e x hr hpair hsilent hphase hbytes hready hseal => execTwinNeed_answers hr hpair hsilent hphase hbytes hready hseal,
    fun s p r b e tag x hr hsilent =>
      ⟨fun hsource => ⟨_, execTwinFwd_fabric hr hsilent hsource, takeForwarded_keeps ..⟩,
        fun hsource => ⟨execTwinFwd_known hr hsilent hsource, fun k va hnew hctx hfree =>
          execTwinFwd_holds hr hsilent hsource hnew hctx hfree⟩⟩,
    fun s p b l hsilent hphase horder hlate hmiss => execOrderMissing_diverges hsilent hphase horder hlate hmiss,
    fun s p => execUnnamedMessageDiscard_drops p s,
    fun s p r id hr => ⟨fun hctx x => execTwinNoise_none hr hctx, fun k x hctx => execTwinNoise_gives hr hctx,
      fun k f own hctx hphase hstep hown hreplay => execTwinRelease_settles hr hctx hphase hstep hown hreplay⟩⟩
  · change execTwinFp ⟨p, r⟩ b f s = _
    rw [execTwinFp, twinMessage_taken hr, hbound, when_true]
  · change execTwinOrder ⟨p, r⟩ b l s = _
    rw [execTwinOrder, twinMessage_taken hr, hsilent, when_true]
end

section
/-! PROOFS. Cluster operations: the word that issues one waits or starts it, and what its start and its end leave alone (R190). -/

namespace Sys2Proof.Machine

section
variable {s t : State} {u : UnitId} {f : OFmt} {valid : Bool}

/-! ### The gate -/

/-- Nothing holds a unit that can issue. -/
theorem CanIssue.gate {sync : Bool} (h : CanIssue s u sync) :
    (!unitReady s u || (sync && !(s.unitOf u).asyncs.isEmpty)) = false := by
  obtain ⟨hready, hsync⟩ := h
  cases sync with
  | false => simp [hready]
  | true => simp [hready, hsync rfl]

theorem CanIssue.clusterRuns {sync : Bool} (h : CanIssue s u sync) : Machine.clusterRuns s u = true := by
  have hready := h.1
  simp only [unitReady, Bool.and_eq_true] at hready
  exact hready.1.1

theorem clusterOp_waits (h : CanIssue s u f.sync) (hv : valid = true) (hw : clusterOpReady (entered u s) u = false)
    (effect : State → State) : clusterOp u f valid effect s = .next (entered u s) := by
  rw [entered] at hw ⊢
  simp only [clusterOp, h.gate, hv, hw, Bool.false_eq_true, Bool.not_true, Bool.not_false, if_false, if_true]

theorem clusterOp_starts (h : StartsClusterOp s u f) (hv : valid = true) (effect : State → State) :
    clusterOp u f valid effect s = .next (resumed u (effect (started u s))) := by
  obtain ⟨hissue, hready⟩ := h
  rw [resumed, started]
  rw [entered] at hready ⊢
  simp only [clusterOp, hissue.gate, hv, hready, Bool.false_eq_true, Bool.not_true, if_false]
  split <;> rfl

/-! ### The start: units meet -/

theorem tfind_map {α : Type} (l : Tbl α) (g : Nat → α → α) (k : Nat) :
    tfind (l.map fun (j, x) => (j, g j x)) k = (tfind l k).map (g k) := by
  induction l with
  | nil => rfl
  | cons a l ih =>
    obtain ⟨j, x⟩ := a
    by_cases h : j = k
    · simp [tfind, h]
    · simp [tfind, h, ih]

/-- Meeting leaves a unit's index registers and its register file. -/
theorem unit_meet (l : List Nat) (s : State) (d : Die) (c : Cluster) (n : UnitIx) :
    ((meet l s).unit d c n).x = (s.unit d c n).x ∧ ((meet l s).unit d c n).work = (s.unit d c n).work := by
  unfold meet State.unit tget
  extract_lets at_ known
  rw [tfind_map s.units (fun k x => { x with written := x.written.map (known k), syncs := if l.contains k then x.syncs + 1 else x.syncs })]
  cases tfind s.units (State.unitKey d c n) with
  | none => exact ⟨rfl, rfl⟩
  | some x => exact ⟨rfl, rfl⟩

/-- The operation's effect begins with the index registers and the register file of the unit as they were. -/
theorem unitOf_started (u : UnitId) (s : State) :
    ((started u s).unitOf u).x = (s.unitOf u).x ∧ ((started u s).unitOf u).work = (s.unitOf u).work := by
  obtain ⟨hx, hwork⟩ := unit_meet (eight u) (entered u s) u.die u.cluster u.unit
  have hunit : (entered u s).unit u.die u.cluster u.unit
      = { s.unitOf u with wait := .clusterOp, clusterOps := (s.unitOf u).clusterOps + 1 } := unit_onUnit ..
  rw [hunit] at hx hwork
  exact ⟨hx, hwork⟩

theorem x_started (u : UnitId) (s : State) (i : BitVec 3) : (started u s).x u i = s.x u i := by
  rw [State.x, (unitOf_started u s).1, State.x]

theorem modEntry_started (u : UnitId) (s : State) (n : Nat) : modEntry (started u s) u n = modEntry s u n := by
  rw [modEntry, (unitOf_started u s).2, modEntry]
  rfl

theorem onlyWork_started (u : UnitId) (s : State) : OnlyWork s (started u s) := rfl

theorem OnlyWork.trans {w : State} (h : OnlyWork s t) (g : OnlyWork t w) : OnlyWork s w := by rw [OnlyWork, g, h]

/-! ### The end: the eight units go on -/

/-- Units that are let go wait for nothing. -/
theorem wait_forAll_none {l : List UnitIx} {n : UnitIx} (hn : n ∈ l) (u : UnitId) (s : State) :
    ((forAll (l.map fun m => { u with unit := m }) (fun v => onUnitOf v fun x => { x.next with wait := .none }) s).unit
      u.die u.cluster n).wait = .none := by
  induction l generalizing s with
  | nil => cases hn
  | cons m l ih =>
    rw [List.map_cons, forAll_cons]
    by_cases hl : n ∈ l
    · exact ih hl _
    · obtain rfl : n = m := (List.mem_cons.mp hn).resolve_right hl
      refine forAll_keeps (fun t => (t.unit u.die u.cluster n).wait = .none) _ _ _ ?_ fun v _ t ht => ?_
      · exact congrArg UnitState.wait (unit_onUnit s u.die u.cluster n _)
      · by_cases hv : v.die = u.die ∧ v.cluster = u.cluster ∧ v.unit = n
        · obtain ⟨hd, hc, hu⟩ := hv
          rw [onUnitOf, ← hd, ← hc, ← hu, unit_onUnit]
        · rw [onUnitOf, unit_onUnit_other t v.die u.die v.cluster u.cluster v.unit n _ (by
            by_contra hall
            push Not at hall
            exact hv ⟨hall.1.symm, hall.2.1.symm, hall.2.2.symm⟩)]
          exact ht

/-- A cluster that still runs after its operation lets the eight units go on, and nothing else changes. -/
theorem resumed_runs (h : clusterRuns t u = true) : AllGoOn u (resumed u t) ∧ resumed u t = { t with units := (resumed u t).units } := by
  have ha : (t.clusterOf u).aborted = false := by
    simp only [clusterRuns, Bool.and_eq_true, Bool.not_eq_true'] at h
    exact h.1.2
  rw [resumed, if_neg (by rw [ha]; exact Bool.false_ne_true)]
  refine ⟨fun n => wait_forAll_none (List.mem_finRange n) u _, ?_⟩
  exact forAll_keeps (fun w => w = { t with units := w.units }) _ _ (meet (eight u) t) rfl fun v _ w hw => by rw [hw]; rfl

end

end Sys2Proof.Machine
end

section
/-! PROOFS. Reads and writes that a unit makes inside one clean page: no fault, no free bytes, and one range of memory changes
(R158, R191 to R193, R199). -/

namespace Sys2Proof.Machine

section
variable {s t : State} {p : Part} {u : UnitId} {va n k perm : Nat} {b : Bytes}

/-! ### One page -/

theorem pageSplit_onePage (hn : 0 < n) (hpage : va % 2 ^ 16 + n ≤ 2 ^ 16) : pageSplit va n = [(va, n)] := by
  have hmin : min n (2 ^ 16 - va % 2 ^ 16) = n := by omega
  rw [pageSplit, pieces, if_neg (by omega)]
  simp only [hmin]
  rw [pieces, if_pos (Nat.sub_self n)]

/-- An access outside the registers' window that need not lie in the unit's own slice faults as any access does. -/
theorem unitFault_eq_firstFault (s : State) (u : UnitId) (hva : va / 2 ^ 56 ≠ 0xFE) :
    unitFault s u false va n perm = firstFault s u.part va n perm := by
  rw [unitFault, if_neg hva, firstFault]
  congr 1
  funext m
  dsimp only
  cases s.translate u.part (max va (m * 2 ^ 16)) perm with
  | error e => rfl
  | ok key => cases s.leafAt u.part (max va (m * 2 ^ 16)) <;> rfl

theorem unitFault_onePage (hpage : va % 2 ^ 16 + n ≤ 2 ^ 16) (hk : s.translate u.part va perm = .ok k) :
    unitFault s u false va n perm = none := by
  obtain ⟨hva, _⟩ := translate_eq_ok_iff.mp hk
  rw [unitFault_eq_firstFault s u (by omega), firstFault_onePage hpage hk]

/-! ### What an access leaves alone -/

/-- Only what walks of a partition's pages and reads note differs: its cached translations, and the lines met in error. -/
structure OnlyWalks (p : Part) (s t : State) : Prop where
  slot : SlotKeeps p s t
  frame : t = { s with parts := t.parts, mem := { s.mem with met := t.mem.met } }
  own : t.part p = { s.part p with mem := (t.part p).mem }
  other : ∀ q, q ≠ p → t.part q = s.part q

theorem OnlyWalks.refl (p : Part) (s : State) : OnlyWalks p s s := ⟨.refl p s, rfl, rfl, fun _ _ => rfl⟩

theorem OnlyWalks.trans {w : State} (h : OnlyWalks p s t) (g : OnlyWalks p t w) : OnlyWalks p s w :=
  ⟨h.slot.trans g.slot, by rw [g.frame, h.frame], by rw [g.own, h.own], fun q hq => (g.other q hq).trans (h.other q hq)⟩

theorem onlyWalks_noteWalks (p : Part) (c : XCache) (va n : Nat) (s : State) : OnlyWalks p s (noteWalks p c va n s) :=
  ⟨(roundKeeps_noteWalks p 0 c va n s).toSlotKeeps, rfl, by rw [noteWalks, State.part_onMem],
    fun q hq => State.part_onPart_other s p q _ hq⟩

theorem onlyWalks_noteRead (p : Part) (k n : Nat) (s : State) : OnlyWalks p s (s.noteRead k n) := by
  unfold State.noteRead
  split
  · exact .refl p s
  · exact ⟨{ SlotKeeps.refl p s with }, rfl, rfl, fun _ _ => rfl⟩

theorem OnlyWalks.bytesAt (h : OnlyWalks p s t) (k n : Nat) : t.bytesAt k n = s.bytesAt k n := by rw [h.frame]; rfl

theorem OnlyWalks.byteAt (h : OnlyWalks p s t) (a : Nat) : t.byteAt a = s.byteAt a := by rw [h.frame]; rfl

theorem OnlyWalks.wf (h : OnlyWalks p s t) (hw : Memory.wf s.mem = true) : Memory.wf t.mem = true := by rw [h.frame]; exact hw

theorem OnlyWalks.poisonedAt (h : OnlyWalks p s t) (k n : Nat) : t.poisonedAt k n = s.poisonedAt k n := by rw [h.frame]; rfl

theorem OnlyWalks.clusterRuns (h : OnlyWalks p s t) (v : UnitId) : Machine.clusterRuns t v = Machine.clusterRuns s v := by
  rw [h.frame]; rfl

theorem OnlyWalks.clusterOf (h : OnlyWalks p s t) (v : UnitId) : t.clusterOf v = s.clusterOf v := by rw [h.frame]; rfl

theorem OnlyWalks.onlyWork (h : OnlyWalks p s t) : OnlyWork s t := by rw [OnlyWork, h.frame]

theorem OnlyWalks.raced (h : OnlyWalks p s t) (v : UnitId) : Machine.raced t v = Machine.raced s v := by rw [h.frame]; rfl

theorem OnlyWalks.readable (h : OnlyWalks u.part s t) (hr : Readable s u va n k) : Readable t u va n k := by
  obtain ⟨hpage, hk, hend, hclean, hrace⟩ := hr
  exact ⟨hpage, h.slot.translate hk, hend, by rw [h.poisonedAt, hclean], by rw [h.raced, hrace]⟩

theorem OnlyWalks.writable (h : OnlyWalks u.part s t) (hw : Writable s u va n k) : Writable t u va n k := by
  obtain ⟨hpage, hk, hend, hroom, hrace⟩ := hw
  exact ⟨hpage, h.slot.translate hk, hend, by rw [h.clusterOf]; exact hroom, by rw [h.raced, hrace]⟩

/-! ### Reads -/

theorem unitBytes_unraced (h : (linesOf k n).any (raced s u) = false) : unitBytes u k n s = (s, s.bytesAt k n) := by
  simp only [unitBytes, h, Bool.false_eq_true, if_false]

/-- A readable range is read as it stands, clean. -/
theorem unitRead_readable (hn : 0 < n) (h : Readable s u va n k) :
    ∃ t, unitRead u false va n s = (t, some (s.bytesAt k n, false)) ∧ OnlyWalks u.part s t := by
  have hwalk := onlyWalks_noteWalks u.part (.region u.die (regionOfUnit u)) va (boundLen va n) s
  rw [unitRead]
  generalize noteWalks u.part (.region u.die (regionOfUnit u)) va (boundLen va n) s = w at hwalk
  have hread := hwalk.trans (onlyWalks_noteRead u.part k n w)
  obtain ⟨hpage, hk, hend, hclean, -⟩ := hwalk.readable h
  obtain ⟨-, -, -, -, hrace⟩ := hread.readable h
  refine ⟨w.noteRead k n, ?_, hread⟩
  simp only [unitFault_onePage hpage hk, pageSplit_onePage hn hpage, List.foldl_cons, List.foldl_nil, hk,
    if_neg (show ¬ 2 ^ 64 ≤ k by omega), unitBytes_unraced hrace, List.nil_append, Bool.false_or, hclean, hread.bytesAt]

/-! ### Writes -/

theorem insertSet_length_le (l : List Nat) (k : Nat) : (insertSet l k).length ≤ l.length + 1 := by
  induction l with
  | nil => exact Nat.le_refl 1
  | cons j l ih =>
    rw [insertSet]
    split
    · exact Nat.le_succ _
    · split
      · exact Nat.le_refl _
      · exact Nat.succ_le_succ ih

theorem foldl_insertSet_length_le (ls l : List Nat) : (ls.foldl insertSet l).length ≤ l.length + ls.length := by
  induction ls generalizing l with
  | nil => exact Nat.le_refl _
  | cons k ls ih =>
    have hput := insertSet_length_le l k
    have hrest := ih (insertSet l k)
    rw [List.foldl_cons, List.length_cons]
    omega

theorem linesOf_length_le (k n : Nat) : (linesOf k n).length ≤ n / 64 + 2 := by
  unfold linesOf lineOf
  split
  · exact Nat.zero_le _
  · rw [List.length_map, List.length_range]
    omega

/-- What a clean write of one range by a running unit leaves: the bytes stand at the key, nothing else in memory has other
bytes, and the cluster still runs. -/
structure Wrote (u : UnitId) (k : Nat) (b : Bytes) (s t : State) : Prop where
  only : OnlyWork s t
  bytes : t.bytesAt k b.length = b
  outside : KeepsBytesOutside k b.length s t
  runs : clusterRuns t u = true

theorem OnlyWalks.thenWrote {w : State} (h : OnlyWalks p s t) (g : Wrote u k b t w) : Wrote u k b s w :=
  ⟨h.onlyWork.trans g.only, g.bytes, fun a ha => (g.outside a ha).trans (h.byteAt a), g.runs⟩

/-- A cluster whose journal has taken the old bytes and marks of a range (R158). -/
def ClusterRun.noting (s : State) (k n : Nat) (r : ClusterRun) : ClusterRun :=
  { r with
    journal := ((List.range n).map fun i => (k + i, s.byteAt (k + i))).reverse ++ r.journal
    journalPoison := ((linesOf k n).map fun l => (l, s.mem.poison.contains l)) ++ r.journalPoison
    journalLines := (linesOf k n).foldl insertSet r.journalLines }

/-- A journal with room takes the old bytes, and the new ones are stored. -/
theorem journalWrite_eq (x : Bool) (hroom : (s.clusterOf u).journalLines.length + b.length / 64 + 2 ≤ 16384) :
    journalWrite u.die u.cluster k b x s = (s.onCluster u.die u.cluster (ClusterRun.noting s k b.length)).store k b x := by
  have hat : ((s.onCluster u.die u.cluster (ClusterRun.noting s k b.length)).store k b x).cluster u.die u.cluster
      = ClusterRun.noting s k b.length (s.clusterOf u) := cluster_onCluster ..
  have hput := foldl_insertSet_length_le (linesOf k b.length) (s.clusterOf u).journalLines
  have hcount := linesOf_length_le k b.length
  refine if_neg ?_
  change ¬ journalLimit < (((s.onCluster u.die u.cluster (ClusterRun.noting s k b.length)).store k b x).cluster
    u.die u.cluster).journalLines.length
  rw [hat, journalLimit, ClusterRun.noting]
  dsimp only
  omega

theorem journalWrite_wrote (hroom : (s.clusterOf u).journalLines.length + b.length / 64 + 2 ≤ 16384) (hw : Memory.wf s.mem = true)
    (hruns : clusterRuns s u = true) : Wrote u k b s (journalWrite u.die u.cluster k b false s) := by
  rw [journalWrite_eq false hroom]
  refine ⟨rfl, bytesAt_store_same k b hw, fun a ha => byteAt_store_outside _ k a b false ha, ?_⟩
  have hat : ((s.onCluster u.die u.cluster (ClusterRun.noting s k b.length)).store k b false).clusterOf u
      = ClusterRun.noting s k b.length (s.clusterOf u) := cluster_onCluster ..
  rw [clusterRuns, hat]
  exact hruns

/-- Where no other unit has written the lines, a unit's store is its journal's write; the unit notes the lines. -/
theorem unitStore_unraced (hrace : (linesOf k b.length).any (raced s u) = false)
    (h : Wrote u k b s (journalWrite u.die u.cluster k b false s)) : Wrote u k b s (unitStore u k b false s) := by
  have hnone : (linesOf k b.length).filter (raced s u) = [] := by
    rw [List.filter_eq_nil_iff]
    rw [List.any_eq_false] at hrace
    exact hrace
  rw [unitStore]
  simp only [hnone, List.foldl_nil, h.runs, if_true]
  exact ⟨h.only.trans rfl, h.bytes, h.outside, h.runs⟩

/-- A writable range takes the bytes, and a running cluster goes on. -/
theorem unitWrite_writable (hn : 0 < b.length) (h : Writable s u va b.length k) (hw : Memory.wf s.mem = true)
    (hruns : clusterRuns s u = true) : Wrote u k b s (unitWrite u false va b false s) := by
  have hwalk := onlyWalks_noteWalks u.part (.region u.die (regionOfUnit u)) va (boundLen va b.length) s
  rw [unitWrite]
  generalize noteWalks u.part (.region u.die (regionOfUnit u)) va (boundLen va b.length) s = w at hwalk
  obtain ⟨hpage, hk, -, hroom, hrace⟩ := hwalk.writable h
  have hwruns : clusterRuns w u = true := (hwalk.clusterRuns u).trans hruns
  have hstore := unitStore_unraced hrace (journalWrite_wrote (k := k) hroom (hwalk.wf hw) hwruns)
  simp only [unitFault_onePage hpage hk, pageSplit_onePage hn hpage, List.foldl_cons, List.foldl_nil, hk, hwruns, Bool.not_true,
    Bool.false_eq_true, if_false, Nat.sub_self, List.drop_zero, List.take_length]
  refine hwalk.thenWrote ?_
  split
  · exact hstore
  · exact ⟨hstore.only.trans rfl, hstore.bytes, hstore.outside, hstore.runs⟩

/-! ### Cluster operations that write one range -/

/-- A cluster operation whose effect writes one range leaves the bytes there, and the eight units go on. -/
theorem clusterOp_wrote {f : OFmt} {valid : Bool} {effect : State → State} (h : StartsClusterOp s u f) (hv : valid = true)
    (hn : b.length = n) (hw : Wrote u k b (started u s) (effect (started u s))) : ∃ t, clusterOp u f valid effect s = .next t
      ∧ OnlyWork s t ∧ t.bytesAt k n = b ∧ KeepsBytesOutside k n s t ∧ AllGoOn u t := by
  subst hn
  obtain ⟨hgo, hframe⟩ := resumed_runs hw.runs
  refine ⟨_, clusterOp_starts h hv effect, (onlyWork_started u s).trans (hw.only.trans ?_), ?_, fun a ha => ?_, hgo⟩
  · rw [OnlyWork, hframe]
  · rw [hframe]; exact hw.bytes
  · rw [hframe]; exact hw.outside a ha

end

end Sys2Proof.Machine
end

section
/-! PROOFS. The limb operations: lengths of limbs, their words and their images, and the write they end in (R90, R190). -/

namespace Sys2Proof.Machine

/-! ### Lengths -/

theorem wordsOf_length (b : Bytes) : (wordsOf b).length = b.length / 4 := by rw [wordsOf, List.length_map, List.length_range]

theorem wordBytes_length (l : List Nat) : (wordBytes l).length = 4 * l.length := leBytes_flatMap_length l 4 id

@[simp] theorem bytesAt_length (s : State) (k n : Nat) : (s.bytesAt k n).length = n := cellsGet_length ..

theorem ctStage_length (q psi logN i : Nat) (l : List Nat) : (ctStage q psi logN i l).length = 2 ^ logN := by
  rw [ctStage, List.length_map, List.length_range]

theorem gsStage_length (q psi logN i : Nat) (l : List Nat) : (gsStage q psi logN i l).length = 2 ^ logN := by
  rw [gsStage, List.length_map, List.length_range]

/-- Stages that give limbs of one length leave a limb of that length so. -/
theorem foldl_stages_length {n : Nat} {g : List Nat → Nat → List Nat} (hg : ∀ a i, (g a i).length = n) (stages : List Nat)
    {l : List Nat} (hl : l.length = n) : (stages.foldl g l).length = n := by
  induction stages generalizing l with
  | nil => exact hl
  | cons i stages ih => exact ih (hg l i)

theorem nttLimb_length (q psi : Nat) {logN : Nat} {l : List Nat} (hl : l.length = 2 ^ logN) :
    (nttLimb q psi logN l).length = 2 ^ logN := foldl_stages_length (fun a i => ctStage_length q psi logN i a) _ hl

theorem inttLimb_length (q psi : Nat) {logN : Nat} {l : List Nat} (hl : l.length = 2 ^ logN) :
    (inttLimb q psi logN l).length = 2 ^ logN := foldl_stages_length (fun a i => gsStage_length q psi logN i a) _ hl

theorem autoLimb_length (logN g : Nat) (l : List Nat) : (autoLimb logN g l).length = 2 ^ logN := by
  have hput (es : List (Nat × Nat)) (a : Array Nat) :
      (es.foldl (fun (t : Array Nat) (e : Nat × Nat) => t.setIfInBounds (autoTarget logN g e.2) e.1) a).size = a.size := by
    induction es generalizing a with
    | nil => rfl
    | cons e es ih => rw [List.foldl_cons, ih, Array.size_setIfInBounds]
  rw [autoLimb, Array.length_toList, hput, Array.size_replicate]

/-! ### Images -/

section
variable {s : State} {u : UnitId} {f : OFmt} {psi : Nat}

/-- A stage or transform under a stated root and a prime entry is the named one (R90, R184). -/
theorem rooted_eq (op : Nat) (g : Nat → Nat → List Nat → List Nat) {ok : Bool} (l : List Nat)
    (hroot : nttRoot (s.imageOf u.part) f.p8.toNat (modEntry s u f.mod.toNat).modulus = some psi)
    (hkind : (modEntry s u f.mod.toNat).kind = 1) (hok : ok = true) :
    rooted s u f op g ok l = g (modEntry s u f.mod.toNat).modulus psi l := by
  simp only [rooted, hroot, hkind, hok, beq_self_eq_true, Bool.and_self, if_true]

theorem modOk_of_kind (hkind : (modEntry s u f.mod.toNat).kind = 1) : modOk s u f.mod = true := by rw [modOk, hkind]; rfl

/-- A clean limb that is read becomes its image at the destination. -/
theorem limbOp_wrote {src dst logN ks kd : Nat} {g : List Nat → List Nat} (hr : Readable s u src (4 * 2 ^ logN) ks)
    (hw : Writable s u dst (4 * 2 ^ logN) kd) (hruns : clusterRuns s u = true) (hwf : Memory.wf s.mem = true)
    (hg : (g (wordsOf (s.bytesAt ks (4 * 2 ^ logN)))).length = 2 ^ logN) :
    Wrote u kd (wordBytes (g (wordsOf (s.bytesAt ks (4 * 2 ^ logN))))) s (limbOp u src dst logN g s) := by
  have hpos : 0 < 4 * 2 ^ logN := Nat.mul_pos (by decide) (Nat.two_pow_pos logN)
  obtain ⟨t, hread, hwalk⟩ := unitRead_readable hpos hr
  have hlen : (wordBytes (g (wordsOf (s.bytesAt ks (4 * 2 ^ logN))))).length = 4 * 2 ^ logN := by rw [wordBytes_length, hg]
  have htruns : clusterRuns t u = true := (hwalk.clusterRuns u).trans hruns
  rw [limbOp, hread]
  simp only [htruns, if_true]
  exact hwalk.thenWrote (unitWrite_writable (by rw [hlen]; exact hpos) (by rw [hlen]; exact hwalk.writable hw) (hwalk.wf hwf) htruns)

/-! ### Words -/

/-- A started word whose effect is an operation on a limb leaves the limb's image (R90, R190). -/
theorem limbOp_leaves {src dst kd ks : Nat} {g : List Nat → List Nat} {valid : Bool} {effect : State → State}
    (h : StartsClusterOp s u f) (hv : valid = true) (hwf : Memory.wf s.mem = true)
    (he : effect (started u s) = limbOp u src dst f.p8.toNat g (started u s))
    (hr : Readable (started u s) u src (4 * 2 ^ f.p8.toNat) ks) (hw : Writable (started u s) u dst (4 * 2 ^ f.p8.toNat) kd)
    (hg : (g (wordsOf (s.bytesAt ks (4 * 2 ^ f.p8.toNat)))).length = 2 ^ f.p8.toNat) :
    ∃ t, clusterOp u f valid effect s = .next t ∧ OnlyWork s t
      ∧ t.bytesAt kd (4 * 2 ^ f.p8.toNat) = wordBytes (g (wordsOf (s.bytesAt ks (4 * 2 ^ f.p8.toNat))))
      ∧ KeepsBytesOutside kd (4 * 2 ^ f.p8.toNat) s t ∧ AllGoOn u t := by
  refine clusterOp_wrote h hv (by rw [wordBytes_length, hg]) ?_
  rw [he]
  exact limbOp_wrote hr hw h.1.clusterRuns hwf hg

/-- A stage or transform in place, under the modulus of the named entry and its root. -/
theorem limbInPlace_leaves {k op : Nat} {g : Nat → Nat → List Nat → List Nat} {ok : Bool} (h : StartsClusterOp s u f)
    (hf : f.wf = true) (hwf : Memory.wf s.mem = true) (hr : Readable (started u s) u (s.x u f.xa).toNat (4 * 2 ^ f.p8.toNat) k)
    (hw : Writable (started u s) u (s.x u f.xa).toNat (4 * 2 ^ f.p8.toNat) k)
    (hroot : nttRoot (s.imageOf u.part) f.p8.toNat (modEntry s u f.mod.toNat).modulus = some psi)
    (hkind : (modEntry s u f.mod.toNat).kind = 1) (hok : ok = true)
    (hg : ∀ l : List Nat, l.length = 2 ^ f.p8.toNat → (g (modEntry s u f.mod.toNat).modulus psi l).length = 2 ^ f.p8.toNat) :
    ∃ t, clusterOp u f (f.wf && modOk s u f.mod) (limbInPlace u f op g ok) s = .next t ∧ OnlyWork s t
      ∧ t.bytesAt k (4 * 2 ^ f.p8.toNat)
          = wordBytes (g (modEntry s u f.mod.toNat).modulus psi (wordsOf (s.bytesAt k (4 * 2 ^ f.p8.toNat))))
      ∧ KeepsBytesOutside k (4 * 2 ^ f.p8.toNat) s t ∧ AllGoOn u t := by
  have hfun : rooted (started u s) u f op g ok = g (modEntry s u f.mod.toNat).modulus psi := by
    rw [← modEntry_started] at hroot hkind ⊢
    exact funext fun l => rooted_eq op g l hroot hkind hok
  refine limbOp_leaves h (by rw [hf, modOk_of_kind hkind]; rfl) hwf ?_ hr hw (hg _ ?_)
  · rw [limbInPlace, x_started, hfun]
  · rw [wordsOf_length, bytesAt_length]
    omega

end

end Sys2Proof.Machine

open Sys2Proof Sys2Proof.Machine

/-- Settles O10: the four operations in place by one lemma on stages under a root, AUTOL by the lemma on limbs under it. -/
theorem limbOpsTransform : Obligations.LimbOpsTransform := by
  intro s u f k hissue hf
  refine ⟨fun hwait => ⟨fun hmod => ?_, clusterOp_waits hissue hf hwait _⟩, fun hstart hwf => ?_⟩
  · have hok : modOk s u f.mod = true := bne_iff_ne.mpr hmod
    exact clusterOp_waits hissue (by rw [hf, hok]; rfl) hwait _
  intro logN n e w leaves hread
  refine ⟨fun hwrite psi hroot hkind => ⟨fun hstage => ⟨?_, ?_⟩, ?_, fun _ => ?_⟩, fun kd hwrite hodd => ?_⟩
  · exact limbInPlace_leaves hstart hf hwf hread hwrite hroot hkind (decide_eq_true hstage) fun l _ => ctStage_length ..
  · exact limbInPlace_leaves hstart hf hwf hread hwrite hroot hkind (decide_eq_true hstage) fun l _ => gsStage_length ..
  · exact limbInPlace_leaves hstart hf hwf hread hwrite hroot hkind rfl fun l hl => nttLimb_length _ _ hl
  · exact limbInPlace_leaves hstart hf hwf hread hwrite hroot hkind rfl fun l hl => inttLimb_length _ _ hl
  · have hvalid : (Instr.autol u f).wf = true := by rw [Instr.wf, hf, hodd]; rfl
    have heffect : limbOp u ((started u s).x u f.xa).toNat ((started u s).x u f.xd).toNat logN
        (autoLimb logN (f.p24.toNat % 2 ^ 18)) (started u s) = limbOp u (s.x u f.xa).toNat (s.x u f.xd).toNat logN
        (autoLimb logN (f.p24.toNat % 2 ^ 18)) (started u s) := by rw [x_started, x_started]
    exact limbOp_leaves hstart hvalid hwf heffect hread hwrite (autoLimb_length ..)
end

section
/-! PROOFS. The ciphertext operations: what an operation on operands does by the status of its checks and of its keys (R100, R104). -/

namespace Sys2Proof.Machine

section
variable {s s1 s2 : State} {u : UnitId} {f : OFmt} {dst : Nat} {vas : List Nat} {plan : Image → List Operand → ObjectOp}
  {l : List Operand} {kb : List KeyView} {e st : Status}

theorem headD_eq_opNth (l : List Operand) : l.headD ⟨0, headerFields [], false, false, []⟩ = opNth l 0 := by cases l <;> rfl

/-- The keys that a plan needs of its operands, as the lookup finds them. -/
def planKeys (s : State) (u : UnitId) (l : List Operand) (o : ObjectOp) : List (Option (KsSlot × KeyRec)) :=
  o.keys.map (findKey s u.part (opNth l 0).h.keyset (opNth l 0).h.paramSet)

/-- Operands that pass their checks, and keys that stream: header and body are written. -/
theorem objectOp_ok (hread : readObjects u vas s = (s1, some l))
    (hst : operandStatus s1 u.part l (plan (s1.imageOf u.part) l) (planKeys s1 u l (plan (s1.imageOf u.part) l)) = .ok)
    (hkeys : streamKeys u ((planKeys s1 u l (plan (s1.imageOf u.part) l)).filterMap id) s1 = (s2, some (.ok kb))) :
    objectOp u dst vas plan s = opWriteMem u (dst + 64) ((plan (s1.imageOf u.part) l).body kb) false
      (opWriteMem u dst { (plan (s1.imageOf u.part) l).out with poisoned := false }.bytes false s2) := by
  rw [planKeys] at hst hkeys
  rw [objectOp, hread]
  simp only [headD_eq_opNth, hst, hkeys]

/-- A key block that is faulty ends an operation that has begun. -/
theorem objectOp_keyFault (hread : readObjects u vas s = (s1, some l))
    (hst : operandStatus s1 u.part l (plan (s1.imageOf u.part) l) (planKeys s1 u l (plan (s1.imageOf u.part) l)) = .ok)
    (hkeys : streamKeys u ((planKeys s1 u l (plan (s1.imageOf u.part) l)).filterMap id) s1 = (s2, some (.error e))) :
    objectOp u dst vas plan s = failOp u true [(dst, (plan (s1.imageOf u.part) l).out)] e s2 := by
  rw [planKeys] at hst hkeys
  rw [objectOp, hread]
  simp only [headD_eq_opNth, hst, hkeys]

/-- A check that fails ends the operation before it begins. -/
theorem objectOp_refused (hread : readObjects u vas s = (s1, some l)) (hne : st ≠ .ok)
    (hst : operandStatus s1 u.part l (plan (s1.imageOf u.part) l) (planKeys s1 u l (plan (s1.imageOf u.part) l)) = st) :
    objectOp u dst vas plan s = failOp u false [(dst, (opNth l 0).h)] st s1 := by
  rw [planKeys] at hst
  rw [objectOp, hread]
  simp only [headD_eq_opNth, hst]

/-- A word's outcome is its plan's, by the checks of the operands read and by what becomes of the keys. -/
def RunsPlan (s : State) (u : UnitId) (dst : Nat) (vas : List Nat) (plan : Image → List Operand → ObjectOp) (r : Out) : Prop :=
  ∀ s1 l, readObjects u vas (started u s) = (s1, some l) →
    let o := plan (s1.imageOf u.part) l
    let keys := planKeys s1 u l o
    (∀ s2 kb, operandStatus s1 u.part l o keys = .ok → streamKeys u (keys.filterMap id) s1 = (s2, some (.ok kb)) →
      r = .next (resumed u (opWriteMem u (dst + 64) (o.body kb) false
        (opWriteMem u dst { o.out with poisoned := false }.bytes false s2)))) ∧
    (∀ s2 e, operandStatus s1 u.part l o keys = .ok → streamKeys u (keys.filterMap id) s1 = (s2, some (.error e)) →
      r = .next (resumed u (failOp u true [(dst, o.out)] e s2))) ∧
    (∀ st, st ≠ .ok → operandStatus s1 u.part l o keys = st → r = .next (resumed u (failOp u false [(dst, (opNth l 0).h)] st s1)))

theorem clusterOp_runsPlan {effect : State → State} (h : StartsClusterOp s u f) (hf : f.wf = true)
    (he : effect (started u s) = objectOp u dst vas plan (started u s)) :
    RunsPlan s u dst vas plan (clusterOp u f f.wf effect s) := by
  intro s1 l hread
  rw [clusterOp_starts h hf, he]
  refine ⟨fun s2 kb hst hkeys => ?_, fun s2 e hst hkeys => ?_, fun st hne hst => ?_⟩
  · rw [objectOp_ok hread hst hkeys]
  · rw [objectOp_keyFault hread hst hkeys]
  · rw [objectOp_refused hread hne hst]

/-- An operation on one operand at X[XA]. -/
theorem unary_runsPlan (h : StartsClusterOp s u f) (hf : f.wf = true) (plan : Image → List Operand → ObjectOp) :
    RunsPlan s u (s.x u f.xd).toNat [(s.x u f.xa).toNat] plan
      (clusterOp u f f.wf (fun s => objectOp u (s.x u f.xd).toNat [(s.x u f.xa).toNat] plan s) s) :=
  clusterOp_runsPlan h hf (by simp only [x_started])

/-- An operation on the operands at X[XA] and X[XB]. -/
theorem binary_runsPlan (h : StartsClusterOp s u f) (hf : f.wf = true) (plan : Image → List Operand → ObjectOp) :
    RunsPlan s u (s.x u f.xd).toNat [(s.x u f.xa).toNat, (s.x u f.xb).toNat] plan
      (clusterOp u f f.wf (fun s => objectOp u (s.x u f.xd).toNat [(s.x u f.xa).toNat, (s.x u f.xb).toNat] plan s) s) :=
  clusterOp_runsPlan h hf (by simp only [x_started])

end

end Sys2Proof.Machine

open Sys2Proof Sys2Proof.Machine

/-- Settles O12: each operation is its plan, run on one operand or on two. -/
theorem objectOpsComplete : Obligations.ObjectOpsComplete := fun _ _ f h hf =>
  ⟨binary_runsPlan h hf (addPlan 0x38 addQ), binary_runsPlan h hf (addPlan 0x39 subQ), binary_runsPlan h hf addPlainPlan,
    binary_runsPlan h hf mulPlainPlan, binary_runsPlan h hf mulPlan,
    unary_runsPlan h hf fun i l => galoisPlan 2 (galoisOf (opNth l 0).h.logN f.p24.toInt) i l,
    unary_runsPlan h hf fun i l => galoisPlan 3 (2 * 2 ^ (opNth l 0).h.logN - 1) i l,
    unary_runsPlan h hf rescalePlan, unary_runsPlan h hf (dropPlan f.p24.toNat), unary_runsPlan h hf (formPlan 0x41 true),
    unary_runsPlan h hf (formPlan 0x42 false), unary_runsPlan h hf slotSumPlan⟩
end

section
/-! PROOFS. The ciphertexts of a release: the noise that CT_FLOOD adds, and the slots that CT_COMBINE decodes (R106 to R109, R151). -/

namespace Sys2Proof.Machine

section
variable {s s1 s2 : State} {u : UnitId} {f : OFmt} {a : Operand} {kb : List KeyView}

/-! ### CT_FLOOD -/

/-- A word whose draws are served goes on as a cluster operation. -/
theorem issueDraw_served {sync : Bool} {k : Ctx} (h : CanIssue s u sync) (hserved : drawsServed s u.part k = true) (draws : Bool)
    (go : State → Out) : issueDraw u sync k draws go s = go s := by
  simp only [issueDraw, h.gate, hserved, Bool.not_true, Bool.and_false, Bool.false_eq_true, if_false]

/-- Outside step 2 of its finalize a round's ciphertext stays as it is. -/
theorem floodEffect_outside (hphase : (s.ctx u.part (opCtx f)).phase ≠ .free) (hstep : (s.ctx u.part (opCtx f)).inStepTwo = false) :
    floodEffect u f s = s := by
  simp only [floodEffect, if_neg hphase, hstep, Bool.not_false, if_true]

/-- The operation that adds the encryption of the drawn noise and flooding to ciphertext `j` (R106). -/
def floodOp (c : RoundCtx) (r : RingSet) (j : Nat) (a : Operand) : ObjectOp :=
  let z := floodDraws c r j
  { agree := a.h.fmt == 1
    keys := [⟨6, 0, a.h.level⟩]
    out := { a.h with noise := noiseAdd (noiseAdd a.h.noise (4 * c.policy.floodBits)) r.incEnc }
    body := fun kb => ctBytes r a.h.level a.h.ntt (ctAdd (r.basis a.h.level) (ctOf r a)
      (encryptUnder r a.h.level (keyNth kb 0) (encodeNoise r a.h c.policy.decodeF z.1.1) z.1.2.1 z.1.2.2.1 z.1.2.2.2)) }

/-- The draws of ciphertext `j` are counted, and the bound of the release's noise rises to the ciphertext's (R106, R151). -/
def countFlood (u : UnitId) (k : Ctx) (z : (List Int × List Int × List Int × List Int) × Nat × Nat) (j noise : Nat) (s : State) :
    State :=
  addDelta u { ctx := k, samples := z.2.1, retry := z.2.2, cover := [(6, j, 1)] }
    (State.onCtx u.part k (fun c => { c with enc := { c.enc with nbRelease := max c.enc.nbRelease noise } }) s)

/-- In step 2 the noised ciphertext is written in place and to staging, and its draws are counted. -/
theorem floodEffect_adds (hphase : (s.ctx u.part (opCtx f)).phase ≠ .free) (hstep : (s.ctx u.part (opCtx f)).inStepTwo = true)
    {xd : Nat} (hxd : (s.x u f.xd).toNat = xd) (hread : readObjects u [xd] s = (s1, some [a])) :
    let r := setOf (s1.imageOf u.part) a.h
    let o := floodOp (s.ctx u.part (opCtx f)) r f.p24.toNat a
    operandStatus s1 u.part [a] o (planKeys s1 u [a] o) = .ok →
    streamKeys u ((planKeys s1 u [a] o).filterMap id) s1 = (s2, some (.ok kb)) →
    let b := { o.out with poisoned := false }.bytes ++ o.body kb
    let t0 := opWriteMem u xd b false s2
    let t1 := unitStore u (stageKey u.part.val (opCtx f).val (f.p24.toNat * b.length)) b false t0
    clusterRuns t0 u = true → clusterRuns t1 u = true →
    floodEffect u f s
      = countFlood u (opCtx f) (floodDraws (s.ctx u.part (opCtx f)) r f.p24.toNat) f.p24.toNat o.out.noise t1 := by
  intro r o hst hkeys b t0 t1 h0 h1
  simp only [planKeys, floodOp, opNth, List.getD_cons_zero, List.map_cons, List.map_nil, o, r] at hst hkeys
  simp only [floodOp, t1, t0, b, o, r] at h0 h1
  simp only [floodEffect, if_neg hphase, hstep, Bool.not_true, Bool.false_eq_true, if_false, hxd, hread, opNth, List.getD_cons_zero,
    List.map_cons, List.map_nil, hst, hkeys, h0, h1, if_true, countFlood, floodOp, t1, t0, b, o, r]

/-! ### CT_COMBINE -/

/-- The slots that ciphertext `j` of a round decodes to with the summed shares (R107, R108), as they are written. -/
def combinedSlots (q : Policy) (r : RingSet) (j : Nat) (a : Operand) (shares : Bytes) : Bytes :=
  let b := r.basis a.h.level
  let d := cutLimbs r.logN (wordsOf shares)
  let slot := decodedSlots r a.h.scale a.h.level
    (zipLimbs b addQ (partCoef r a 0) (if q.encNtt then toCoef r.logN b d else d))
  (List.range (min (Policy.slotsOf r) (q.stretchLen - j * Policy.slotsOf r))).flatMap fun n => leBytes 8 (slot n)

/-- A ciphertext counts as decoded (R107). -/
def noteDecoded (p : Part) (k : Ctx) (j : Nat) : State → State :=
  State.onCtx p k fun c => { c with enc := { c.enc with
    decoded := if c.enc.decoded.contains j then c.enc.decoded else j :: c.enc.decoded } }

theorem readObjects_one {va : Nat} (h : readObject u va s = (s1, some a)) : readObjects u [va] s = (s1, some [a]) := by
  simp only [readObjects, h]

/-- A clean ciphertext of the round's level and set, and clean shares: the slots are written and counted. -/
theorem combineEffect_decodes {shares : Bytes} (hphase : (s.ctx u.part (opCtx f)).phase ≠ .free)
    {xa : Nat} (hxa : (s.x u f.xa).toNat = xa) (hread : readObject u xa s = (s1, some a)) (hclean : a.clean = true)
    (hshape : a.shape = true) (hfmt : a.h.fmt = 1) (hlevel : a.h.level = (s.ctx u.part (opCtx f)).policy.level)
    (hset : a.h.paramSet = (s.ctx u.part (opCtx f)).policy.paramSet)
    (hkeyset : a.h.keyset = (s.ctx u.part (opCtx f)).policy.keysetId) :
    let r := setOf (s1.imageOf u.part) a.h
    unitRead u false (s1.x u f.xb).toNat (Policy.bodyBytes r 1 a.h.level) s1 = (s2, some (shares, false)) →
    let t := opWriteMem u (s1.x u f.xd).toNat (combinedSlots (s.ctx u.part (opCtx f)).policy r f.p24.toNat a shares) false s2
    clusterRuns t u = true → combineEffect u f s = noteDecoded u.part (opCtx f) f.p24.toNat t := by
  intro r hshares t hruns
  have hchecks : (!a.shape || a.h.fmt != 1 || a.h.level != (s.ctx u.part (opCtx f)).policy.level
      || a.h.paramSet != (s.ctx u.part (opCtx f)).policy.paramSet) = false := by simp [hshape, hfmt, ← hlevel, ← hset]
  simp only [r] at hshares
  simp only [t, combinedSlots, r] at hruns
  simp only [combineEffect, if_neg hphase, hxa, readObjects_one hread, opNth, List.getD_cons_zero, hclean, Bool.not_true,
    Bool.false_eq_true, if_false, hchecks, if_neg (not_not_intro hkeyset), hshares, hruns, when_true, noteDecoded, combinedSlots, t, r]

end

end Sys2Proof.Machine

open Sys2Proof Sys2Proof.Machine

/-- Settles O14: CT_FLOOD by the step of the round's finalize, CT_COMBINE by the slots it decodes. -/
theorem releaseObjectOpsComplete : Obligations.ReleaseObjectOpsComplete := by
  intro s u f h hf xa xd c j
  refine ⟨fun hphase hserved => ⟨fun hstep => ?_, fun s1 a s2 kb hstep hread => ?_⟩,
    fun hphase s1 a s2 sh hread hclean hshape hfmt hlevel hset hkeyset => ?_⟩
  · change execCtFlood u f s = _
    rw [execCtFlood, issueDraw_served h.1 hserved, clusterOp_starts h hf, floodEffect_outside (s := started u s) hphase hstep]
  · intro r z out o keys hst hkeys b t0 t1 h0 h1
    change execCtFlood u f s = _
    rw [execCtFlood, issueDraw_served h.1 hserved, clusterOp_starts h hf,
      floodEffect_adds (s := started u s) hphase hstep (congrArg BitVec.toNat (x_started u s f.xd)) hread hst hkeys h0 h1]
    rfl
  · intro r hshares q d slot t0 hruns
    change execCtCombine u f s = _
    rw [execCtCombine, clusterOp_starts h hf,
      combineEffect_decodes (s := started u s) hphase (congrArg BitVec.toNat (x_started u s f.xa)) hread hclean hshape hfmt
        hlevel hset hkeyset hshares hruns]
    rfl
end

section
/-! PROOFS. KEYSET_LOAD, the source of a COMBINE round, and the repairs of table stores and program memory (R98, R99, R107, R125,
R192). -/

namespace Sys2Proof.Machine

section
variable {s s1 t : State} {p : Part} {k : Ctx} {c : Cmd} {b : Bytes}

/-! ### Operands of the partition controller -/

theorem OnlyWalks.ctx (h : OnlyWalks p s t) (j : Ctx) : t.ctx p j = s.ctx p j := by rw [State.ctx, h.own]; rfl

theorem OnlyWalks.hif (h : OnlyWalks p s t) (fn : Fn) : t.hif fn = s.hif fn := by
  cases fn with
  | f0 q => rw [h.frame]; rfl
  | part q =>
    rw [State.hif, State.hif]
    by_cases hq : q = p
    · rw [hq, h.own]
    · rw [h.other q hq]

theorem OnlyWalks.roundKeeps (h : OnlyWalks p s t) (k : Ctx) : RoundKeeps p k s t :=
  ⟨h.slot, ⟨fun j _ => h.ctx j, h.other⟩, fun fn => ⟨[], by rw [h.hif, List.append_nil]⟩, h.wf⟩

theorem onlyWalks_noteReadVA (p : Part) (va len perm : Nat) (s : State) : OnlyWalks p s (noteReadVA p va len perm s) := by
  unfold noteReadVA
  split
  · exact .refl p s
  · refine forAll_keeps (OnlyWalks p s) (pageSplit va len) (fun x t => match s.translate p x.1 perm with
      | .ok key => t.noteRead key x.2
      | .error _ => t) s (.refl p s) fun x _ t ht => ?_
    split
    · exact ht.trans (onlyWalks_noteRead ..)
    · exact ht

/-- An operand that is read leaves notes of its walks and of the lines in error that it met (R204). -/
theorem onlyWalks_readOperand {va len : Nat} (h : readOperand p va len s = (s1, .ok b)) : OnlyWalks p s s1 := by
  unfold readOperand at h
  extract_lets w at h
  have hw : OnlyWalks p s w := by
    simp only [w]
    split
    · exact onlyWalks_noteWalks ..
    · exact .refl p s
  split at h
  · obtain ⟨rfl, -⟩ := Prod.mk.inj h
    exact hw
  · split at h
    · cases (Prod.mk.inj h).2
    · obtain ⟨rfl, -⟩ := Prod.mk.inj h
      exact hw.trans (onlyWalks_noteReadVA ..)

/-! ### KEYSET_LOAD -/

theorem roundKeeps_setKeyset (p : Part) (n : Fin 16) (x : KsSlot) (k : Ctx) (s : State) : RoundKeeps p k s (setKeyset p n x s) :=
  roundKeeps_onPart _ { PartKeeps.refl k (s.part p) with }

theorem keysets_setKeyset (p : Part) (n : Fin 16) (x : KsSlot) (s : State) :
    ((setKeyset p n x s).part p).keysets = vput (s.part p).keysets n x := by rw [setKeyset, State.part_onPart]

theorem keysets_complete (c : Cmd) (op : Nat) (st : Status) (aux result : Nat) (s : State) (q : Part) :
    ((complete c op st aux result s).part q).keysets = (s.part q).keysets := by
  have hown (r : Part) (f : PartState → PartState) (hf : ∀ x, (f x).keysets = x.keysets) :
      ((s.onPart r f).part q).keysets = (s.part q).keysets := by
    by_cases hq : q = r
    · rw [hq, State.part_onPart, hf]
    · rw [State.part_onPart_other s r q f hq]
  rcases complete_cases c op st aux result s with h | ⟨_, _, _, h⟩ | ⟨r, _, _, h⟩ <;> rw [h]
  · rw [postCompletion]
    cases c.fn with
    | f0 r => rfl
    | part r => exact hown r _ fun _ => rfl
  · exact hown r _ fun _ => rfl

theorem loadKeyset_clears {slot : U8} {n : Fin 16} (hslot : slot.toNat = n.val) (va : U64)
    (hfree : (((s.part p).keysets[n]).registered && keysetUsed (s.part p) ((s.part p).keysets[n]).id.toNat) = false) :
    loadKeyset c slot va 0 p s = done c 0x30 .ok (setKeyset p n {} s) := by
  have hn : (⟨slot.toNat, hslot ▸ n.isLt⟩ : Fin 16) = n := Fin.ext hslot
  rw [loadKeyset, dif_pos (hslot ▸ n.isLt)]
  simp only [hn, hfree, if_true, Bool.false_eq_true, if_false]

/-- The slot that registers a key-set of `total` blocks `b`. -/
def registeredSlot (va : U64) (total : Nat) (b : Bytes) (keys : List KeyRec) : KsSlot :=
  { id := BitVec.ofNat 64 (fieldLE b 0 8), registered := true, paramSet := fieldLE b 11 1, blocks := total, fail := 0
    digest := Crypto.sha256 b, va := va, keys := keys }

theorem loadKeyset_registers {slot : U8} {n : Fin 16} {va : U64} {total : U32} {keys : List KeyRec} (hslot : slot.toNat = n.val)
    (hfree : (((s.part p).keysets[n]).registered && keysetUsed (s.part p) ((s.part p).keysets[n]).id.toNat) = false)
    (htotal : total ≠ 0) (hread : readOperand p va.toNat (4096 * total.toNat) s = (s1, .ok b))
    (hdram : allDram s1 p va.toNat (4096 * total.toNat) = true)
    (hid : ∀ m : Fin 16, ((s1.part p).keysets[m]).registered = true → ((s1.part p).keysets[m]).id.toNat ≠ fieldLE b 0 8)
    (hscan : scanKeyset (s1.imageOf p) total.toNat b = .ok keys) :
    loadKeyset c slot va total p s = done c 0x30 .ok (setKeyset p n (registeredSlot va total.toNat b keys) s1) := by
  have hn : (⟨slot.toNat, hslot ▸ n.isLt⟩ : Fin 16) = n := Fin.ext hslot
  have hused : ((s1.part p).keysets.toList.any fun x => x.registered && x.id.toNat == fieldLE b 0 8
      && keysetUsed (s1.part p) (fieldLE b 0 8)) = false := by
    rw [List.any_eq_false]
    intro x hx
    obtain ⟨m, hm, rfl⟩ := List.mem_iff_getElem.mp hx
    rw [Vector.length_toList] at hm
    have hne := hid ⟨m, hm⟩
    simp only [Fin.getElem_fin] at hne
    simp only [Vector.getElem_toList, Bool.and_eq_true, beq_iff_eq]
    exact fun h => hne h.1.1 h.1.2
  have hother : ((List.finRange 16).any fun m => m != n && ((s1.part p).keysets[m]).registered
      && ((s1.part p).keysets[m]).id.toNat == fieldLE b 0 8) = false := by
    rw [List.any_eq_false]
    intro m _
    simp only [Bool.and_eq_true, beq_iff_eq]
    exact fun h => hid m h.1.2 h.2
  rw [loadKeyset, dif_pos (hslot ▸ n.isLt)]
  simp only [hn, hfree, htotal, hread, hdram, hused, hscan, hother, Bool.not_true, Bool.or_self, Bool.false_eq_true, if_false,
    registeredSlot]

/-- A slot that is set, and the command completed. -/
theorem completed_setKeyset (hc : FromPart s c p 0x30) (hkeeps : RoundKeeps p 0 s s1) (n : Fin 16) (x : KsSlot) :
    ((done c 0x30 .ok (setKeyset p n x s1)).part p).keysets = vput (s1.part p).keysets n x
      ∧ Completed s (done c 0x30 .ok (setKeyset p n x s1)) c 0x30 .ok 0 0 :=
  ⟨(keysets_complete ..).trans (keysets_setKeyset ..),
    ((hkeeps.trans (roundKeeps_setKeyset p n x 0 s1)).thenCompletes hc.1 hc.answers .ok 0 0).2⟩

theorem execKeysetLoad_clears {slot : U8} {n : Fin 16} (hc : FromPart s c p 0x30) (hslot : slot.toNat = n.val) (va : U64)
    (hfree : (((s.part p).keysets[n]).registered && keysetUsed (s.part p) ((s.part p).keysets[n]).id.toNat) = false) :
    ∃ t, exec (.keysetLoad c slot va 0) s = .next t ∧ (t.part p).keysets[n] = {} ∧ t.mem = s.mem
      ∧ (∀ m, m ≠ n → (t.part p).keysets[m] = (s.part p).keysets[m]) ∧ Completed s t c 0x30 .ok 0 0 := by
  obtain ⟨hkeysets, hcompleted⟩ := completed_setKeyset hc (.refl p 0 s) n {}
  refine ⟨_, congrArg Host.Outcome.next ((partCommand_fromPart hc _).trans (loadKeyset_clears hslot va hfree)), ?_,
    complete_mem .., fun m hm => ?_, hcompleted⟩
  · rw [hkeysets]; exact State.vput_same ..
  · rw [hkeysets]; exact State.vput_other _ _ _ _ hm

theorem execKeysetLoad_registers {slot : U8} {n : Fin 16} {va : U64} {total : U32} {keys : List KeyRec} (hc : FromPart s c p 0x30)
    (hslot : slot.toNat = n.val)
    (hfree : (((s.part p).keysets[n]).registered && keysetUsed (s.part p) ((s.part p).keysets[n]).id.toNat) = false)
    (htotal : total ≠ 0) (hread : readOperand p va.toNat (4096 * total.toNat) s = (s1, .ok b))
    (hdram : allDram s1 p va.toNat (4096 * total.toNat) = true)
    (hid : ∀ m : Fin 16, ((s1.part p).keysets[m]).registered = true → ((s1.part p).keysets[m]).id.toNat ≠ fieldLE b 0 8)
    (hscan : scanKeyset (s1.imageOf p) total.toNat b = .ok keys) :
    ∃ t, exec (.keysetLoad c slot va total) s = .next t ∧ (t.part p).keysets[n] = registeredSlot va total.toNat b keys
      ∧ Completed s t c 0x30 .ok 0 0 := by
  obtain ⟨hkeysets, hcompleted⟩ := completed_setKeyset hc ((onlyWalks_readOperand hread).roundKeeps 0) n
    (registeredSlot va total.toNat b keys)
  refine ⟨_, congrArg Host.Outcome.next ((partCommand_fromPart hc _).trans
    (loadKeyset_registers hslot hfree htotal hread hdram hid hscan)), ?_, hcompleted⟩
  rw [hkeysets]
  exact State.vput_same ..

/-! ### The source of a COMBINE round -/

/-- The source is the one the round names. -/
def sourceGood (s : State) (p : Part) (q : Policy) (r : RingSet) (b : Bytes) : Bool :=
  Crypto.sha256 b == q.sourceDigest && !poisonVA s p q.sourceVA (q.ctCount * (64 + Policy.bodyBytes r 2 q.level)) 0
    && (List.range q.ctCount).all fun j => sourceOk q r ((b.drop ((64 + Policy.bodyBytes r 2 q.level) * j)).take 64)

theorem sourceGood_iff (s : State) (p : Part) (q : Policy) (r : RingSet) (b : Bytes) : sourceGood s p q r b = true
    ↔ Crypto.sha256 b = q.sourceDigest ∧ poisonVA s p q.sourceVA (q.ctCount * (64 + Policy.bodyBytes r 2 q.level)) 0 = false
      ∧ ∀ j, j < q.ctCount → sourceOk q r ((b.drop ((64 + Policy.bodyBytes r 2 q.level) * j)).take 64) = true := by
  simp only [sourceGood, Bool.and_eq_true, beq_iff_eq, Bool.not_eq_true', List.all_eq_true, List.mem_range, and_assoc]

/-- The source has been read, and the combining set is fixed (R107). -/
def noteSource (p : Part) (k : Ctx) (set : List Nat) : State → State :=
  State.onCtx p k fun c => { c with enc := { c.enc with
    sourceRead := true, combineSet := BitVec.ofNat 64 (set.map fun m => 2 ^ (m - 1)).sum } }

theorem readSource_eq {r : RingSet} (hring : (s.imageOf p).rings[(s.ctx p k).policy.paramSet]? = some r)
    (hread : readOperand p (s.ctx p k).policy.sourceVA
      ((s.ctx p k).policy.ctCount * (64 + Policy.bodyBytes r 2 (s.ctx p k).policy.level)) s = (s1, .ok b)) :
    readSource p k s = if sourceGood s1 p (s.ctx p k).policy r b then
        when (s.ctx p k).policy.shamir (weighShares p k r) (noteSource p k (combineSet (s.ctx p k)) s1)
      else postRound p k .poisonedInput .error (Config.openField 10) 0
        (poisonRound p k (noteSource p k (combineSet (s.ctx p k)) s1)) := by
  rw [readSource]
  simp only [hring, hread]
  rfl

theorem weighShares_parts (p : Part) (k : Ctx) (r : RingSet) (s : State) : (weighShares p k r s).parts = s.parts :=
  forAll_keeps (fun t => t.parts = s.parts) _ _ s rfl fun _ _ _ ht => (deviceWrite_parts ..).trans ht

/-- A source that is not the one named poisons every tile; one that is leaves memory, where shares are added as they are. -/
theorem readSource_settles {r : RingSet} (hring : (s.imageOf p).rings[(s.ctx p k).policy.paramSet]? = some r)
    (hread : readOperand p (s.ctx p k).policy.sourceVA
      ((s.ctx p k).policy.ctCount * (64 + Policy.bodyBytes r 2 (s.ctx p k).policy.level)) s = (s1, .ok b)) :
    ((readSource p k s).ctx p k).enc = ((noteSource p k (combineSet (s.ctx p k)) s1).ctx p k).enc
      ∧ (sourceGood s1 p (s.ctx p k).policy r b = false → roundPoisoned (readSource p k s) p k = true)
      ∧ (sourceGood s1 p (s.ctx p k).policy r b = true → (s.ctx p k).policy.shamir = false → (readSource p k s).mem = s1.mem) := by
  rw [readSource_eq hring hread]
  have hmem : (noteSource p k (combineSet (s.ctx p k)) s1).mem = s1.mem := rfl
  generalize noteSource p k (combineSet (s.ctx p k)) s1 = v at hmem
  cases hgood : sourceGood s1 p (s.ctx p k).policy r b with
  | true =>
    rw [if_pos rfl]
    refine ⟨?_, nofun, fun _ hshamir => ?_⟩
    · exact when_keeps (fun t => (t.ctx p k).enc = (v.ctx p k).enc) _ _ v rfl (by rw [ctx_of_parts (weighShares_parts ..)])
    · rw [hshamir, when_false, hmem]
  | false =>
    rw [if_neg Bool.false_ne_true]
    refine ⟨?_, fun _ => ?_, nofun⟩
    · rw [ctx_postRound, ctx_poisonRound]
    · rw [roundPoisoned, ctx_postRound, ctx_poisonRound, Bool.true_or]

theorem execCombineSourceRead_reads (hphase : (s.ctx p k).phase = .closing) (hmode : (s.ctx p k).policy.mode = .encrypted)
    (hcombine : (s.ctx p k).policy.combine = true) (hunread : (s.ctx p k).enc.sourceRead = false)
    (hheaders : (s.ctx p k).enc.headersSet = true) : exec (.combineSourceRead p k) s = .next (readSource p k s) := by
  change execCombineSourceRead p k s = _
  simp only [execCombineSourceRead, hphase, hmode, hcombine, hunread, hheaders, beq_self_eq_true, Bool.not_false, Bool.and_self,
    when_true]

/-! ### Repairs -/

theorem abortCluster_frame (d : Die) (n : Cluster) (s : State) :
    (abortCluster d n s).dies = s.dies ∧ (abortCluster d n s).mem.bad = s.mem.bad := by
  unfold abortCluster
  extract_lets r owned cancelled
  have howned : owned.dies = s.dies ∧ owned.mem.bad = s.mem.bad := by
    simp only [owned]
    split
    · exact forAll_keeps (fun t => t.dies = s.dies ∧ t.mem.bad = s.mem.bad) _ _ s ⟨rfl, rfl⟩ fun _ _ _ h => h
    · exact ⟨rfl, rfl⟩
  have hcancelled : cancelled.dies = s.dies ∧ cancelled.mem.bad = s.mem.bad :=
    forAll_keeps (fun t => t.dies = s.dies ∧ t.mem.bad = s.mem.bad) _ _ owned howned fun _ _ _ h => h
  clear_value cancelled
  split
  · exact forAll_keeps (fun t => t.dies = s.dies ∧ t.mem.bad = s.mem.bad) _ _ _ hcancelled fun _ _ _ h => h
  · exact ⟨rfl, rfl⟩

theorem aborted_abortCluster {d : Die} {n : Cluster} (h : (s.cluster d n).running = true) :
    ((abortCluster d n s).cluster d n).aborted = true := by
  cases ha : (s.cluster d n).aborted with
  | false => exact (abortCluster_spec h ha).2.1
  | true => rw [abortCluster, h, ha]; exact ha

theorem post_dies (fn : Fn) (cls : EventClass) (st : Status) (sev : Severity) (src : Nat) (det : U64) (s : State) :
    (post fn cls st sev src det s).dies = s.dies := by simp only [post, record, State.onEvr_dies, State.onHif_dies]

/-- A MEMORY event changes no die, no cluster and no memory. -/
theorem postMemory_frame (owner : Option Part) (key off : Nat) (st : Status) (sev : Severity) (source : Nat) (s : State) :
    (postMemory owner key off st sev source s).dies = s.dies ∧ (postMemory owner key off st sev source s).mem = s.mem
      ∧ (postMemory owner key off st sev source s).clusters = s.clusters := by
  have hpost (fn : Fn) (det : U64) (v : State) (hv : v.dies = s.dies ∧ v.mem = s.mem ∧ v.clusters = s.clusters) :
      (post fn .memory st sev source det v).dies = s.dies ∧ (post fn .memory st sev source det v).mem = s.mem
        ∧ (post fn .memory st sev source det v).clusters = s.clusters := by
    obtain ⟨hmem, -, hclusters, -⟩ := post_frame fn .memory st sev source det v
    rw [post_dies, hmem, hclusters]
    exact hv
  unfold postMemory postBoth postF0
  split
  · split
    · exact hpost _ _ _ (hpost _ _ s ⟨rfl, rfl, rfl⟩)
    · exact hpost _ _ s ⟨rfl, rfl, rfl⟩
  · exact hpost _ _ s ⟨rfl, rfl, rfl⟩

/-- Without its lines in error a cluster's program memory has none. -/
theorem programLines_dropped {d : Die} {n : Cluster} (hdies : t.dies = s.dies)
    (hbad : t.mem.bad = s.mem.bad.filter fun l => !(programLines s d n).contains l) : programLines t d n = [] := by
  have hphys : t.physOf d n = s.physOf d n := by rw [State.physOf, hdies]; rfl
  cases hn : s.physOf d n with
  | none => rw [programLines, hphys, hn]
  | some m =>
    rw [programLines, hphys, hn, hbad]
    dsimp only
    rw [List.filter_filter, List.filter_eq_nil_iff]
    intro l hl
    rw [programLines, hn]
    simp only [Bool.and_eq_true, decide_eq_true_eq, Bool.not_eq_true', List.contains_eq_mem, decide_eq_false_iff_not, List.mem_filter]
    exact fun h => h.2 ⟨hl, h.1⟩

theorem execTableStoreRebuild_rebuilds {d : Die} (g : Region) {i : Image} (howner : s.ownerOf d = some p)
    (himage : (s.part p).img.image = some i) : ∃ t, exec (.tableStoreRebuild d g) s = .next t
      ∧ (t.dies[d]).regions[g] = { (s.dies[d]).regions[g] with store := tableStore i, storeFailed := false } ∧ t.mem = s.mem := by
  have hexec : exec (.tableStoreRebuild d g) s = .next (postBoth p .partition .uncorrectableMemory .error
      (p.val ||| (8 * g.val) <<< 3 ||| d.val <<< 8) (detail 6 0)
      (State.onRegion d g (fun x => { x with store := tableStore i, storeFailed := false }) s)) := by
    change execTableStoreRebuild d g s = _
    simp only [execTableStoreRebuild, howner, himage]
  refine ⟨_, hexec, ?_, postBoth_mem ..⟩
  rw [postBoth, postF0, post_dies, post_dies]
  exact region_onRegion s d g _

theorem execProgramRecopy_recopies {d : Die} (n : Cluster) (howner : s.ownerOf d = some p) (himage : (s.part p).img.image ≠ none) :
    ∃ t, exec (.programRecopy p d n) s = .next t ∧ programLines t d n = []
      ∧ ((s.cluster d n).running = true → (t.cluster d n).aborted = true) := by
  obtain ⟨hadies, habad⟩ := abortCluster_frame d n s
  refine ⟨_, congrArg Host.Outcome.next (if_neg (not_or_intro (not_not_intro howner) himage)), ?_, fun hruns => ?_⟩
  · extract_lets lines at_ v
    obtain ⟨hdies, hmem, -⟩ := postMemory_frame (some p) (sramKey d.val ((s.physOf d n).getD 0) at_) at_ .uncorrectableMemory .error
      (memSource d.val n.val false (n.val / 8)) (abortCluster d n s)
    exact programLines_dropped (hdies.trans hadies) (by rw [State.onStore_mem, hmem, habad])
  · extract_lets lines at_ v
    obtain ⟨-, -, hclusters⟩ := postMemory_frame (some p) (sramKey d.val ((s.physOf d n).getD 0) at_) at_ .uncorrectableMemory .error
      (memSource d.val n.val false (n.val / 8)) (abortCluster d n s)
    rw [State.cluster, State.onStore_clusters, hclusters]
    exact aborted_abortCluster hruns

end

end Sys2Proof.Machine

open Sys2Proof Sys2Proof.Machine

/-- Settles O22: each row by the one change it makes, between an operand that is only read and a completion or an event. -/
theorem keysetsAndRepairsComplete : Obligations.KeysetsAndRepairsComplete := by
  refine ⟨fun s c p slot n va hc hslot hfree => ⟨execKeysetLoad_clears hc hslot va hfree,
      fun total s1 b keys htotal hread hdram hid hscan => ?_⟩,
    fun s s1 p k r b hphase hmode hcombine hunread hheaders hring => ?_,
    fun s d g p i howner himage => ?_, fun s p d n howner himage => execProgramRecopy_recopies n howner himage⟩
  · obtain ⟨t, hexec, hslotAt, hcompleted⟩ := execKeysetLoad_registers hc hslot hfree htotal hread hdram hid hscan
    exact ⟨t, hexec, by rw [hslotAt]; rfl, by rw [hslotAt]; rfl, by rw [hslotAt]; rfl, by rw [hslotAt]; rfl, hcompleted⟩
  · intro q size hread good
    obtain ⟨henc, hbad, hgood⟩ := readSource_settles hring hread
    rw [noteSource, State.ctx_onCtx] at henc
    have hiff := sourceGood_iff s1 p q r b
    exact ⟨readSource p k s, execCombineSourceRead_reads hphase hmode hcombine hunread hheaders, by rw [henc], by rw [henc],
      fun hnot => hbad (Bool.eq_false_iff.mpr fun h => hnot (hiff.mp h)), fun h => hgood (hiff.mpr h)⟩
  · obtain ⟨t, hexec, hstore, hmem⟩ := execTableStoreRebuild_rebuilds g howner himage
    exact ⟨t, hexec, by rw [hstore], by rw [hstore], hmem⟩
end

section
/-! PROOFS. The molts: the tables that MOLT looks up, and the batches of extracted samples of MOLT_EX (R113 to R125). -/

namespace Sys2Proof.Machine

section
variable {s s1 s2 : State} {u : UnitId} {f : OFmt} {o : Operand} {kb : List KeyView} {xa n : Nat} {xd : U64} {g : TableGroup}
  {m : MoltSet}

/-! ### MOLT -/

/-- The ciphertexts that operand `o` molts to through the word's group (R121), with the words of the region's table store. -/
def moltedTables (f : OFmt) (i : Image) (g : TableGroup) (m : MoltSet) (store : List U32) (o : Operand) (kb : List KeyView) :
    Nat → Ct :=
  let r := setOf i o.h
  let extract := (keyNth kb 0).words
  let fold := nextPow2 g.kOut
  let l := moltSamples i m r extract fold f.p8.toNat o
  moltTable m r (keyNth kb 1).words extract (storedTable store i m (f.p24.toNat % 16)) fold l.2.1 l.2.2 l.1

/-- Write the `K_OUT` destinations from `xd` on, each a header and the body of its ciphertext (R121, R124). -/
def writeMolted (u : UnitId) (f : OFmt) (i : Image) (g : TableGroup) (m : MoltSet) (xd : U64) (o : Operand) (table : Nat → Ct) :
    State → State :=
  let dst (t : Nat) : Nat := addr xd (t * f.imm.toNat)
  forAll (List.range g.kOut) fun t x => opWriteMem u (dst t + 64) (ctBytes (setOf i o.h) m.outLevel false (table t)) false
    (opWriteMem u (dst t) (moltOut i m o.h).bytes false x)

/-- An operand that passes every check of R123, keys that stream and a store that reads: the tables are written. -/
theorem moltEffect_writes (hxa : (s.x u f.xa).toNat = xa) (hxd : s.x u f.xd = xd) (hread : readObject u xa s = (s1, some o))
    (hgroup : (s.imageOf u.part).groups[f.p24.toNat % 16]? = some g) (hset : (s.imageOf u.part).molts[g.moltSet]? = some m)
    (hinput : moltInputOk (s.imageOf u.part) o = true) (hfits : moltFits (s.imageOf u.part) g m f.p8.toNat o = true)
    (hfound : (moltKeys.map (findKey s1 u.part o.h.keyset o.h.paramSet)).any Option.isNone = false) (hnoise : o.h.noise ≤ m.inMax)
    (hkeys : streamKeys u ((moltKeys.map (findKey s1 u.part o.h.keyset o.h.paramSet)).filterMap id) s1 = (s2, some (.ok kb)))
    (hstore : storeBad s2 u = false) :
    moltEffect u f s = writeMolted u f (s.imageOf u.part) g m xd o
      (moltedTables f (s.imageOf u.part) g m (storeWords s2 u) o kb) s2 := by
  simp only [moltEffect, hxa, hxd, hread, hgroup, Option.map_some, Option.getD_some, Option.bind_some, hset, hinput, hfits,
    Bool.not_true, Bool.false_eq_true, if_false, hfound, if_neg (Nat.not_lt.mpr hnoise), hkeys, hstore, writeMolted, moltedTables]

/-! ### MOLT_EX -/

/-- The samples in each batch of MOLT_EX (R122). -/
def batchCount (f : OFmt) : Nat := 2 ^ min f.p8.toNat (f.p24.toNat % 32)

/-- Write the batches that the samples `l` of molt set `n` make up, from `xd` on (R122). -/
def writeBatches (u : UnitId) (f : OFmt) (n : Nat) (xd : U64) (o : Operand) (l : List Sample) : State → State :=
  forAll (List.range (2 ^ f.p8.toNat / batchCount f)) fun b x => opWriteMem u (addr xd (b * f.imm.toNat))
    (batchBytes n o.h f.p8.toNat (b * batchCount f) ((l.drop (b * batchCount f)).take (batchCount f))) false x

/-- A clean ciphertext of a molt set's ring, with room for its batches and a key that streams: the batches are written. -/
theorem moltExEffect_writes (hxa : (s.x u f.xa).toNat = xa) (hxd : s.x u f.xd = xd) (hread : readObject u xa s = (s1, some o))
    (hindex : (s.imageOf u.part).molts.findIdx? (fun m => m.outerSet == o.h.paramSet) = some n)
    (hset : (s.imageOf u.part).molts[n]? = some m) (hclean : o.clean = true) (hshape : o.shape = true) (hfmt : o.h.fmt = 1)
    (hring : f.p8.toNat ≤ o.h.logN) (hsigma : f.p8.toNat ≤ 17) (hroom : 16 * batchCount f ≤ 2 ^ o.h.logN)
    (hfound : (findKey s1 u.part o.h.keyset o.h.paramSet ⟨5, 0, 0⟩).isSome = true) (hnoise : o.h.noise ≤ m.inMax)
    (hkeys : streamKeys u ([findKey s1 u.part o.h.keyset o.h.paramSet ⟨5, 0, 0⟩].filterMap id) s1 = (s2, some (.ok kb))) :
    moltExEffect u f s = writeBatches u f n xd o (extractAll m (setOf (s.imageOf u.part) o.h)
      (downKey (setOf (s.imageOf u.part) o.h) (keyNth kb 0).words) (2 ^ (Config.extractLog n % 3)) f.p8.toNat
      (ctOf (setOf (s.imageOf u.part) o.h) o)) s2 := by
  have hfits : (!o.shape || o.h.fmt != 1 || decide (o.h.logN < f.p8.toNat) || decide (2 ^ o.h.logN < 16 * batchCount f)) = false := by
    simp [hshape, hfmt, hring, hroom]
  have hkey : [findKey s1 u.part o.h.keyset o.h.paramSet ⟨5, 0, 0⟩].any Option.isNone = false := by simp [hfound]
  rw [batchCount] at hfits
  simp only [moltExEffect, hxa, hxd, hread, if_pos hsigma, hindex, Option.getD_some, hset, hclean, hfits, hkey, Bool.not_true,
    Bool.false_eq_true, if_false, if_neg (Nat.not_lt.mpr hnoise), hkeys, writeBatches, batchCount]

end

end Sys2Proof.Machine

open Sys2Proof Sys2Proof.Machine

/-- Settles O13: MOLT by the tables of its group, MOLT_EX by the batches of its samples; the effect begins where the units meet, with
the index registers and the image as they were. -/
theorem moltsComplete : Obligations.MoltsComplete := by
  intro s u f h hf s1 o hread i r key dst
  have hxa : ((started u s).x u f.xa).toNat = (s.x u f.xa).toNat := congrArg BitVec.toNat (x_started u s f.xa)
  have hxd := x_started u s f.xd
  refine ⟨fun s2 kb g m hgroup hset hinput hfits hfound hnoise hkeys hstore => ?_,
    fun s2 kb n m hindex hset hclean hshape hfmt hring hsigma hroom hfound hnoise hkeys => ?_⟩
  · change execMolt u f s = _
    rw [execMolt, clusterOp_starts h hf,
      moltEffect_writes (s := started u s) hxa hxd hread hgroup hset hinput hfits hfound hnoise hkeys hstore]
    rfl
  · change execMoltEx u f s = _
    rw [execMoltEx, clusterOp_starts h hf,
      moltExEffect_writes (s := started u s) hxa hxd hread hindex hset hclean hshape hfmt hring hsigma hroom hfound hnoise hkeys]
    rfl
end
